-- ==== Sys2Proof/Word.lean ====
section
/-! DEFINITION. The word types of the Sariskel 9600 (R6): bytes, 32-bit register words, 64-bit pairs, lane masks. -/

namespace Sys2Proof

/-- One byte of memory. -/
abbrev Byte := BitVec 8
/-- One 32-bit register (a lane of a V register, an S register). -/
abbrev Word := BitVec 32
/-- A 64-bit value; an even-odd register pair holds its low half in the even register (R6). -/
abbrev DWord := BitVec 64
/-- One bit per lane of a group of 96 lanes (R20); bits 31:0 are EM0, 63:32 EM1, 95:64 EM2 (R29). -/
abbrev Mask := BitVec 96
/-- One 96-bit instruction slot of a fetch line (R31). -/
abbrev Slot := BitVec 96

/-- Lanes of a group (R20). -/
abbrev laneCount : Nat := 96

end Sys2Proof
end

