-- ==== Sys2Proof/Syntax.lean ====
section
/-! DEFINITION. Abstract syntax: types, operands, the fields of both instruction streams, and `Instr`, one
constructor per row of the table of operations and events. -/

namespace Sys2Proof

/-- The type codes of Table 2-10c (R52). -/
inductive Ty where
  | i8 | n8 | i16 | n16 | i32 | n32 | i64 | n64 | f16 | bf16 | f32 | f64 | bf16x2 | f16x2 | e4m3x4 | e5m2x4
  deriving DecidableEq, Repr

/-- Operand specifiers of Table 2-10a (R49). `reserved` keeps the raw value of a specifier that names nothing. -/
inductive Operand where
  | v (n : BitVec 8)
  | t (k : BitVec 3)
  | s (n : BitVec 6)
  | p (n : BitVec 4)
  | lane | grp | chain | thrd
  | int (n : BitVec 6)
  | fp (n : BitVec 4)
  | absent
  | reserved (raw : BitVec 10)
  deriving DecidableEq, Repr

/-- The common header (Table 2-7, R45) and bits 95:64 (Table 2-8, R46) of a main-stream instruction. The opcode is the
constructor of `Instr` that carries the fields. Every field keeps its encoded value, because whether a reserved value
raises cause 0x00 is decided when the instruction executes (R66, R67). -/
structure Fields where
  /-- Guard, bits 11:8. -/
  gpr : BitVec 4
  /-- Guard negate, bit 12. -/
  gng : Bool
  /-- Bits 15:13, reserved. -/
  rsv : BitVec 3
  /-- Destination, bits 23:16 (R47). -/
  d : BitVec 8
  /-- Operand A, bits 33:24. -/
  a : Operand
  /-- Operand B, bits 43:34. -/
  b : Operand
  /-- Type, bits 47:44. -/
  ty : Ty
  /-- Rounding mode, bits 50:48. -/
  rm : BitVec 3
  sat : Bool
  na : Bool
  nb : Bool
  nc : Bool
  aa : Bool
  /-- Sub-operation, bits 63:56. -/
  sub : BitVec 8
  /-- Bits 95:64, whose layout depends on the form. -/
  x : BitVec 32
  deriving DecidableEq, Repr

/-- The trailer (Table 2-9). -/
structure Trailer where
  gpr : BitVec 4
  gng : Bool
  rsv : BitVec 3
  n : BitVec 8
  e0 : BitVec 9
  e1 : BitVec 9
  e2 : BitVec 9
  e3 : BitVec 9
  e4 : BitVec 9
  e5 : BitVec 9
  e6 : BitVec 9
  e7 : BitVec 9
  deriving DecidableEq, Repr

/-- Matrix modes (Table 9-1). -/
inductive MatMode where
  | bb | bq | bf | bi
  deriving DecidableEq, Repr

/-- Fields of MMA and MMZ (Table 9-7). -/
structure PassFields where
  zt : BitVec 6
  zc : BitVec 2
  da : BitVec 3
  db : BitVec 3
  mode : MatMode
  pri : BitVec 2
  deriving DecidableEq, Repr

/-- Fields of ZOUT (Table 9-7). -/
structure ZoutFields where
  zt : BitVec 6
  zc : BitVec 2
  dt : BitVec 3
  rnd : BitVec 3
  satn : Bool
  ntz : Bool
  ys : BitVec 4
  sce : Bool
  deriving DecidableEq, Repr

/-- Fields of ZIN (Table 9-7). -/
structure ZinFields where
  zt : BitVec 6
  zc : BitVec 2
  dt : BitVec 3
  deriving DecidableEq, Repr

/-- Fields of TSRW (Table 9-7). -/
structure TsrwFields where
  dt : BitVec 3
  ya : BitVec 4
  sp : Bool
  zc : BitVec 2
  disp : BitVec 32
  deriving DecidableEq, Repr

/-- The TSR field that TADV changes (Table 9-7). -/
inductive TadvField where
  | row0 | col0 | org2 | org3
  deriving DecidableEq, Repr

/-- Fields of TADV (Table 9-7); `src` is the Y register of YSEL = 1, or the immediate. -/
structure TadvFields where
  dt : BitVec 3
  fld : TadvField
  ysel : Bool
  yn : BitVec 4
  imm : BitVec 32
  deriving DecidableEq, Repr

/-- Source of YMOV (Table 9-7). -/
inductive YmovSrc where
  | reg (ys : BitVec 4)
  | imm (v : BitVec 64)
  | load (ys : BitVec 4) (disp : BitVec 32)
  deriving DecidableEq, Repr

/-- Second source of YADD (Table 9-7). -/
inductive YaddSrc where
  | reg (yb : BitVec 4)
  | imm (v : BitVec 32)
  deriving DecidableEq, Repr

/-- Conditions of YBR (Table 9-8). -/
inductive YCond where
  | always | z | nz | lt | ge | dnz
  deriving DecidableEq, Repr

/-- Which operations MWT waits for (R280): all, or those on one tile of one core. -/
inductive MwtSel where
  | all
  | tile (zt : BitVec 6) (zc : BitVec 2)
  deriving DecidableEq, Repr

/-- A logical core of the package (R14): its die and its number on the die. -/
structure CoreId where
  die : Nat
  core : Nat
  deriving DecidableEq, Repr

/-- A quad of the package. -/
structure QuadId where
  die : Nat
  quad : Nat
  deriving DecidableEq, Repr

/-- Who asked for a walk: a core, or the tile fetch unit of a quad (R205, R277). -/
inductive Walker where
  | core (c : CoreId)
  | fetchUnit (q : QuadId)
  deriving DecidableEq, Repr

/-- A fabric packet that reaches a gateway of this package (Tables 10-8, 10-9): a put or a get response. -/
structure FabricPacket where
  sinc : BitVec 16
  dinc : BitVec 16
  spkg : BitVec 12
  part : BitVec 8
  ctxid : BitVec 32
  dst : CoreId
  /-- Destination scratchpad offset. -/
  off : Nat
  data : List Byte
  /-- Counter offset at the destination, 0xFFFF_FFFF for none. -/
  cnt : BitVec 32
  /-- The tag of the command it belongs to, which its answer returns, and whether it is a get response. -/
  tag : Option Nat
  response : Bool
  /-- Whether this is the last packet of its transfer. -/
  last : Bool
  deriving DecidableEq, Repr

/-- A get request that reaches a core of this package (R314). -/
structure GetRequest where
  sinc : BitVec 16
  dinc : BitVec 16
  spkg : BitVec 12
  part : BitVec 8
  ctxid : BitVec 32
  src : CoreId
  off : Nat
  len : Nat
  tag : Nat
  /-- Where the answer goes: the requesting core and its destination offset. -/
  dest : CoreId
  doff : Nat
  deriving DecidableEq, Repr

/-- Who sent a packet, and the incarnations that its header carries (R321). -/
structure Stamp where
  spkg : BitVec 12
  sinc : BitVec 16
  dinc : BitVec 16
  deriving DecidableEq, Repr

/-- One XRED contribution as a switch receives it (R317, R318). -/
structure Contribution where
  from_ : Stamp
  slot : Nat
  ctxid : BitVec 32
  index : Nat
  round : BitVec 8
  deadline : DWord
  op : BitVec 2
  f32 : Bool
  n : Nat
  data : List Byte
  /-- The tag of the command that sent it. -/
  tag : Nat
  deriving DecidableEq, Repr

/-- What a TLBI drops (R395). -/
inductive TlbiKind where
  /-- `n` pages of 64 KiB from one that holds `va`, of a context and global ones. -/
  | page (va : Nat) (n : Nat) (ctx : BitVec 32)
  | ctx (c : BitVec 32)
  | part (p : BitVec 8)
  | all
  deriving DecidableEq, Repr

/-- What packages of a pod tell each other in packets for which Table 10-9 has no KOP (log entry 96). -/
inductive Notice where
  /-- SIGT (R400). -/
  | signal (core : CoreId) (slot : Nat) (ctx : BitVec 32) (value : Word)
  /-- A TLBI of the sender, and the answer once it is done there (R395). -/
  | tlbi (id : Nat) (what : TlbiKind)
  | tlbiDone (id : Nat)
  /-- How many launches of a linked set stand at the heads of the sender's queues (R410). -/
  | linked (set : Nat) (n : Nat)
  /-- The sender resets a queue: its launch is killed and the marker comes back (R416). -/
  | kill (lid : Nat)
  | killed (lid : Nat)
  /-- Places for `n` workgroups of the receiver's co-resident launch are reserved at the sender; and the whole grid has its places (R418). -/
  | reserved (lid : Nat) (n : Nat)
  | start (lid : Nat)
  deriving DecidableEq, Repr

/-- What reaches a gateway of the package from the fabric (R315; log entry 96). -/
inductive FabricArrival where
  | data (pk : FabricPacket)
  | notice (from_ : Stamp) (n : Notice)
  deriving DecidableEq, Repr

/-- A journal record (Table 12-1), 256 bits. -/
abbrev JRec := BitVec 256

/-- Journal records in index order, from the index of the first. -/
structure JRun where
  first : Nat
  recs : List JRec
  deriving DecidableEq, Repr

/-- Who asks for a replay (R364): the package's stamp, the die of the new stream, and the first index wanted (Table 12-2). -/
structure Requester where
  stamp : Stamp
  die : Nat
  first : Nat
  deriving DecidableEq, Repr

/-- A flit as a link receives it (R322): the header of Table 10-8, segments 1 to 9, and the outcome of its authentication and check under
the key that its KG names (log entry 18). -/
structure Flit where
  head : BitVec 512
  segs : List (BitVec 512)
  authentic : Bool
  deriving DecidableEq, Repr

/-- A workgroup of a launch that another package's distributors have been given (R418, R419): the package of the launch's queue and the
launch there, what the launch is, the die, and the workgroup. -/
structure Share where
  pkg : Nat
  lid : Nat
  ctx : BitVec 32
  part : Byte
  idx : Nat
  packet : BitVec 512
  desc : BitVec 2048
  die : Nat
  w : Nat
  pref : Option Nat
  named : Option Nat
  deriving DecidableEq, Repr

/-- What WORKGROUP_PLACE does (R22, R417, R418): a die places one of its pending workgroups, a share arrives from the Vuvosum's
distributors, or a workgroup of a co-resident launch with no place in this package takes one in the package with an index. -/
inductive Placing where
  | here (die : Nat)
  | arrives (x : Share)
  | elsewhere (lid : Nat) (w : Nat) (index : Nat)
  deriving DecidableEq, Repr

/-- A steal for an idle distributor (R419): a die's from a sibling, a die's from another package's list, or out of this package by another
one. -/
inductive Steal where
  | sibling (die : Nat)
  | package (die : Nat) (xs : List Share)
  | taken (pkg : Nat) (lid : Nat)
  deriving DecidableEq, Repr

/-- What LAUNCH_COMPLETE is about (R410): a launch, and how many of its workgroups that other packages had they report as ended. -/
structure LaunchEnd where
  lid : Nat
  ended : Nat
  deriving DecidableEq, Repr

/-- What a machine check is about (Table 13-6). -/
inductive McEvent where
  /-- Restored group state holds an uncorrectable word (code 0x02). -/
  | restoredState (gid : Nat)
  /-- Uncorrectable error in core logic (code 0x04). `poisoned` names the groups whose saved state holds an uncorrectable word. -/
  | coreLogic (core : CoreId) (poisoned : List Nat)
  /-- Uncorrectable error in a shadow bank load (code 0x05). -/
  | shadowLoad (core : CoreId)
  /-- An uncorrectable error in a task's write buffer: one entry, or all of it (R335). -/
  | buffer (gid : Nat) (entry : Option Nat)
  /-- An uncorrectable error in data: these bytes are delivered poisoned from now on (R213). -/
  | data (keys : List Nat)
  deriving DecidableEq, Repr

/-- What passes to another partition (R391). -/
inductive ClearUnit where
  | core (c : CoreId)
  | vault (die : Nat) (v : Nat)
  /-- Ways of a die's L2 that pass to a partition: the sectors they hold, by home address. -/
  | way (die : Nat) (part : BitVec 8) (sectors : List Nat)
  deriving DecidableEq, Repr

/-- What CACHE_EVICTION drops (R448). -/
inductive Evict where
  | l1 (c : CoreId) (sector : Nat)
  | l2 (line : Nat)
  | tlb (c : CoreId) (vpn : Nat)
  deriving DecidableEq, Repr

/-- A firmware lease (R414, R434). -/
inductive LeaseKind where
  | package | vuvosum | kernel
  deriving DecidableEq, Repr

/-- What function 0, or the I3C port, is read for (R420, R422, R427, R431). -/
inductive Management where
  | aperture | lifetime | bootStatus
  deriving DecidableEq, Repr

/-- A host access through the BAR2 aperture, or a read of function 0 (R420, R422). -/
inductive HostAccess where
  | read (off : Nat) (len : Nat)
  | write (off : Nat) (data : List Byte)
  | fetchAdd (off : Nat) (wide : Bool) (val : DWord)
  | swap (off : Nat) (wide : Bool) (val : DWord)
  | cas (off : Nat) (wide : Bool) (cmp : DWord) (val : DWord)
  | management (r : Management)
  deriving DecidableEq, Repr

/-- Where a store that matters to a queue goes: a launch window, or the write index of the queue with a record (R406, R434). -/
inductive WindowTarget where
  | slot (k : Nat)
  | index (rec_ : Nat)
  deriving DecidableEq, Repr

/-- Where a package's time comes from (R426): its upstream neighbour's time, or itself, named pod master by the device kernel. -/
inductive TimeSource where
  | upstream (time : Nat)
  | master
  deriving DecidableEq, Repr

/-- A boot stage image as the ROM loads it (R427): the slot it is measured into, its digest, and whether its signature and
its security version pass. -/
structure BootImage where
  slot : Nat
  digest : BitVec 256
  signed : Bool
  version : Nat
  deriving DecidableEq, Repr

/-- A frame that arrives on an Ethernet port (R424, R426). -/
inductive EthFrame where
  /-- The device kernel's receive buffer (its pool address, from the kernel's ring) and the bytes. -/
  | data (port : Nat) (buf : Nat) (bytes : List Byte)
  /-- A PTP message: the time it gives the master. -/
  | ptp (port : Nat) (time : Nat)
  deriving DecidableEq, Repr

/-- One constructor per row of spec/opcode_table.json: the main stream, the Burin stream, and the events. -/
inductive Instr where
  -- vector integer and predicate (R121, R133)
  | vadd (f : Fields) | vsub (f : Fields) | vmul (f : Fields) | vmulh (f : Fields) | vmad (f : Fields)
  | vmin (f : Fields) | vmax (f : Fields) | vlop3 (f : Fields) | vshf (f : Fields) | vbfx (f : Fields)
  | vbfi (f : Fields) | vbit (f : Fields) | vsel (f : Fields) | vcmp (f : Fields) | vdot4 (f : Fields)
  | vprm (f : Fields) | vmov (f : Fields) | plop3 (f : Fields)
  -- floating point (R157)
  | fadd (f : Fields) | fmul (f : Fields) | ffma (f : Fields) | fmin (f : Fields) | fmax (f : Fields)
  | fcmp (f : Fields) | fcls (f : Fields) | frnd (f : Fields) | fscl (f : Fields) | fsfn (f : Fields)
  | cvt (f : Fields) | cvtp (f : Fields) | qpk (f : Fields) | qpkAmax (f : Fields) | qup (f : Fields)
  -- immediate forms (R133, R174)
  | vaddi (f : Fields) | vmuli (f : Fields) | vlopi (f : Fields) | vshfi (f : Fields) | vcmpi (f : Fields)
  | vmovi (f : Fields) | vseli (f : Fields) | vmini (f : Fields) | vmaxi (f : Fields)
  | faddi (f : Fields) | fmuli (f : Fields) | ffmai (f : Fields) | fcmpi (f : Fields)
  -- scalar (R104)
  | sadd (f : Fields) | ssub (f : Fields) | smul (f : Fields) | smulh (f : Fields) | smin (f : Fields)
  | smax (f : Fields) | slop3 (f : Fields) | sshf (f : Fields) | sbfx (f : Fields) | sbit (f : Fields)
  | scmp (f : Fields) | ssel (f : Fields) | smov (f : Fields) | sadd64 (f : Fields) | slea (f : Fields)
  | sdiv (f : Fields) | srds (f : Fields) | sfma (f : Fields) | scvt (f : Fields)
  -- control (R92)
  | bra (f : Fields) | brp (f : Fields) | join (f : Fields) | call (f : Fields) | ret (f : Fields)
  | loop (f : Fields) | trl (t : Trailer) | nop (f : Fields) | exit (f : Fields) | trap (f : Fields)
  | sfmt (f : Fields) | waitt (f : Fields) | yld (f : Fields) | brx (f : Fields)
  -- memory (R214)
  | ld (f : Fields) | st (f : Fields) | lds (f : Fields) | sts (f : Fields) | ldv (f : Fields) | stv (f : Fields)
  | sld (f : Fields) | sst (f : Fields) | ldz (f : Fields) | stz (f : Fields) | prf (f : Fields)
  | cctl (f : Fields) | dscd (f : Fields)
  -- atomics, fences, barriers, waits (R239, R245)
  | atom (f : Fields) | atoms (f : Fields) | atomv (f : Fields) | satom (f : Fields)
  | fnc (f : Fields) | fwt (f : Fields) | bar (f : Fields) | wtct (f : Fields)
  -- cross-lane (R181)
  | nbr (f : Fields) | scan (f : Fields) | red (f : Fields) | vote (f : Fields) | bcst (f : Fields)
  | rgrp (f : Fields) | srtk (f : Fields)
  -- streams, copy, fabric (R297)
  | qsubCfgl (f : Fields) | qsubCfgs (f : Fields) | qsubSub (f : Fields) | qsubDrop (f : Fields)
  | qret (f : Fields) | cpy (f : Fields) | cpyt (f : Fields) | ewt (f : Fields) | xput (f : Fields)
  | xget (f : Fields) | xred (f : Fields)
  -- tasks and Slalom (R347)
  | tspn (f : Fields) | tsus (f : Fields) | tend (f : Fields)
  | slinSet (f : Fields) | slinRec (f : Fields) | slinClose (f : Fields) | slinFree (f : Fields)
  | slps (f : Fields) | sldp (f : Fields) | slfxRd (f : Fields) | slfxPin (f : Fields) | slfxUnpin (f : Fields)
  | slst (f : Fields)
  -- journal (R367)
  | jtok (f : Fields) | jrte (f : Fields) | jrd (f : Fields)
  -- system (R393)
  | kret (f : Fields) | csrr (f : Fields) | csrw (f : Fields) | scopetabWrite (f : Fields)
  | tlbiPage (f : Fields) | tlbiCtx (f : Fields) | tlbiPart (f : Fields) | tlbiAll (f : Fields)
  | swcxLoad (f : Fields) | swcxArm (f : Fields) | swcxCancel (f : Fields)
  | engr (f : Fields) | fltr (f : Fields) | hlt (f : Fields) | sigt (f : Fields)
  | scpwVault (f : Fields) | scpwL2way (f : Fields) | scpwPinq (f : Fields) | scpwSlot (f : Fields)
  | scpwTask (f : Fields) | scpwFq (f : Fields) | scpwFqack (f : Fields) | scpwStrict (f : Fields)
  | scpwPeer (f : Fields) | scpwSpare (f : Fields)
  | jtrnCfg (f : Fields) | jtrnHost (f : Fields) | jtrnPart (f : Fields) | jtrnCkpt (f : Fields)
  | jtrnTrunc (f : Fields) | jtrnSync (f : Fields) | jtrnRply (f : Fields)
  -- the Burin stream (R285)
  | mma (f : PassFields) | mmz (f : PassFields) | zout (f : ZoutFields) | zin (f : ZinFields)
  | tsrw (f : TsrwFields) | tadv (f : TadvFields) | barr (bn : BitVec 4) (e : BitVec 7) | bwai (bn : BitVec 4)
  | ordy | mwt (sel : MwtSel) | ymov (yd : BitVec 4) (src : YmovSrc) | yadd (yd : BitVec 4) (ya : BitVec 4) (src : YaddSrc)
  | ybr (ya : BitVec 4) (c : YCond) (off : BitVec 32) | bend | bnop
  -- events of the core and its groups
  | fetchLine (gid : Nat) (va : DWord)
  | signalDelivery (gid : Nat)
  | asyncErrorDelivery (gid : Nat)
  | deferredResult (gid : Nat) (k : Nat)
  | waitResume (gid : Nat)
  | waittWake (gid : Nat)
  | yldWake (gid : Nat)
  | fenceComplete (gid : Nat)
  | barrierPhaseComplete (gid : Nat) (scope : Nat)
  | numberedBarrierComplete (wid : Nat) (b : Nat)
  | stepComplete (wid : Nat) (k : Nat)
  | walk (who : Walker) (va : DWord) (write : Bool)
  | faultReplyArrival (ctxid : BitVec 32) (die : Nat) (tag : BitVec 16) (status : BitVec 4) (cause : Byte) (k : Nat)
  -- engines
  | loaderSectorWrite (core : CoreId) (q : Nat) (o : Nat)
  | storerSectorWrite (core : CoreId) (q : Nat) (o : Nat)
  | copyComplete (cmd : Nat)
  | xgetRequestArrival (r : GetRequest)
  | fabricPacketArrival (x : FabricArrival)
  | flitReceive (port : Nat) (fl : Flit)
  | linkRetrain (port : Nat)
  | linkKeyLoad (port : Nat) (key : BitVec 256)
  | linkKeySwitch (port : Nat)
  | xredContributionArrival (c : Contribution)
  | xredRoundDeadline (slot : Nat)
  | xredResultDelivery (k : Nat)
  -- the journal
  | journalAppendSend (die : Nat) (ctxid : BitVec 32) (count : Nat)
  | journalAppendArrival (die : Nat) (from_ : Stamp) (ctxid : BitVec 32) (jt : Nat) (first : Nat) (recs : List JRec)
  | journalAckArrival (die : Nat) (ctxid : BitVec 32) (spkg : BitVec 12) (sinc : BitVec 16) (dinc : BitVec 16) (upto : Nat)
  | journalResendTimer (die : Nat) (ctxid : BitVec 32)
  | journalTruncateArrival (die : Nat) (from_ : Stamp) (ctxid : BitVec 32) (jt : Nat)
  | journalFetchRequest (die : Nat) (requester : Requester) (spkg : BitVec 12) (sdie : Nat) (sctxid : BitVec 32) (nctxid : BitVec 32)
  | journalFetchResponse (die : Nat) (ctxid : BitVec 32) (from_ : Stamp) (run : JRun)
  -- tasks and the router
  | taskStart (die : Nat)
  | continuationReady (die : Nat) (k : Nat)
  | stageBatchAge (die : Nat) (ctxid : BitVec 32) (set : Nat) (stage : Nat)
  | statsWindowClose (die : Nat) (ctxid : BitVec 32) (set : Nat)
  | recordFinish (die : Nat) (ctxid : BitVec 32) (set : Nat)
  -- the matrix engine
  | arbiterGrant (q : QuadId)
  | tileFetchLine (q : QuadId)
  | pinTimeout (q : QuadId)
  | engineOpDone (q : QuadId)
  -- context exchange, machine checks, partitions
  | swap (core : CoreId)
  | shadowLoadComplete (core : CoreId)
  | spillComplete (core : CoreId)
  | granuleExchange (core : CoreId) (k : Nat)
  | machineCheck (e : McEvent)
  | partitionClear (u : ClearUnit)
  -- queues, launch, distribution
  | windowStore (at_ : WindowTarget) (data : BitVec 512) (from_ : Option Nat)
  | queueScan (slot : Nat)
  | launchDispatch (slot : Nat)
  | waitPacket (slot : Nat)
  | signalPacket (slot : Nat)
  | queueRegister (slot : Nat)
  | queueDeregister (slot : Nat)
  | queueReset (slot : Nat)
  | queuePriority (slot : Nat)
  | launchComplete (e : LaunchEnd)
  | workgroupPlace (p : Placing)
  | workSteal (x : Steal)
  | map (epoch : Nat) (record : Nat)
  | unmap (epoch : Nat) (slot : Nat)
  | switch (epoch : Nat) (dies : List Nat) (ctxid : BitVec 32) (frame : DWord) (time : DWord)
  | leaseRenew (k : LeaseKind)
  | leaseTakeover (k : LeaseKind) (holder : Nat)
  | kernelTakeover
  -- host die, time, security, service
  | notificationRead
  | pcieHostAccess (a : HostAccess)
  | apertureConfig (base : Nat) (part : Byte)
  | ethTransmit (port : Nat) (desc : Nat) (buf : Nat) (len : Nat)
  | dtimeExchange (src : TimeSource) (offset : Nat)
  | dtimeSyncLoss
  | packageReset (images : List BootImage)
  | m7Extend (digest : BitVec 256)
  | attestationRequest (nonce : BitVec 256)
  | keyInstall (part : Byte) (keloma : Bool) (wrapped : BitVec 512)
  | lifetimeCounterSave
  | orderlyPowerDown
  | thermalThrottle (steps : Nat)
  | thermalShutdown
  | writePerformed (k : Nat)
  | cacheEviction (e : Evict)
  | operandPhaseEnd (q : QuadId)
  | localCompletion (cmd : Nat)
  | pcieLinkDown (down : Bool)
  | ethFrameReceive (fr : EthFrame)
  | droopEvent (die : Nat)
  | powerLoss
  deriving DecidableEq, Repr

/-- Who moves next (log entry 3). -/
inductive Turn where
  /-- A group that an issuer holds issues its next instruction. -/
  | issue (gid : Nat)
  /-- A Burin sequencer executes its next instruction. -/
  | sequence (wid : Nat)
  /-- Another agent's step, or an input from outside the package. -/
  | event (i : Instr)
  deriving DecidableEq, Repr, Inhabited

end Sys2Proof
end

