-- ==== Sys2Proof/Decode.lean ====
section
/-! DEFINITION. Decoding of both instruction streams (R45 to R70, R285), the encoder written from the same tables, and
fetch lines (R31 to R34). -/

namespace Sys2Proof

/-- Why a slot decodes to no instruction. `reservedOpcode`: Tables 2-15 and 2-16. `reservedSub`: the SUB value selects no
row of an opcode that is split by SUB. `reservedField`: a reserved value of a Burin instruction (R285). -/
inductive DecodeError where
  | reservedOpcode
  | reservedSub
  | reservedField
  deriving DecidableEq, Repr

/-- Table 2-10c. -/
def Ty.ofBits (c : BitVec 4) : Ty :=
  match c.toNat with
  | 0 => .i8 | 1 => .n8 | 2 => .i16 | 3 => .n16 | 4 => .i32 | 5 => .n32 | 6 => .i64 | 7 => .n64
  | 8 => .f16 | 9 => .bf16 | 10 => .f32 | 11 => .f64 | 12 => .bf16x2 | 13 => .f16x2 | 14 => .e4m3x4 | _ => .e5m2x4

/-- Table 2-10c. -/
def Ty.toBits : Ty → BitVec 4
  | .i8 => 0 | .n8 => 1 | .i16 => 2 | .n16 => 3 | .i32 => 4 | .n32 => 5 | .i64 => 6 | .n64 => 7
  | .f16 => 8 | .bf16 => 9 | .f32 => 10 | .f64 => 11 | .bf16x2 => 12 | .f16x2 => 13 | .e4m3x4 => 14 | .e5m2x4 => 15

/-- Table 2-10a (R49). -/
def Operand.ofBits (x : BitVec 10) : Operand :=
  if x < 0x100#10 then .v (x.extractLsb' 0 8)
  else if x < 0x108#10 then .t (x.extractLsb' 0 3)
  else if x < 0x140#10 then .reserved x
  else if x < 0x180#10 then .s (x.extractLsb' 0 6)
  else if x < 0x18C#10 then .p (x.extractLsb' 0 4)
  else if x = 0x190#10 then .lane
  else if x = 0x191#10 then .grp
  else if x = 0x192#10 then .chain
  else if x = 0x193#10 then .thrd
  else if x < 0x1C0#10 then .reserved x
  else if x < 0x200#10 then .int (x.extractLsb' 0 6)
  else if x < 0x210#10 then .fp (x.extractLsb' 0 4)
  else if x = 0x3FF#10 then .absent
  else .reserved x

/-- Table 2-10a (R49). -/
def Operand.toBits : Operand → BitVec 10
  | .v n => 0b00#2 ++ n
  | .t k => 0b0100000#7 ++ k
  | .s n => 0b0101#4 ++ n
  | .p n => 0b011000#6 ++ n
  | .lane => 0x190#10
  | .grp => 0x191#10
  | .chain => 0x192#10
  | .thrd => 0x193#10
  | .int n => 0b0111#4 ++ n
  | .fp n => 0b100000#6 ++ n
  | .absent => 0x3FF#10
  | .reserved r => r

/-- An operand value that some specifier produces: predicates are P0 to P11, and a reserved specifier names nothing. -/
def Operand.proper : Operand → Bool
  | .p n => n < 12#4
  | .reserved r => Operand.ofBits r == .reserved r
  | _ => true

/-- The C specifier, bits 73:64 (Table 2-8). -/
def Fields.c (f : Fields) : Operand := Operand.ofBits (f.x.extractLsb' 0 10)
/-- Bits 95:74: reserved in V3, SC and XL, the displacement of an MA atomic (Table 2-8). -/
def Fields.hi22 (f : Fields) : BitVec 22 := f.x.extractLsb' 10 22

/-- The common header and bits 95:64 of a slot (Tables 2-7 and 2-8). -/
def Fields.ofSlot (w : Slot) : Fields where
  gpr := w.extractLsb' 8 4
  gng := w.getLsbD 12
  rsv := w.extractLsb' 13 3
  d := w.extractLsb' 16 8
  a := Operand.ofBits (w.extractLsb' 24 10)
  b := Operand.ofBits (w.extractLsb' 34 10)
  ty := Ty.ofBits (w.extractLsb' 44 4)
  rm := w.extractLsb' 48 3
  sat := w.getLsbD 51
  na := w.getLsbD 52
  nb := w.getLsbD 53
  nc := w.getLsbD 54
  aa := w.getLsbD 55
  sub := w.extractLsb' 56 8
  x := w.extractLsb' 64 32

/-- The slot of an opcode and its fields (Tables 2-7 and 2-8). -/
def Fields.toSlot (opc : BitVec 8) (f : Fields) : Slot :=
  f.x ++ f.sub ++ BitVec.ofBool f.aa ++ BitVec.ofBool f.nc ++ BitVec.ofBool f.nb ++ BitVec.ofBool f.na
    ++ BitVec.ofBool f.sat ++ f.rm ++ f.ty.toBits ++ f.b.toBits ++ f.a.toBits ++ f.d ++ f.rsv
    ++ BitVec.ofBool f.gng ++ f.gpr ++ opc

/-- Table 2-9. -/
def Trailer.ofSlot (w : Slot) : Trailer where
  gpr := w.extractLsb' 8 4
  gng := w.getLsbD 12
  rsv := w.extractLsb' 13 3
  n := w.extractLsb' 16 8
  e0 := w.extractLsb' 24 9
  e1 := w.extractLsb' 33 9
  e2 := w.extractLsb' 42 9
  e3 := w.extractLsb' 51 9
  e4 := w.extractLsb' 60 9
  e5 := w.extractLsb' 69 9
  e6 := w.extractLsb' 78 9
  e7 := w.extractLsb' 87 9

/-- Table 2-9. -/
def Trailer.toSlot (t : Trailer) : Slot :=
  t.e7 ++ t.e6 ++ t.e5 ++ t.e4 ++ t.e3 ++ t.e2 ++ t.e1 ++ t.e0 ++ t.n ++ t.rsv ++ BitVec.ofBool t.gng ++ t.gpr ++ 0x66#8

/-- The eight entries in position order. -/
def Trailer.entries (t : Trailer) : List (BitVec 9) := [t.e0, t.e1, t.e2, t.e3, t.e4, t.e5, t.e6, t.e7]

/-- Picks a row of an opcode split by SUB. -/
def pickSub (rows : List Instr) (k : Nat) : Except DecodeError Instr :=
  match rows[k]? with
  | some i => .ok i
  | none => .error .reservedSub

/-- Vector and floating-point rows, opcodes 0x00 to 0x2C (Table 2-15). -/
def decodeVector (op : Nat) (f : Fields) : Except DecodeError Instr :=
  match op with
  | 0x00 => .ok (.vadd f) | 0x01 => .ok (.vsub f) | 0x02 => .ok (.vmul f) | 0x03 => .ok (.vmulh f)
  | 0x04 => .ok (.vmad f) | 0x05 => .ok (.vmin f) | 0x06 => .ok (.vmax f) | 0x07 => .ok (.vlop3 f)
  | 0x08 => .ok (.vshf f) | 0x09 => .ok (.vbfx f) | 0x0A => .ok (.vbfi f) | 0x0B => .ok (.vbit f)
  | 0x0C => .ok (.vsel f) | 0x0D => .ok (.vcmp f) | 0x0E => .ok (.vdot4 f) | 0x0F => .ok (.vprm f)
  | 0x10 => .ok (.fadd f) | 0x11 => .ok (.fmul f) | 0x12 => .ok (.ffma f) | 0x13 => .ok (.fmin f)
  | 0x14 => .ok (.fmax f) | 0x15 => .ok (.fcmp f) | 0x16 => .ok (.fcls f) | 0x17 => .ok (.frnd f)
  | 0x18 => .ok (.fscl f) | 0x19 => .ok (.fsfn f) | 0x1A => .ok (.cvt f) | 0x1B => .ok (.cvtp f)
  | 0x1C => if f.sub = 1#8 then .ok (.qpkAmax f) else .ok (.qpk f)
  | 0x1D => .ok (.qup f) | 0x1E => .ok (.vmov f) | 0x1F => .ok (.plop3 f)
  | 0x20 => .ok (.vaddi f) | 0x21 => .ok (.vmuli f) | 0x22 => .ok (.vlopi f) | 0x23 => .ok (.vshfi f)
  | 0x24 => .ok (.vcmpi f) | 0x25 => .ok (.vmovi f) | 0x26 => .ok (.faddi f) | 0x27 => .ok (.fmuli f)
  | 0x28 => .ok (.ffmai f) | 0x29 => .ok (.fcmpi f) | 0x2A => .ok (.vseli f) | 0x2B => .ok (.vmini f)
  | 0x2C => .ok (.vmaxi f)
  | _ => .error .reservedOpcode

/-- Scalar, control, memory and cross-lane rows, opcodes 0x40 to 0xA6 (Table 2-15). -/
def decodeMiddle (op : Nat) (f : Fields) (t : Trailer) : Except DecodeError Instr :=
  match op with
  | 0x40 => .ok (.sadd f) | 0x41 => .ok (.ssub f) | 0x42 => .ok (.smul f) | 0x43 => .ok (.smulh f)
  | 0x44 => .ok (.slop3 f) | 0x45 => .ok (.sshf f) | 0x46 => .ok (.smin f) | 0x47 => .ok (.smax f)
  | 0x48 => .ok (.sbfx f) | 0x49 => .ok (.sbit f) | 0x4A => .ok (.scmp f) | 0x4B => .ok (.ssel f)
  | 0x4C => .ok (.smov f) | 0x4D => .ok (.sadd64 f) | 0x4E => .ok (.slea f) | 0x4F => .ok (.sdiv f)
  | 0x50 => .ok (.srds f) | 0x51 => .ok (.sfma f) | 0x52 => .ok (.scvt f)
  | 0x60 => .ok (.bra f) | 0x61 => .ok (.brp f) | 0x62 => .ok (.join f) | 0x63 => .ok (.call f)
  | 0x64 => .ok (.ret f) | 0x65 => .ok (.loop f) | 0x66 => .ok (.trl t) | 0x67 => .ok (.nop f)
  | 0x68 => .ok (.exit f) | 0x69 => .ok (.trap f) | 0x6A => .ok (.sfmt f) | 0x6B => .ok (.waitt f)
  | 0x6C => .ok (.yld f) | 0x6D => .ok (.brx f)
  | 0x80 => .ok (.ld f) | 0x81 => .ok (.st f) | 0x82 => .ok (.lds f) | 0x83 => .ok (.sts f)
  | 0x84 => .ok (.ldv f) | 0x85 => .ok (.stv f) | 0x86 => .ok (.sld f) | 0x87 => .ok (.sst f)
  | 0x88 => .ok (.ldz f) | 0x89 => .ok (.stz f) | 0x8A => .ok (.prf f) | 0x8B => .ok (.cctl f)
  | 0x8C => .ok (.dscd f) | 0x8D => .ok (.atom f) | 0x8E => .ok (.atoms f) | 0x8F => .ok (.atomv f)
  | 0x90 => .ok (.satom f) | 0x91 => .ok (.fnc f) | 0x92 => .ok (.fwt f) | 0x93 => .ok (.bar f)
  | 0x94 => .ok (.wtct f)
  | 0xA0 => .ok (.nbr f) | 0xA1 => .ok (.scan f) | 0xA2 => .ok (.red f) | 0xA3 => .ok (.vote f)
  | 0xA4 => .ok (.bcst f) | 0xA5 => .ok (.rgrp f) | 0xA6 => .ok (.srtk f)
  | _ => .error .reservedOpcode

/-- Engine and system rows, opcodes 0xC0 to 0xEA (Table 2-15), split by SUB where one opcode holds several rows of the table of operations. -/
def decodeEngine (op : Nat) (f : Fields) : Except DecodeError Instr :=
  match op with
  | 0xC0 => pickSub [.qsubCfgl f, .qsubCfgs f, .qsubSub f, .qsubDrop f] (f.sub.extractLsb' 0 3).toNat
  | 0xC1 => .ok (.qret f) | 0xC2 => .ok (.cpy f) | 0xC3 => .ok (.cpyt f) | 0xC4 => .ok (.ewt f)
  | 0xC8 => .ok (.xput f) | 0xC9 => .ok (.xget f) | 0xCA => .ok (.xred f)
  | 0xD0 => .ok (.tspn f) | 0xD1 => .ok (.tsus f) | 0xD2 => .ok (.tend f)
  | 0xD4 => pickSub [.slinSet f, .slinRec f, .slinClose f, .slinFree f] (f.sub.extractLsb' 0 2).toNat
  | 0xD5 => .ok (.slps f) | 0xD6 => .ok (.sldp f)
  | 0xD7 => pickSub [.slfxRd f, .slfxPin f, .slfxUnpin f] (f.sub.extractLsb' 0 2).toNat
  | 0xD8 => .ok (.slst f)
  | 0xDC => .ok (.jtok f) | 0xDD => .ok (.jrte f) | 0xDE => .ok (.jrd f)
  | 0xE0 => .ok (.kret f) | 0xE1 => .ok (.csrr f)
  | 0xE2 => if f.x.extractLsb' 0 12 = 0x013#12 then .ok (.scopetabWrite f) else .ok (.csrw f)
  | 0xE3 => pickSub [.tlbiPage f, .tlbiCtx f, .tlbiPart f, .tlbiAll f] (f.sub.extractLsb' 0 2).toNat
  | 0xE4 => pickSub [.swcxLoad f, .swcxArm f, .swcxCancel f] (f.sub.extractLsb' 0 2).toNat
  | 0xE5 => .ok (.engr f) | 0xE6 => .ok (.fltr f) | 0xE7 => .ok (.hlt f) | 0xE8 => .ok (.sigt f)
  | 0xE9 => pickSub [.jtrnCfg f, .jtrnHost f, .jtrnPart f, .jtrnCkpt f, .jtrnTrunc f, .jtrnSync f, .jtrnRply f]
      (f.sub.extractLsb' 0 3).toNat
  | 0xEA => pickSub [.scpwVault f, .scpwL2way f, .scpwPinq f, .scpwSlot f, .scpwTask f, .scpwFq f, .scpwFqack f,
      .scpwStrict f, .scpwPeer f, .scpwSpare f] (f.sub.extractLsb' 0 4).toNat
  | _ => .error .reservedOpcode

/-- A slot of the main stream (R63, Table 2-15). -/
def decode (w : Slot) : Except DecodeError Instr :=
  let op := (w.extractLsb' 0 8).toNat
  let f := Fields.ofSlot w
  if op < 0x40 then decodeVector op f
  else if op < 0xC0 then decodeMiddle op f (Trailer.ofSlot w)
  else decodeEngine op f

/-- The opcode and fields of a main-stream instruction other than TRL (Table 2-15). -/
def Instr.mainView : Instr → Option (BitVec 8 × Fields)
  | .vadd f => some (0x00, f) | .vsub f => some (0x01, f) | .vmul f => some (0x02, f) | .vmulh f => some (0x03, f)
  | .vmad f => some (0x04, f) | .vmin f => some (0x05, f) | .vmax f => some (0x06, f) | .vlop3 f => some (0x07, f)
  | .vshf f => some (0x08, f) | .vbfx f => some (0x09, f) | .vbfi f => some (0x0A, f) | .vbit f => some (0x0B, f)
  | .vsel f => some (0x0C, f) | .vcmp f => some (0x0D, f) | .vdot4 f => some (0x0E, f) | .vprm f => some (0x0F, f)
  | .fadd f => some (0x10, f) | .fmul f => some (0x11, f) | .ffma f => some (0x12, f) | .fmin f => some (0x13, f)
  | .fmax f => some (0x14, f) | .fcmp f => some (0x15, f) | .fcls f => some (0x16, f) | .frnd f => some (0x17, f)
  | .fscl f => some (0x18, f) | .fsfn f => some (0x19, f) | .cvt f => some (0x1A, f) | .cvtp f => some (0x1B, f)
  | .qpk f => some (0x1C, f) | .qpkAmax f => some (0x1C, f) | .qup f => some (0x1D, f) | .vmov f => some (0x1E, f)
  | .plop3 f => some (0x1F, f)
  | .vaddi f => some (0x20, f) | .vmuli f => some (0x21, f) | .vlopi f => some (0x22, f) | .vshfi f => some (0x23, f)
  | .vcmpi f => some (0x24, f) | .vmovi f => some (0x25, f) | .faddi f => some (0x26, f) | .fmuli f => some (0x27, f)
  | .ffmai f => some (0x28, f) | .fcmpi f => some (0x29, f) | .vseli f => some (0x2A, f) | .vmini f => some (0x2B, f)
  | .vmaxi f => some (0x2C, f)
  | .sadd f => some (0x40, f) | .ssub f => some (0x41, f) | .smul f => some (0x42, f) | .smulh f => some (0x43, f)
  | .slop3 f => some (0x44, f) | .sshf f => some (0x45, f) | .smin f => some (0x46, f) | .smax f => some (0x47, f)
  | .sbfx f => some (0x48, f) | .sbit f => some (0x49, f) | .scmp f => some (0x4A, f) | .ssel f => some (0x4B, f)
  | .smov f => some (0x4C, f) | .sadd64 f => some (0x4D, f) | .slea f => some (0x4E, f) | .sdiv f => some (0x4F, f)
  | .srds f => some (0x50, f) | .sfma f => some (0x51, f) | .scvt f => some (0x52, f)
  | .bra f => some (0x60, f) | .brp f => some (0x61, f) | .join f => some (0x62, f) | .call f => some (0x63, f)
  | .ret f => some (0x64, f) | .loop f => some (0x65, f) | .nop f => some (0x67, f) | .exit f => some (0x68, f)
  | .trap f => some (0x69, f) | .sfmt f => some (0x6A, f) | .waitt f => some (0x6B, f) | .yld f => some (0x6C, f)
  | .brx f => some (0x6D, f)
  | .ld f => some (0x80, f) | .st f => some (0x81, f) | .lds f => some (0x82, f) | .sts f => some (0x83, f)
  | .ldv f => some (0x84, f) | .stv f => some (0x85, f) | .sld f => some (0x86, f) | .sst f => some (0x87, f)
  | .ldz f => some (0x88, f) | .stz f => some (0x89, f) | .prf f => some (0x8A, f) | .cctl f => some (0x8B, f)
  | .dscd f => some (0x8C, f) | .atom f => some (0x8D, f) | .atoms f => some (0x8E, f) | .atomv f => some (0x8F, f)
  | .satom f => some (0x90, f) | .fnc f => some (0x91, f) | .fwt f => some (0x92, f) | .bar f => some (0x93, f)
  | .wtct f => some (0x94, f)
  | .nbr f => some (0xA0, f) | .scan f => some (0xA1, f) | .red f => some (0xA2, f) | .vote f => some (0xA3, f)
  | .bcst f => some (0xA4, f) | .rgrp f => some (0xA5, f) | .srtk f => some (0xA6, f)
  | .qsubCfgl f => some (0xC0, f) | .qsubCfgs f => some (0xC0, f) | .qsubSub f => some (0xC0, f) | .qsubDrop f => some (0xC0, f)
  | .qret f => some (0xC1, f) | .cpy f => some (0xC2, f) | .cpyt f => some (0xC3, f) | .ewt f => some (0xC4, f)
  | .xput f => some (0xC8, f) | .xget f => some (0xC9, f) | .xred f => some (0xCA, f)
  | .tspn f => some (0xD0, f) | .tsus f => some (0xD1, f) | .tend f => some (0xD2, f)
  | .slinSet f => some (0xD4, f) | .slinRec f => some (0xD4, f) | .slinClose f => some (0xD4, f) | .slinFree f => some (0xD4, f)
  | .slps f => some (0xD5, f) | .sldp f => some (0xD6, f)
  | .slfxRd f => some (0xD7, f) | .slfxPin f => some (0xD7, f) | .slfxUnpin f => some (0xD7, f)
  | .slst f => some (0xD8, f) | .jtok f => some (0xDC, f) | .jrte f => some (0xDD, f) | .jrd f => some (0xDE, f)
  | .kret f => some (0xE0, f) | .csrr f => some (0xE1, f) | .csrw f => some (0xE2, f) | .scopetabWrite f => some (0xE2, f)
  | .tlbiPage f => some (0xE3, f) | .tlbiCtx f => some (0xE3, f) | .tlbiPart f => some (0xE3, f) | .tlbiAll f => some (0xE3, f)
  | .swcxLoad f => some (0xE4, f) | .swcxArm f => some (0xE4, f) | .swcxCancel f => some (0xE4, f)
  | .engr f => some (0xE5, f) | .fltr f => some (0xE6, f) | .hlt f => some (0xE7, f) | .sigt f => some (0xE8, f)
  | .scpwVault f => some (0xEA, f) | .scpwL2way f => some (0xEA, f) | .scpwPinq f => some (0xEA, f)
  | .scpwSlot f => some (0xEA, f) | .scpwTask f => some (0xEA, f) | .scpwFq f => some (0xEA, f)
  | .scpwFqack f => some (0xEA, f) | .scpwStrict f => some (0xEA, f) | .scpwPeer f => some (0xEA, f)
  | .scpwSpare f => some (0xEA, f)
  | .jtrnCfg f => some (0xE9, f) | .jtrnHost f => some (0xE9, f) | .jtrnPart f => some (0xE9, f)
  | .jtrnCkpt f => some (0xE9, f) | .jtrnTrunc f => some (0xE9, f) | .jtrnSync f => some (0xE9, f)
  | .jtrnRply f => some (0xE9, f)
  | _ => none

/-- The slot of a main-stream instruction (Tables 2-7 to 2-9); events and Burin instructions have none. -/
def encode (i : Instr) : Option Slot :=
  match i with
  | .trl t => some t.toSlot
  | _ => i.mainView.map fun v => Fields.toSlot v.1 v.2

/-! ## The Burin stream -/

/-- Table 9-1. -/
def MatMode.ofBits (x : BitVec 2) : MatMode :=
  match x.toNat with
  | 0 => .bb | 1 => .bq | 2 => .bf | _ => .bi
/-- Table 9-1. -/
def MatMode.toBits : MatMode → BitVec 2
  | .bb => 0 | .bq => 1 | .bf => 2 | .bi => 3

/-- Table 9-7, FLD of TADV. -/
def TadvField.ofBits (x : BitVec 2) : TadvField :=
  match x.toNat with
  | 0 => .row0 | 1 => .col0 | 2 => .org2 | _ => .org3
/-- Table 9-7, FLD of TADV. -/
def TadvField.toBits : TadvField → BitVec 2
  | .row0 => 0 | .col0 => 1 | .org2 => 2 | .org3 => 3

/-- Table 9-8. -/
def YCond.toBits : YCond → BitVec 3
  | .always => 0 | .z => 1 | .nz => 2 | .lt => 3 | .ge => 4 | .dnz => 5

/-- Fields of MMA and MMZ. -/
def PassFields.ofSlot (w : Slot) : PassFields where
  zt := w.extractLsb' 16 6
  zc := w.extractLsb' 22 2
  da := w.extractLsb' 24 3
  db := w.extractLsb' 27 3
  mode := MatMode.ofBits (w.extractLsb' 30 2)
  pri := w.extractLsb' 32 2

/-- Fields of ZOUT. -/
def ZoutFields.ofSlot (w : Slot) : ZoutFields where
  zt := w.extractLsb' 16 6
  zc := w.extractLsb' 22 2
  dt := w.extractLsb' 24 3
  rnd := w.extractLsb' 27 3
  satn := w.getLsbD 30
  ntz := w.getLsbD 31
  ys := w.extractLsb' 32 4
  sce := w.getLsbD 36

/-- Whether the bits of `w` from `lo` up are zero. -/
def zeroFrom (w : Slot) (lo : Nat) : Bool := w >>> lo == 0#96

/-- A Burin slot (R69, R285, Tables 2-16 and 9-7). -/
def decodeBurin (w : Slot) : Except DecodeError Instr :=
  let op := (w.extractLsb' 0 8).toNat
  if op > 0x0E then .error .reservedOpcode
  else if w.extractLsb' 8 8 ≠ 0#8 then .error .reservedField
  else
    let ok (c : Bool) (i : Instr) : Except DecodeError Instr := if c then .ok i else .error .reservedField
    let zt : BitVec 6 := w.extractLsb' 16 6
    match op with
    | 0x00 => ok (zt < 48#6 && zeroFrom w 34) (.mma (PassFields.ofSlot w))
    | 0x01 => ok (zt < 48#6 && zeroFrom w 34) (.mmz (PassFields.ofSlot w))
    | 0x02 =>
      let z := ZoutFields.ofSlot w
      ok (z.zt < 48#6 && z.rnd < 5#3 && (z.sce || z.ys == 0#4) && zeroFrom w 37) (.zout z)
    | 0x03 => ok (zt < 48#6 && zeroFrom w 27) (.zin ⟨zt, w.extractLsb' 22 2, w.extractLsb' 24 3⟩)
    | 0x04 =>
      let z : TsrwFields := ⟨w.extractLsb' 16 3, w.extractLsb' 20 4, w.getLsbD 24, w.extractLsb' 25 2, w.extractLsb' 32 32⟩
      ok ((z.sp || z.zc == 0#2) && !w.getLsbD 19 && w.extractLsb' 27 5 == 0#5 && zeroFrom w 64) (.tsrw z)
    | 0x05 =>
      let z : TadvFields := ⟨w.extractLsb' 16 3, TadvField.ofBits (w.extractLsb' 20 2), w.getLsbD 22, w.extractLsb' 23 4, w.extractLsb' 32 32⟩
      ok ((if z.ysel then z.imm == 0#32 else z.yn == 0#4) && !w.getLsbD 19 && w.extractLsb' 27 5 == 0#5 && zeroFrom w 64) (.tadv z)
    | 0x06 =>
      let e : BitVec 7 := w.extractLsb' 20 7
      ok (0#7 < e && e < 66#7 && zeroFrom w 27) (.barr (w.extractLsb' 16 4) e)
    | 0x07 => ok (zeroFrom w 20) (.bwai (w.extractLsb' 16 4))
    | 0x08 => ok (zeroFrom w 16) .ordy
    | 0x09 =>
      let yd : BitVec 4 := w.extractLsb' 16 4
      let ys : BitVec 4 := w.extractLsb' 20 4
      match (w.extractLsb' 24 2).toNat with
      | 0 => ok (zeroFrom w 32 && w.extractLsb' 26 6 == 0#6) (.ymov yd (.reg ys))
      | 1 => ok (ys == 0#4 && w.extractLsb' 26 6 == 0#6) (.ymov yd (.imm (w.extractLsb' 32 64)))
      | 2 => ok (zeroFrom w 64 && w.extractLsb' 26 6 == 0#6) (.ymov yd (.load ys (w.extractLsb' 32 32)))
      | _ => .error .reservedField
    | 0x0A =>
      let yd : BitVec 4 := w.extractLsb' 16 4
      let ya : BitVec 4 := w.extractLsb' 20 4
      let yb : BitVec 4 := w.extractLsb' 24 4
      let imm : BitVec 32 := w.extractLsb' 32 32
      let rest := w.extractLsb' 29 3 == 0#3 && zeroFrom w 64
      if w.getLsbD 28 then ok (yb == 0#4 && rest) (.yadd yd ya (.imm imm))
      else ok (imm == 0#32 && rest) (.yadd yd ya (.reg yb))
    | 0x0B =>
      let ya : BitVec 4 := w.extractLsb' 16 4
      let off : BitVec 32 := w.extractLsb' 32 32
      let rest := w.extractLsb' 23 9 == 0#9 && zeroFrom w 64
      match (w.extractLsb' 20 3).toNat with
      | 0 => ok (ya == 0#4 && rest) (.ybr ya .always off)
      | 1 => ok rest (.ybr ya .z off)
      | 2 => ok rest (.ybr ya .nz off)
      | 3 => ok rest (.ybr ya .lt off)
      | 4 => ok rest (.ybr ya .ge off)
      | 5 => ok rest (.ybr ya .dnz off)
      | _ => .error .reservedField
    | 0x0C => ok (zeroFrom w 16) .bend
    | 0x0D =>
      let zc : BitVec 2 := w.extractLsb' 22 2
      if w.getLsbD 24 then ok (zt < 48#6 && zeroFrom w 25) (.mwt (.tile zt zc))
      else ok (zeroFrom w 16) (.mwt .all)
    | _ => ok (zeroFrom w 16) .bnop

/-- The low 64 bits of a Burin slot whose bits 95:64 are zero, from bits 63:16. -/
def burinSlot (opc : BitVec 8) (rest : BitVec 80) : Slot := rest ++ 0#8 ++ opc

/-- The slot of a Burin instruction (Table 9-7). -/
def encodeBurin : Instr → Option Slot
  | .mma f => some (burinSlot 0x00 (0#62 ++ f.pri ++ f.mode.toBits ++ f.db ++ f.da ++ f.zc ++ f.zt))
  | .mmz f => some (burinSlot 0x01 (0#62 ++ f.pri ++ f.mode.toBits ++ f.db ++ f.da ++ f.zc ++ f.zt))
  | .zout f => some (burinSlot 0x02 (0#59 ++ BitVec.ofBool f.sce ++ f.ys ++ BitVec.ofBool f.ntz ++ BitVec.ofBool f.satn
      ++ f.rnd ++ f.dt ++ f.zc ++ f.zt))
  | .zin f => some (burinSlot 0x03 (0#69 ++ f.dt ++ f.zc ++ f.zt))
  | .tsrw f => some (burinSlot 0x04 (0#32 ++ f.disp ++ 0#5 ++ f.zc ++ BitVec.ofBool f.sp ++ f.ya ++ 0#1 ++ f.dt))
  | .tadv f => some (burinSlot 0x05 (0#32 ++ f.imm ++ 0#5 ++ f.yn ++ BitVec.ofBool f.ysel ++ f.fld.toBits ++ 0#1 ++ f.dt))
  | .barr bn e => some (burinSlot 0x06 (0#69 ++ e ++ bn))
  | .bwai bn => some (burinSlot 0x07 (0#76 ++ bn))
  | .ordy => some (burinSlot 0x08 0#80)
  | .ymov yd (.reg ys) => some (burinSlot 0x09 (0#72 ++ ys ++ yd))
  | .ymov yd (.imm v) => some (burinSlot 0x09 (v ++ 0#6 ++ 1#2 ++ 0#4 ++ yd))
  | .ymov yd (.load ys disp) => some (burinSlot 0x09 (0#32 ++ disp ++ 0#6 ++ 2#2 ++ ys ++ yd))
  | .yadd yd ya (.reg yb) => some (burinSlot 0x0A (0#68 ++ yb ++ ya ++ yd))
  | .yadd yd ya (.imm v) => some (burinSlot 0x0A (0#32 ++ v ++ 0#3 ++ 1#1 ++ 0#4 ++ ya ++ yd))
  | .ybr ya c off => some (burinSlot 0x0B (0#32 ++ off ++ 0#9 ++ c.toBits ++ ya))
  | .bend => some (burinSlot 0x0C 0#80)
  | .mwt .all => some (burinSlot 0x0D 0#80)
  | .mwt (.tile zt zc) => some (burinSlot 0x0D (0#71 ++ 1#1 ++ zc ++ zt))
  | .bnop => some (burinSlot 0x0E 0#80)
  | _ => none

/-! ## Fetch lines -/

/-- Little-endian value of a byte list (R6). -/
def leNat : List Byte → Nat
  | [] => 0
  | b :: bs => b.toNat + 256 * leNat bs

/-- The `n` little-endian bytes of a number (R6). -/
def leBytes : Nat → Nat → List Byte
  | 0, _ => []
  | n + 1, x => BitVec.ofNat 8 x :: leBytes n (x / 256)

/-- A fetch line: five slots and the line word (Table 2-1). -/
structure Line where
  slots : List Slot
  word : BitVec 32
  deriving DecidableEq, Repr

/-- A line from its 64 bytes (R31). -/
def Line.ofBytes (bs : List Byte) : Line where
  slots := (List.range 5).map fun i => BitVec.ofNat 96 (leNat ((bs.drop (12 * i)).take 12))
  word := BitVec.ofNat 32 (leNat ((bs.drop 60).take 4))

/-- The 64 bytes of a line (R31). -/
def Line.toBytes (l : Line) : List Byte :=
  ((List.range 5).flatMap fun i => leBytes 12 (l.slots.getD i 0#96).toNat) ++ leBytes 4 l.word.toNat

/-- Whether the number of one bits among bits 0 to n-1 is odd. -/
def oddOnes {w : Nat} (x : BitVec w) : Nat → Bool
  | 0 => false
  | n + 1 => xor (x.getLsbD n) (oddOnes x n)

/-- Even parity of every slot and of line-word bits 15:0 (R34). -/
def Line.parityOk (l : Line) : Bool :=
  (l.word.getLsbD 21 == oddOnes l.word 16) &&
  (List.range 5).all fun i => l.word.getLsbD (16 + i) == oddOnes (l.slots.getD i 0#96) 96

/-- PAIR, line-word bits 8:5 (Table 2-2). -/
def Line.pair (l : Line) : BitVec 4 := l.word.extractLsb' 5 4

/-- The line-word check of Table 2-4. -/
def Line.wordOk (l : Line) : Bool :=
  l.word.extractLsb' 9 7 == 0#7 && l.word.extractLsb' 22 10 == 0#10 && l.pair < 8#4

/-- TGT of a slot (Table 2-2). -/
def Line.tgt (l : Line) (slot : Nat) : Bool := slot < 5 && l.word.getLsbD slot

/-- The line word that a line of these slots carries, with its parity bits (R33, R34). -/
def lineWord (slots : List Slot) (tgt : BitVec 5) (pair : BitVec 4) : BitVec 32 :=
  let low : BitVec 16 := 0#7 ++ pair ++ tgt
  let spar (i : Nat) := BitVec.ofBool (oddOnes (slots.getD i 0#96) 96)
  0#10 ++ BitVec.ofBool (oddOnes low 16) ++ spar 4 ++ spar 3 ++ spar 2 ++ spar 1 ++ spar 0 ++ low

/-- The instruction that the decoder reads from a main-stream slot whose low `nbits` bits are `w` and whose other bits are
zero. The slot is laid out as it is stored: slot 0 of a line, little-endian, and read back from those bytes. -/
def decodeTableWord (nbits w : Nat) : Option Instr :=
  let slot := BitVec.ofNat 96 (w % 2 ^ min nbits 96)
  match decode ((Line.ofBytes (leBytes 12 slot.toNat)).slots.getD 0 0#96) with
  | .ok i => some i
  | .error _ => none

end Sys2Proof
end

