-- ==== Sys2Proof/Machine/Legality.lean ====
section
/-! DEFINITION. Which encodings are reserved (R47 to R67): one predicate per row of the encoding tables, and the
conditions that depend on the launch's V-register count and on FMT (R50, R447). -/

namespace Sys2Proof

/-! ## Types and operand kinds -/

def Ty.is64 : Ty → Bool
  | .i64 | .n64 | .f64 => true
  | _ => false
def Ty.isInt : Ty → Bool
  | .i8 | .n8 | .i16 | .n16 | .i32 | .n32 | .i64 | .n64 => true
  | _ => false
def Ty.isFloat (t : Ty) : Bool := !t.isInt
def Ty.signed : Ty → Bool
  | .i8 | .i16 | .i32 | .i64 => true
  | _ => false
/-- Width in bits of an integer type. -/
def Ty.width : Ty → Nat
  | .i8 | .n8 => 8
  | .i16 | .n16 | .f16 | .bf16 => 16
  | .i64 | .n64 | .f64 => 64
  | _ => 32
/-- Element size in memory, in bytes (R216). -/
def Ty.bytes (t : Ty) : Nat := t.width / 8
/-- The types of Table 5-9 called FP. -/
def Ty.isFP : Ty → Bool
  | .f16 | .bf16 | .f32 | .f64 | .bf16x2 | .f16x2 => true
  | _ => false
def Ty.isScalarFP : Ty → Bool
  | .f16 | .bf16 | .f32 | .f64 => true
  | _ => false

namespace Operand

/-- An even register number when the operand is 64 bits wide. -/
def evenIf {w : Nat} (wide : Bool) (n : BitVec w) : Bool := !wide || !n.getLsbD 0

/-- An integer operand of V3, VI and XL (R117). -/
def vint (wide : Bool) : Operand → Bool
  | .v n => evenIf wide n
  | .t _ | .int _ | .lane | .grp | .chain | .thrd => true
  | .p n => n < 12#4
  | .s n => !wide || (!n.getLsbD 0 && n ≤ 58#6)
  | _ => false
/-- A floating-point operand of V3, VI and XL (R157): the limit of S58 in R117 is that of integer operands. -/
def vflt (wide : Bool) : Operand → Bool
  | .v n => evenIf wide n
  | .t _ | .int _ | .fp _ => true
  | .s n => evenIf wide n
  | _ => false
/-- A vector operand under a type that may be either. -/
def vec (t : Ty) (o : Operand) : Bool := if t.isInt then o.vint t.is64 else o.vflt t.is64
/-- An index or a 32-bit base of an MA instruction (Table 7-6). -/
def vidx : Operand → Bool
  | .v _ | .t _ | .s _ | .int _ | .lane | .grp | .chain | .thrd => true
  | _ => false
/-- A data operand of an atomic (Table 8-4). -/
def vdata (t : Ty) : Operand → Bool
  | .v n => evenIf t.is64 n
  | .t _ | .int _ => true
  | .s n => evenIf t.is64 n
  | .lane | .grp | .chain | .thrd => t.isInt
  | .fp _ => t.isFloat
  | _ => false
/-- An integer operand of SC (R104). -/
def sint (wide : Bool) : Operand → Bool
  | .t _ | .int _ => true
  | .s n => !wide || (!n.getLsbD 0 && n ≤ 58#6)
  | _ => false
/-- An operand of SC under a type (R104). -/
def sval (t : Ty) : Operand → Bool
  | .fp _ => t.isFloat
  | o => o.sint t.is64
/-- S register, temporary or constant (SLD, SST, SATOM index). -/
def sidx : Operand → Bool
  | .s _ | .t _ | .int _ => true
  | _ => false
def isAbsent (o : Operand) : Bool := o == .absent
def orAbsent (p : Operand → Bool) (o : Operand) : Bool := p o || o.isAbsent
def isPred : Operand → Bool
  | .p n => n < 12#4
  | _ => false
/-- A source of PLOP3 (R130). -/
def predSource : Operand → Bool
  | .p n => n < 12#4
  | .int n => n < 2#6
  | _ => false
def isV (wide : Bool) : Operand → Bool
  | .v n => evenIf wide n
  | _ => false
/-- A word of narrow codes (R171): a register, a temporary or an integer constant, with no format of its own. -/
def isWord : Operand → Bool
  | .v _ | .t _ | .s _ | .int _ => true
  | _ => false
def isS : Operand → Bool
  | .s _ => true
  | _ => false
/-- An even S pair S0 to S58. -/
def sPair : Operand → Bool
  | .s n => !n.getLsbD 0 && n ≤ 58#6
  | _ => false
/-- Base of a virtual address of a vector instruction: even S pair, even V pair, or absent (Table 7-6). -/
def vbase : Operand → Bool
  | .v n => !n.getLsbD 0
  | o => o.sPair || o.isAbsent
def isInt : Operand → Bool
  | .int _ => true
  | _ => false
/-- An integer constant between two bounds. -/
def intIn (lo hi : Nat) : Operand → Bool
  | .int n => lo ≤ n.toNat && n.toNat ≤ hi
  | _ => false
/-- A constant, or an S register. -/
def constOrS : Operand → Bool
  | .int _ | .s _ => true
  | _ => false

end Operand

namespace Fields

def intTy (f : Fields) : Bool := f.ty.isInt
/-- i32, n32, i64 or n64. -/
def wideInt (f : Fields) : Bool := f.ty == .i32 || f.ty == .n32 || f.ty == .i64 || f.ty == .n64
def n3264 (f : Fields) : Bool := f.ty == .n32 || f.ty == .n64
/-- TY field zero: code 0 names no type. -/
def ty0 (f : Fields) : Bool := f.ty == .i8
def rm0 (f : Fields) : Bool := f.rm == 0#3
def rmRound (f : Fields) : Bool := f.rm ≤ 5#3

/-- The modifier bits outside the given set are zero (R67). -/
def mods (f : Fields) (sat na nb nc aa : Bool) : Bool :=
  (sat || !f.sat) && (na || !f.na) && (nb || !f.nb) && (nc || !f.nc) && (aa || !f.aa)
def noMods (f : Fields) : Bool := f.mods false false false false false

/-- C is absent and bits 95:74 are zero. -/
def noC (f : Fields) : Bool := f.x == 0x3FF#32
/-- C satisfies a condition and bits 95:74 are zero. -/
def cIs (f : Fields) (p : Operand → Bool) : Bool := p f.c && f.hi22 == 0#22
def noA (f : Fields) : Bool := f.a.isAbsent
def noB (f : Fields) : Bool := f.b.isAbsent
def x0 (f : Fields) : Bool := f.x == 0#32
def d0 (f : Fields) : Bool := f.d == 0#8
def sub0 (f : Fields) : Bool := f.sub == 0#8

/-- D names a V register, even for a wide result. -/
def dV (f : Fields) (wide : Bool) : Bool := Operand.evenIf wide f.d
/-- D names a predicate (R47). -/
def dP (f : Fields) : Bool := f.d < 12#8
/-- D names an S register of an SC instruction; a pair is even and at most S58 (R47, R104). -/
def dS (f : Fields) (wide : Bool) : Bool := f.d < 64#8 && (!wide || (!f.d.getLsbD 0 && f.d ≤ 58#8))
/-- D names the first of a block of `n` S registers that ends at or before S59 (R297). -/
def dBlock (f : Fields) (even : Bool) (n : Nat) : Bool := f.d.toNat + n ≤ 60 && (!even || !f.d.getLsbD 0)

/-- R54: an immediate that the type can hold. -/
def immOk (f : Fields) : Bool :=
  match f.ty with
  | .i8 => (f.x.setWidth 8).signExtend 32 == f.x
  | .n8 => (f.x.setWidth 8).setWidth 32 == f.x
  | .i16 => (f.x.setWidth 16).signExtend 32 == f.x
  | .n16 | .f16 | .bf16 => (f.x.setWidth 16).setWidth 32 == f.x
  | _ => true

/-- Condition code of a compare (Table 2-12). -/
def cond (f : Fields) : Nat := (f.sub.extractLsb' 0 4).toNat
def condOkInt (f : Fields) : Bool := f.cond ≤ 5 || (8 ≤ f.cond && f.cond ≤ 11)
def condOkFloat (f : Fields) : Bool := f.cond ≤ 7 || f.cond == 10 || f.cond == 11
/-- Combine mode, SUB bits 5:4 (R56). -/
def combine (f : Fields) : Nat := (f.sub.extractLsb' 4 2).toNat
def kind3 (f : Fields) : Nat := (f.sub.extractLsb' 0 3).toNat
/-- The immediate form of an SC instruction (R58). -/
def immForm (f : Fields) : Bool := f.sub.getLsbD 7
/-- SUB bits 6:0 of an SC instruction. -/
def sub7 (f : Fields) : Nat := (f.sub.extractLsb' 0 7).toNat

/-! ## Rows of the encoding tables -/

/-- Bits 15:13 are zero in every instruction (Table 2-7). -/
def hdr (f : Fields) : Bool := f.rsv == 0#3

/-- VADD, VSUB: Table 4-2. -/
def okVadd (f : Fields) : Bool :=
  f.hdr && f.intTy && f.rm0 && f.sub0 && f.mods true true true false f.ty.signed && f.dV f.ty.is64
  && f.a.vint f.ty.is64 && f.b.vint f.ty.is64 && f.noC
/-- VMUL: Table 4-2. -/
def okVmul (f : Fields) : Bool :=
  f.hdr && f.intTy && f.rm0 && f.sub0 && f.mods true true true false false && f.dV f.ty.is64
  && f.a.vint f.ty.is64 && f.b.vint f.ty.is64 && f.noC
/-- VMULH: Table 4-2. -/
def okVmulh (f : Fields) : Bool :=
  f.hdr && f.wideInt && f.rm0 && f.sub0 && f.mods false true true false false && f.dV f.ty.is64
  && f.a.vint f.ty.is64 && f.b.vint f.ty.is64 && f.noC
/-- VMAD: Table 4-2. -/
def okVmad (f : Fields) : Bool :=
  f.hdr && f.wideInt && f.rm0 && f.sub0 && f.mods true true true true false && f.dV f.ty.is64
  && f.a.vint f.ty.is64 && f.b.vint f.ty.is64 && f.cIs (·.vint f.ty.is64)
/-- VMIN, VMAX: Table 4-2. -/
def okVmin (f : Fields) : Bool :=
  f.hdr && f.intTy && f.rm0 && f.sub0 && f.mods false true true false f.ty.signed && f.dV f.ty.is64
  && f.a.vint f.ty.is64 && f.b.vint f.ty.is64 && f.noC
/-- VLOP3: Table 4-2. -/
def okVlop3 (f : Fields) : Bool :=
  f.hdr && f.n3264 && f.rm0 && f.noMods && f.dV f.ty.is64
  && f.a.vint f.ty.is64 && f.b.vint f.ty.is64 && f.cIs (·.vint f.ty.is64)
/-- VSHF: Table 4-2; the amount is a 32-bit value (R124). -/
def okVshf (f : Fields) : Bool :=
  f.hdr && f.wideInt && f.rm0 && f.noMods && f.sub < 7#8 && f.dV f.ty.is64
  && f.a.vint f.ty.is64 && f.b.vint false
  && (if f.kind3 < 5 then f.noC else f.cIs (·.vint f.ty.is64))
/-- VBFX: Table 4-2. -/
def okVbfx (f : Fields) : Bool :=
  f.hdr && (f.ty == .i32 || f.ty == .n32) && f.rm0 && f.noMods && f.sub0
  && f.a.vint false && f.b.vint false && f.noC
/-- VBFI, VPRM: Table 4-2. -/
def okVbfi (f : Fields) : Bool :=
  f.hdr && f.ty == .n32 && f.rm0 && f.noMods && f.sub0
  && f.a.vint false && f.b.vint false && f.cIs (·.vint false)
/-- VBIT: Table 4-2, R126. -/
def okVbit (f : Fields) : Bool :=
  f.hdr && f.n3264 && f.rm0 && f.noMods && f.sub < 7#8
  && (if f.kind3 < 4 then f.noA else f.a.vint f.ty.is64) && f.b.vint f.ty.is64 && f.noC
  && (if f.kind3 < 3 || f.kind3 == 6 then true else f.dV f.ty.is64)
/-- VSEL: Table 4-2, R128. -/
def okVsel (f : Fields) : Bool :=
  f.hdr && f.n3264 && f.rm0 && f.noMods && f.sub0 && f.dV f.ty.is64
  && f.a.vint f.ty.is64 && f.b.vint f.ty.is64 && f.cIs (·.vint false)
/-- VCMP: Table 4-2, R56. -/
def okVcmp (f : Fields) : Bool :=
  f.hdr && f.intTy && f.rm0 && f.noMods && f.condOkInt && f.combine < 3 && f.sub < 64#8 && f.dP
  && f.a.vint f.ty.is64 && f.b.vint f.ty.is64 && f.noC
/-- VDOT4: Table 4-2, R131. -/
def okVdot4 (f : Fields) : Bool :=
  f.hdr && (f.ty == .i8 || f.ty == .n8) && f.rm0 && f.mods true false false false false
  && (f.sub == 0#8 || (f.sub == 1#8 && f.ty == .i8))
  && f.a.vint false && f.b.vint false && f.cIs (·.vint false)
/-- VMOV: Table 4-2. -/
def okVmov (f : Fields) : Bool :=
  f.hdr && f.intTy && f.rm0 && f.noMods && f.sub0 && f.dV f.ty.is64 && f.noA && f.b.vint f.ty.is64 && f.noC
/-- PLOP3: Table 4-2, R130. -/
def okPlop3 (f : Fields) : Bool :=
  f.hdr && f.ty0 && f.rm0 && f.noMods && f.dP && f.a.predSource && f.b.predSource && f.cIs (·.predSource)

/-- VADDI: Table 4-3. -/
def okVaddi (f : Fields) : Bool :=
  f.hdr && f.intTy && f.rm0 && f.sub0 && f.mods true true false false f.ty.signed && f.dV f.ty.is64
  && f.a.vint f.ty.is64 && f.noB && f.immOk
/-- VMULI: Table 4-3. -/
def okVmuli (f : Fields) : Bool :=
  f.hdr && f.intTy && f.rm0 && f.sub0 && f.mods true true false false false && f.dV f.ty.is64
  && f.a.vint f.ty.is64 && f.noB && f.immOk
/-- VLOPI: Table 4-3. -/
def okVlopi (f : Fields) : Bool :=
  f.hdr && f.ty == .n32 && f.rm0 && f.noMods && f.a.vint false && f.b.vint false
/-- VSHFI: Table 4-3. -/
def okVshfi (f : Fields) : Bool :=
  f.hdr && f.wideInt && f.rm0 && f.noMods && f.sub < 5#8 && f.dV f.ty.is64 && f.a.vint f.ty.is64 && f.noB
/-- VCMPI: Table 4-3. -/
def okVcmpi (f : Fields) : Bool :=
  f.hdr && f.intTy && f.rm0 && f.noMods && f.condOkInt && f.combine < 3 && f.sub < 64#8 && f.dP
  && f.a.vint f.ty.is64 && f.noB && f.immOk
/-- VMOVI: Table 4-3. -/
def okVmovi (f : Fields) : Bool :=
  f.hdr && f.intTy && f.rm0 && f.noMods && f.sub0 && f.dV f.ty.is64 && f.noA && f.noB && f.immOk
/-- VSELI: Table 4-3. -/
def okVseli (f : Fields) : Bool :=
  f.hdr && f.n3264 && f.rm0 && f.noMods && f.sub0 && f.dV f.ty.is64 && f.a.vint f.ty.is64 && f.b.vint false
/-- VMINI, VMAXI: Table 4-3. -/
def okVmini (f : Fields) : Bool :=
  f.hdr && f.intTy && f.rm0 && f.sub0 && f.mods false true false false f.ty.signed && f.dV f.ty.is64
  && f.a.vint f.ty.is64 && f.noB && f.immOk

/-- FADD, FMUL: Table 5-9. -/
def okFadd (f : Fields) : Bool :=
  f.hdr && f.ty.isFP && f.rmRound && f.sub0 && f.mods true true true false true && f.dV f.ty.is64
  && f.a.vflt f.ty.is64 && f.b.vflt f.ty.is64 && f.noC
/-- FFMA: Table 5-9. -/
def okFfma (f : Fields) : Bool :=
  f.hdr && f.ty.isFP && f.rmRound && f.sub0 && f.dV f.ty.is64
  && f.a.vflt f.ty.is64 && f.b.vflt f.ty.is64 && f.cIs (·.vflt f.ty.is64)
/-- FMIN, FMAX: Table 5-9. -/
def okFmin (f : Fields) : Bool :=
  f.hdr && f.ty.isFP && f.rm0 && f.sub0 && f.mods false true true false true && f.dV f.ty.is64
  && f.a.vflt f.ty.is64 && f.b.vflt f.ty.is64 && f.noC
/-- FCMP: Table 5-9. -/
def okFcmp (f : Fields) : Bool :=
  f.hdr && f.ty.isScalarFP && f.rm0 && f.mods false true true false true && f.condOkFloat && f.combine < 3
  && f.sub < 64#8 && f.dP && f.a.vflt f.ty.is64 && f.b.vflt f.ty.is64 && f.noC
/-- FCLS: Table 5-9. -/
def okFcls (f : Fields) : Bool :=
  f.hdr && f.ty.isScalarFP && f.rm0 && f.mods false true false false true && f.cond == 0 && f.combine < 3
  && f.sub < 64#8 && f.dP && f.a.vflt f.ty.is64 && f.b.vint false && f.noC
/-- FRND: Table 5-9. -/
def okFrnd (f : Fields) : Bool :=
  f.hdr && f.ty.isFP && f.rmRound && f.sub0 && f.mods false false true false false && f.dV f.ty.is64
  && f.noA && f.b.vflt f.ty.is64 && f.noC
/-- FSCL: Tables 5-9 and 5-10. -/
def okFscl (f : Fields) : Bool :=
  f.hdr && f.noC && f.a.vflt f.ty.is64 &&
  (if f.sub == 0#8 then
    f.ty.isFP && f.rmRound && f.mods true true false false true && f.dV f.ty.is64 && f.b.vint false
  else if f.sub == 1#8 then f.ty.isScalarFP && f.rm0 && f.mods false true false false true && f.noB
  else f.sub == 2#8 && f.ty.isScalarFP && f.rm0 && f.mods false true false false true && f.noB && f.dV f.ty.is64)
/-- FSFN: Tables 5-9 and 5-14. -/
def okFsfn (f : Fields) : Bool :=
  f.hdr && f.ty.isFP && f.ty != .f64 && f.sub < 9#8 && f.mods true false true false false
  && (if f.sub == 2#8 then f.rmRound else f.rm0) && f.noA && f.b.vflt false && f.noC
/-- The source type of CVT, CVTP and SCVT: SUB bits 3:0. -/
def srcTy (f : Fields) : Ty := Ty.ofBits (f.sub.extractLsb' 0 4)
/-- Codes 0 to 11. -/
def unpacked (t : Ty) : Bool := t.isInt || t.isScalarFP
/-- CVT: Table 5-9, R166. -/
def okCvt (f : Fields) : Bool :=
  f.hdr && unpacked f.ty && unpacked f.srcTy && f.sub < 12#8 && f.mods true false false false false
  && (if f.ty.isInt && f.srcTy.isInt then f.rm0 else f.rmRound) && f.dV f.ty.is64
  && f.noA && f.b.vec f.srcTy && f.noC
/-- The CVTP selector: SUB bits 5:4 (R167). -/
def cvtpSel (f : Fields) : Nat := (f.sub.extractLsb' 4 2).toNat
def ty16x2 (t : Ty) : Bool := t == .bf16x2 || t == .f16x2
def ty8x4 (t : Ty) : Bool := t == .e4m3x4 || t == .e5m2x4
/-- CVTP: Tables 5-9 and 5-13. -/
def okCvtp (f : Fields) : Bool :=
  f.hdr && f.sub < 64#8 && f.mods true false false false false && f.a.vflt false &&
  (let src := f.srcTy
   let sel := f.cvtpSel
   if ty16x2 f.ty && src == .f32 then sel == 0 && f.rmRound && f.b.vflt false && f.noC
   else if ty8x4 f.ty && src == .f32 then sel < 2 && f.rmRound && f.b.vflt false && f.cIs (Operand.orAbsent (·.vflt false))
   else if ty8x4 f.ty && ty16x2 src then sel == 0 && f.rmRound && f.b.vflt false && f.noC
   else if ty16x2 f.ty && ty16x2 src && src != f.ty then sel == 0 && f.rmRound && f.noB && f.noC
   else if f.ty == .f32 && ty16x2 src then sel < 2 && f.rm0 && f.noB && f.noC
   else if f.ty == .f32 && ty8x4 src then f.rm0 && f.noB && f.noC
   else ty16x2 f.ty && ty8x4 src && sel < 2 && f.rm0 && f.noB && f.noC)
/-- QPK mode 0: Table 5-9, R168. -/
def okQpk (f : Fields) : Bool :=
  f.hdr && (f.ty == .f32 || ty16x2 f.ty) && f.sub0 && f.rmRound && f.mods true false false false false
  && f.a.isV false && f.b.vint false && f.noC
/-- QPK mode 1: Table 5-9, R170. -/
def okQpkAmax (f : Fields) : Bool :=
  f.hdr && f.ty == .f32 && f.sub == 1#8 && f.rm0 && f.noMods && f.a.vflt false && f.noB && f.noC
/-- QUP: Table 5-9, R171. -/
def okQup (f : Fields) : Bool :=
  f.hdr && (f.ty == .f32 || f.ty == .bf16x2) && f.sub < 16#8 && f.rm0 && f.noMods
  && f.a.isWord && f.b.vint false && f.noC
/-- FADDI, FMULI: Table 5-15. -/
def okFaddi (f : Fields) : Bool :=
  f.hdr && f.ty.isFP && f.rmRound && f.sub0 && f.mods true true false false true && f.dV f.ty.is64
  && f.a.vflt f.ty.is64 && f.noB && f.immOk
/-- FFMAI: Table 5-15. -/
def okFfmai (f : Fields) : Bool :=
  f.hdr && f.ty.isFP && f.rmRound && f.sub0 && f.mods true true true false true && f.dV f.ty.is64
  && f.a.vflt f.ty.is64 && f.b.vflt f.ty.is64 && f.immOk
/-- FCMPI: Table 5-15. -/
def okFcmpi (f : Fields) : Bool :=
  f.hdr && f.ty.isScalarFP && f.rm0 && f.mods false true false false true && f.condOkFloat && f.combine < 3
  && f.sub < 64#8 && f.dP && f.a.vflt f.ty.is64 && f.noB && f.immOk

/-- Operand B of an SC instruction and bits 95:64 for a form without C: an immediate, or a specifier and no C (R58). -/
def scB (f : Fields) (p : Operand → Bool) : Bool :=
  if f.immForm then f.noB && f.immOk else p f.b && f.noC
/-- SADD, SSUB: Table 3-6. -/
def okSadd (f : Fields) : Bool :=
  f.hdr && f.wideInt && f.rm0 && f.sub7 == 0 && f.mods true true true false true && f.dS f.ty.is64
  && f.a.sint f.ty.is64 && f.scB (·.sint f.ty.is64)
/-- SMUL, SMULH: Table 3-6. -/
def okSmul (f : Fields) : Bool :=
  f.hdr && f.wideInt && f.rm0 && f.sub7 == 0 && f.noMods && f.dS f.ty.is64
  && f.a.sint f.ty.is64 && f.scB (·.sint f.ty.is64)
/-- SMIN, SMAX: Table 3-6. -/
def okSmin (f : Fields) : Bool :=
  f.hdr && f.wideInt && f.rm0 && f.sub7 == 0 && f.mods false true true false true && f.dS f.ty.is64
  && f.a.sint f.ty.is64 && f.scB (·.sint f.ty.is64)
/-- SLOP3: Table 3-6. -/
def okSlop3 (f : Fields) : Bool :=
  f.hdr && f.n3264 && f.rm0 && f.noMods && f.dS f.ty.is64
  && f.a.sint f.ty.is64 && f.b.sint f.ty.is64 && f.cIs (·.sint f.ty.is64)
/-- SSHF: Table 3-6; a funnel kind needs C, so it has no immediate form (R58, R106). -/
def okSshf (f : Fields) : Bool :=
  f.hdr && f.n3264 && f.rm0 && f.noMods && f.sub7 < 7 && f.dS f.ty.is64 && f.a.sint f.ty.is64
  && (if f.kind3 < 5 then f.scB (·.sint false) else !f.immForm && f.b.sint false && f.cIs (·.sint f.ty.is64))
/-- SBFX: Table 3-6. -/
def okSbfx (f : Fields) : Bool :=
  f.hdr && (f.ty == .i32 || f.ty == .n32) && f.rm0 && f.noMods && f.sub7 == 0 && f.dS false
  && f.a.sint false && f.scB (·.sint false)
/-- SBIT: Tables 3-6 and 3-7. -/
def okSbit (f : Fields) : Bool :=
  f.hdr && f.n3264 && f.rm0 && f.noMods && f.sub7 < 7
  && f.dS (f.ty.is64 && !(f.kind3 < 3 || f.kind3 == 6))
  && (if f.kind3 < 4 then f.noA else f.a.sint f.ty.is64) && f.scB (·.sint f.ty.is64)
/-- SCMP: Table 3-6, R56, R108. -/
def okScmp (f : Fields) : Bool :=
  f.hdr && (f.wideInt || f.ty == .f32 || f.ty == .f64) && f.rm0 && f.noMods
  && (if f.ty.isInt then f.condOkInt else f.condOkFloat) && f.combine < 3 && f.sub7 < 64 && f.dS false
  && f.a.sval f.ty && f.scB (·.sval f.ty)
/-- SSEL: Table 3-6. -/
def okSsel (f : Fields) : Bool :=
  f.hdr && f.n3264 && f.rm0 && f.noMods && f.sub0 && f.dS f.ty.is64
  && f.a.sint f.ty.is64 && f.b.sint f.ty.is64 && f.cIs (·.sint false)
/-- SMOV: Table 3-6. -/
def okSmov (f : Fields) : Bool :=
  f.hdr && f.wideInt && f.rm0 && f.noMods && f.sub7 == 0 && f.dS f.ty.is64 && f.noA && f.scB (·.sint f.ty.is64)
/-- SADD64: Table 3-6. -/
def okSadd64 (f : Fields) : Bool :=
  f.hdr && (f.ty == .i32 || f.ty == .n32) && f.rm0 && f.noMods && f.sub7 == 0 && f.dS true
  && f.a.sint true && f.scB (·.sint false)
/-- SLEA: Table 3-6; its TY field is zero and names no type (R104). -/
def okSlea (f : Fields) : Bool :=
  f.hdr && f.ty0 && f.rm0 && f.noMods && f.sub7 < 16 && f.dS true && f.a.sint true
  && (if f.immForm then f.noB else f.b.sint false && f.noC)
/-- SDIV: Table 3-6. -/
def okSdiv (f : Fields) : Bool :=
  f.hdr && f.wideInt && f.rm0 && f.noMods && f.sub7 < 2 && f.dS f.ty.is64
  && f.a.sint f.ty.is64 && f.scB (·.sint f.ty.is64)
/-- Width of a selector of SRDS (Table 3-8). -/
def srdsWide (f : Fields) : Bool := f.sub == 0#8 || f.sub == 15#8
/-- SRDS: Tables 3-6 and 3-8. -/
def okSrds (f : Fields) : Bool :=
  f.hdr && f.ty0 && f.rm0 && f.noMods && f.sub < 16#8 && f.dS f.srdsWide && f.noA && f.noB && f.noC
/-- SFMA: Table 3-6. -/
def okSfma (f : Fields) : Bool :=
  f.hdr && (f.ty == .f32 || f.ty == .f64) && f.rmRound && f.mods false true true true true && f.sub0
  && f.dS f.ty.is64 && f.a.sval f.ty && f.b.sval f.ty && f.cIs (·.sval f.ty)
/-- The types of SCVT (Table 3-6). -/
def scvtTy (t : Ty) : Bool := t == .i32 || t == .n32 || t == .i64 || t == .n64 || t.isScalarFP
/-- SCVT: Table 3-6; between integer types nothing rounds, so RM is zero (R53). An immediate source is read under the source type. -/
def okScvt (f : Fields) : Bool :=
  f.hdr && scvtTy f.ty && scvtTy f.srcTy && f.sub7 < 16 && f.mods true false false false false
  && (if f.ty.isInt && f.srcTy.isInt then f.rm0 else f.rmRound) && f.dS f.ty.is64 && f.noA
  && (if f.immForm then f.noB && ({ f with ty := f.srcTy } : Fields).immOk else f.b.sval f.srcTy && f.noC)

/-- What every CT instruction has: R92. -/
def ct (f : Fields) (na : Bool) : Bool := f.hdr && f.ty0 && f.rm0 && f.mods false na false false false && f.d0
def guarded15 (f : Fields) : Bool := f.gpr == 15#4
/-- BRA: Table 3-5. -/
def okBra (f : Fields) : Bool := f.ct false && f.noA && f.noB && f.sub0
/-- BRP: Table 3-5. -/
def okBrp (f : Fields) : Bool := f.ct true && f.guarded15 && f.a.isPred && f.noB && f.sub0
/-- JOIN: Table 3-5. -/
def okJoin (f : Fields) : Bool := f.ct false && f.guarded15 && f.noA && f.noB && f.sub0 && f.x0
/-- CALL: Table 3-5. -/
def okCall (f : Fields) : Bool :=
  f.ct false && f.noB && (if f.sub == 4#8 then f.a.sPair && f.x0 else f.sub0 && f.noA)
/-- RET: Table 3-5. -/
def okRet (f : Fields) : Bool := f.ct false && f.noA && f.noB && f.sub0 && f.x0
/-- S0 to S59. -/
def sLow : Operand → Bool
  | .s n => n < 60#6
  | _ => false
/-- LOOP: Table 3-5. -/
def okLoop (f : Fields) : Bool := f.ct false && sLow f.a && f.noB && f.sub0
/-- NOP: R64. -/
def okNop (f : Fields) : Bool := f.ct false && f.noA && f.noB && f.sub0 && f.x0
/-- EXIT: Table 3-5; NA inverts a predicate and is unused without one. -/
def okExit (f : Fields) : Bool := f.ct f.a.isPred && f.a.orAbsent (·.isPred) && f.noB && f.sub0 && f.x0
/-- TRAP: Table 3-5. -/
def okTrap (f : Fields) : Bool := f.ct false && f.noA && f.noB && f.sub0
/-- SFMT: Table 3-5. -/
def okSfmt (f : Fields) : Bool :=
  f.ct false && f.noB &&
  (if f.sub == 0x80#8 then f.noA && f.x < 0x10000#32 else f.sub0 && f.a.constOrS && f.x0)
/-- WAITT: Table 3-5. -/
def okWaitt (f : Fields) : Bool := f.ct false && f.a.sPair && f.noB && f.sub0 && f.x0
/-- YLD: Table 3-5. -/
def okYld (f : Fields) : Bool := f.ct false && f.noA && f.noB && f.sub0 && f.x < 0x10000#32
/-- BRX: Table 3-5. -/
def okBrx (f : Fields) : Bool :=
  f.ct false && f.sub < 8#8 &&
  (if f.sub.getLsbD 2 then f.a.sPair && f.noB && f.x0 else f.a.isS && f.b.intIn 1 63)

/-- What every memory instruction of Table 7-6 has: R214. -/
def ma (f : Fields) : Bool := f.hdr && f.rm0 && f.noMods
/-- Encoded count 0, 1 or 2: SUB bits 5:4 (R215). -/
def countCode (f : Fields) : Nat := (f.sub.extractLsb' 4 2).toNat
/-- Elements of an access (R215). -/
def count (f : Fields) : Nat := if f.countCode = 0 then 1 else if f.countCode = 1 then 2 else 4
/-- Registers per element (R216). -/
def regsPer (f : Fields) : Nat := if f.ty.is64 then 2 else 1
/-- SUB bits 7:6. -/
def hint (f : Fields) : Nat := (f.sub.extractLsb' 6 2).toNat
/-- Count, hint bits and D of a vector load or store (R215, R216). -/
def okCount (f : Fields) : Bool :=
  f.countCode < 3 && (f.count == 1 || (f.ty.width ≥ 32 && f.ty != .bf16x2 && f.ty != .f16x2 && f.ty != .e4m3x4 && f.ty != .e5m2x4))
  && f.d.toNat % (f.count * f.regsPer) == 0
/-- LD, ST: Table 7-6. -/
def okLd (f : Fields) : Bool := f.ma && f.okCount && f.hint < 3 && f.a.vbase && f.b.orAbsent (·.vidx)
/-- LDS, STS, LDV, STV: Table 7-6. -/
def okLds (f : Fields) : Bool := f.ma && f.okCount && f.hint == 0 && f.a.orAbsent (·.vidx) && f.b.orAbsent (·.vidx)
/-- Space of SLD and SST: SUB bits 5:4 (R215). -/
def spaceCode (f : Fields) : Nat := (f.sub.extractLsb' 4 2).toNat
/-- SLD, SST: Table 7-6. -/
def okSld (f : Fields) : Bool :=
  f.ma && unpacked f.ty && f.spaceCode < 3 && f.hint < 3 && f.d < 64#8 && Operand.evenIf f.ty.is64 f.d
  && (if f.spaceCode == 0 then f.a.orAbsent (·.sPair) else f.a.orAbsent (·.isS)) && f.b.orAbsent (·.sidx)
/-- LDZ, STZ: Table 7-6. -/
def okLdz (f : Fields) : Bool :=
  f.ma && (f.ty == .i32 || f.ty == .n32 || f.ty == .f32) && f.okCount && f.hint == 0
  && f.a.orAbsent (·.vidx) && f.b.orAbsent (·.vidx)
/-- PRF: Table 7-6. -/
def okPrf (f : Fields) : Bool :=
  f.ma && f.ty0 && f.d0 && f.countCode < 3 && f.hint == 0 && f.a.vbase && f.b.orAbsent (·.vidx)
/-- CCTL operation: SUB bits 7:4 (Table 7-8). -/
def cctlOp (f : Fields) : Nat := (f.sub.extractLsb' 4 4).toNat
/-- CCTL: Table 7-6. Of .inv1all, which forms no address, the displacement and SUB bits 3:0 may hold anything (log entry 92, DESIGN CHOICE). -/
def okCctl (f : Fields) : Bool :=
  f.ma && f.ty0 && f.d0 && f.cctlOp < 5
  && (if f.cctlOp == 1 then f.noA && f.noB else f.a.vbase && f.b.orAbsent (·.vidx))
/-- DSCD: Table 7-6; it forms no address, so its displacement is unused and zero. -/
def okDscd (f : Fields) : Bool := f.ma && f.ty0 && f.d0 && f.sub0 && f.x0 && f.a.sPair && f.b.constOrS

/-- Atomic operation: SUB bits 7:4 (Table 8-5). -/
def atomOp (f : Fields) : Nat := (f.sub.extractLsb' 4 4).toNat
/-- Operations 0 to 8 return the old value (R240). -/
def atomReturns (f : Fields) : Bool := f.atomOp < 9
/-- The row of Table 8-5, whether returning or not. -/
def atomKind (f : Fields) : Nat := if f.atomOp < 9 then f.atomOp else f.atomOp - 9
/-- TY of an atomic operation (Table 8-5). -/
def okAtomTy (f : Fields) : Bool :=
  match f.atomKind with
  | 0 => f.wideInt || f.ty == .f32 || f.ty == .bf16x2
  | 1 | 2 => f.wideInt
  | 7 => f.n3264 || f.ty == .f32
  | _ => f.n3264
/-- Modifiers of an atomic: NC with operations 0 and 9 (R239). -/
def okAtomMods (f : Fields) : Bool := f.hdr && f.rm0 && f.mods false false false (f.atomKind == 0) false
/-- ATOM: Table 8-4. -/
def okAtom (f : Fields) : Bool :=
  f.okAtomMods && f.okAtomTy && (if f.atomReturns then f.dV f.ty.is64 else f.d0)
  && f.a.vbase && f.b.orAbsent (·.vidx) && f.c.vdata f.ty
/-- ATOMS, ATOMV: Table 8-4. -/
def okAtoms (f : Fields) : Bool :=
  f.okAtomMods && f.okAtomTy && (if f.atomReturns then f.dV f.ty.is64 else f.d0)
  && f.a.orAbsent (·.vidx) && f.b.orAbsent (·.vidx) && f.c.vdata f.ty
/-- SATOM: Table 8-4. -/
def okSatom (f : Fields) : Bool :=
  f.okAtomMods && f.okAtomTy && (if f.atomReturns then f.d < 60#8 && f.dV f.ty.is64 else f.d0)
  && f.a.orAbsent (·.sPair) && f.b.orAbsent (·.sidx)
  && (match f.c with
      | .s n => Operand.evenIf f.ty.is64 n
      | .t _ | .int _ => true
      | .fp _ => f.ty.isFloat
      | _ => false)

/-- What FNC, FWT, BAR and WTCT have: R245. -/
def sync (f : Fields) : Bool := f.hdr && f.ty0 && f.rm0 && f.noMods
/-- Scope code: SUB bits 3:0 (Table 2-14). -/
def scope (f : Fields) : Nat := (f.sub.extractLsb' 0 4).toNat
/-- Kind of FNC and BAR: SUB bits 5:4 (Table 8-6). -/
def syncKind (f : Fields) : Nat := (f.sub.extractLsb' 4 2).toNat
/-- FNC: Table 8-6. -/
def okFnc (f : Fields) : Bool :=
  f.sync && (f.d < 60#8 || f.d == 63#8) && f.noA && f.b.intIn 1 63 && f.syncKind < 3 && f.sub < 64#8 && f.x0
/-- FWT: Table 8-6. -/
def okFwt (f : Fields) : Bool :=
  f.sync && f.d0 && f.noB && f.x0 && f.sub < 2#8
  && (if f.sub == 1#8 then f.noA else (sLow f.a || (match f.a with | .t _ => true | _ => false)))
def barNumbered (f : Fields) : Bool := f.sub.getLsbD 6
/-- BAR: Table 8-6. -/
def okBar (f : Fields) : Bool :=
  f.sync && f.d0 && f.x0 && 1 ≤ f.scope && f.scope ≤ 8 && f.syncKind < 3 &&
  (if f.barNumbered then
    f.scope == 1 && f.a.intIn 0 15 && (if f.syncKind == 2 then f.noB else f.b.intIn 1 63 || f.b.isS)
  else f.noA && f.noB)
/-- WTCT: Table 8-6. -/
def okWtct (f : Fields) : Bool :=
  f.sync && f.d ≤ 58#8 && !f.d.getLsbD 0 && f.hint == 0 &&
  (if f.syncKind == 0 then
    f.b.orAbsent (·.sidx) && (f.a.isAbsent || f.a.isS || (match f.a with | .t _ => true | _ => false))
  else f.syncKind == 1 && f.scope == 0 && f.a.intIn 0 7 && f.noB && f.x0)

/-- The .wg scope bit of an XL instruction (R181). -/
def wg (f : Fields) : Bool := f.sub.getLsbD 4
/-- A step carries GPR = 15 and GNG = 0 (R178). -/
def stepGuard (f : Fields) : Bool := f.gpr == 15#4 && !f.gng
/-- NBR: Table 6-2. -/
def okNbr (f : Fields) : Bool :=
  f.hdr && f.n3264 && f.rm0 && f.mods false false true false false && (!f.wg || f.stepGuard) && f.sub &&& 0xEC#8 == 0#8
  && (f.sub.extractLsb' 0 2) < 3#2 && f.dV f.ty.is64 && f.a.isV f.ty.is64 && f.b.constOrS
  && f.cIs (Operand.orAbsent (·.vint f.ty.is64))
/-- The types of SCAN, RED and SRTK. -/
def scanTy (f : Fields) : Bool := f.wideInt || f.ty == .f32
/-- Operation, type and SAT of SCAN and RED (Tables 6-2 and 6-4). -/
def okScanOp (f : Fields) : Bool :=
  f.hdr && f.scanTy && f.rm0 && f.kind3 < 6 && (f.kind3 < 3 || f.ty != .f32)
  && f.mods (f.kind3 == 0 && f.ty.isInt) false false false false && (!f.wg || f.stepGuard)
/-- SCAN: Table 6-2. -/
def okScan (f : Fields) : Bool :=
  f.okScanOp && f.sub &&& 0xE0#8 == 0#8 && f.dV f.ty.is64 && f.a.vec f.ty && f.noB && f.cIs (Operand.orAbsent (·.isPred))
/-- RED: Table 6-2. -/
def okRed (f : Fields) : Bool :=
  f.okScanOp && f.sub &&& 0xE8#8 == 0#8 && f.d < 60#8 && (!f.ty.is64 || (!f.d.getLsbD 0 && f.d ≤ 58#8))
  && f.a.vec f.ty && f.noB && f.noC
/-- VOTE kind: SUB bits 1:0 (Table 6-5). -/
def voteKind (f : Fields) : Nat := (f.sub.extractLsb' 0 2).toNat
/-- VOTE: Table 6-2. -/
def okVote (f : Fields) : Bool :=
  f.hdr && f.ty0 && f.rm0 && f.mods false true false false false && (!f.wg || f.stepGuard) && f.sub &&& 0xEC#8 == 0#8
  && (if f.voteKind == 3 then !f.wg && f.d ≤ 57#8 else f.d < 60#8) && f.a.isPred && f.noB && f.noC
/-- BCST: Table 6-2. -/
def okBcst (f : Fields) : Bool :=
  f.hdr && f.n3264 && f.rm0 && f.noMods && f.sub < 2#8 && f.dV f.ty.is64 && f.a.isV f.ty.is64
  && (if f.sub == 1#8 then f.noB else f.b.constOrS) && f.cIs (Operand.orAbsent (·.vint f.ty.is64))
/-- RGRP: Table 6-2. -/
def okRgrp (f : Fields) : Bool :=
  f.hdr && f.ty0 && f.rm0 && f.noMods && f.stepGuard && f.sub &&& 0xEF#8 == 0#8 && f.d0 && f.noA && f.noB && f.noC
/-- SRTK: Table 6-2. -/
def okSrtk (f : Fields) : Bool :=
  f.hdr && f.scanTy && f.rm0 && f.noMods && f.stepGuard && f.sub &&& 0xEE#8 == 0#8 && f.d0
  && f.a.isV f.ty.is64 && f.b.sPair && f.cIs (·.isS)

/-- What every AE and SY instruction but XRED has. -/
def ae (f : Fields) (na : Bool) : Bool := f.hdr && f.ty0 && f.rm0 && f.mods false na false false false
def noAB (f : Fields) : Bool := f.noA && f.noB
/-- IMM32 names a queue (Table 10-1). -/
def queueImm (f : Fields) : Bool := f.x < 8#32
/-- QSUB.cfgl, .cfgs: Table 10-1. -/
def okQsubCfg (f : Fields) : Bool := f.ae false && f.sub < 8#8 && f.dBlock false 3 && f.noAB && f.queueImm
/-- QSUB.sub: Table 10-1. -/
def okQsubSub (f : Fields) : Bool := f.ae false && f.sub < 8#8 && f.dBlock true 6 && f.noAB && f.queueImm
/-- QSUB.drop: Table 10-1. -/
def okQsubDrop (f : Fields) : Bool := f.ae false && f.sub < 8#8 && f.d0 && f.noAB && f.queueImm
/-- QRET: Table 10-1. -/
def okQret (f : Fields) : Bool := f.ae false && f.sub0 && f.d0 && (f.a.intIn 1 63 || f.a.isS) && f.noB && f.queueImm
/-- CPY: Table 10-1. -/
def okCpy (f : Fields) : Bool :=
  f.ae false && f.sub < 16#8 && f.sub.extractLsb' 0 2 < 3#2 && f.sub.extractLsb' 2 2 < 3#2 && f.dBlock true 6 && f.noAB && f.x0
/-- CPYT: Table 10-1. -/
def okCpyt (f : Fields) : Bool := f.ae false && f.sub0 && f.dBlock false 2 && f.noAB && f.x0
/-- EWT: Table 10-1. -/
def okEwt (f : Fields) : Bool := f.ae false && f.sub0 && f.d0 && (f.a.intIn 0 31 || f.a.isS) && f.noB && f.x0
/-- XPUT, XGET: Table 10-1. -/
def okXput (f : Fields) : Bool := f.ae false && f.sub0 && f.dBlock false 5 && f.noAB && f.x0
/-- XRED: Table 10-1. -/
def okXred (f : Fields) : Bool :=
  f.hdr && (f.ty == .bf16 || f.ty == .f32) && f.rm0 && f.noMods && f.sub < 4#8 && f.dBlock true 7 && f.noAB && f.x0
/-- TSPN: Table 11-9. -/
def okTspn (f : Fields) : Bool := f.ae false && f.sub0 && f.dBlock true 6 && f.noAB && f.x0
/-- TSUS: Table 11-9. -/
def okTsus (f : Fields) : Bool :=
  f.ae false && f.sub < 8#8 && f.sub.extractLsb' 0 2 < 3#2 && f.noAB && f.x ≤ 16#32
  && (if f.sub.extractLsb' 0 2 == 0#2 then f.d0 else f.d ≤ 56#8 && f.dBlock true 3)
/-- TEND: Table 11-9. -/
def okTend (f : Fields) : Bool := f.ae false && f.sub < 32#8 && 1 ≤ f.scope && f.scope ≤ 9 && f.d0 && f.noAB && f.x0
/-- IMM32 names a Slalom set. -/
def setImm (f : Fields) : Bool := f.x < 16#32
def optPred (f : Fields) : Bool := f.a.orAbsent (·.isPred)
/-- SLIN.set: Table 11-9. -/
def okSlinSet (f : Fields) : Bool := f.ae false && f.sub < 4#8 && f.dBlock true 2 && f.noAB && f.setImm
/-- SLIN.rec: Table 11-9. -/
def okSlinRec (f : Fields) : Bool := f.ae f.a.isPred && f.sub < 4#8 && f.dV true && f.optPred && f.noB && f.setImm
/-- SLIN.close, SLIN.free: Table 11-9. -/
def okSlinClose (f : Fields) : Bool := f.ae false && f.sub < 4#8 && f.d0 && f.noAB && f.setImm
/-- SLPS: Table 11-9. -/
def okSlps (f : Fields) : Bool :=
  f.ae f.a.isPred && f.sub < 2#8 && (if f.sub == 1#8 then f.dV true else f.d0) && f.optPred && f.noB && f.x0
/-- SLDP: Table 11-9. -/
def okSldp (f : Fields) : Bool := f.ae f.a.isPred && f.sub0 && f.d0 && f.optPred && f.noB && f.x0
/-- SLFX.rd: Table 11-9. -/
def okSlfxRd (f : Fields) : Bool := f.ae f.a.isPred && f.sub < 4#8 && f.dV true && f.optPred && f.noB && f.x0
/-- SLFX.pin: Table 11-9. -/
def okSlfxPin (f : Fields) : Bool := f.ae false && f.sub < 4#8 && f.d0 && f.noA && f.b.sPair && f.setImm
/-- SLFX.unpin: Table 11-9. -/
def okSlfxUnpin (f : Fields) : Bool := f.ae false && f.sub < 4#8 && f.d0 && f.noAB && f.setImm
/-- A selector constant of SLST that is not reserved (Table 11-11). -/
def slstConst (n : Nat) : Bool := n < 10 || 16 ≤ n
/-- SLST: Table 11-9, R354. -/
def okSlst (f : Fields) : Bool :=
  f.ae false && f.sub0 && f.dBlock true 2 && f.noA && f.setImm
  && (match f.b with | .int n => slstConst n.toNat | .s _ => true | _ => false)
/-- JTOK: Table 12-4. -/
def okJtok (f : Fields) : Bool := f.ae false && f.sub0 && f.dBlock true 6 && f.noAB && f.x0
/-- JRTE: Table 12-4. -/
def okJrte (f : Fields) : Bool := f.ae false && f.sub < 4#8 && f.sub != 0#8 && f.dBlock true 8 && f.noAB && f.x0
/-- JRD: Table 12-4. -/
def okJrd (f : Fields) : Bool :=
  f.ae false && f.sub0 && f.dBlock true 8 && (match f.a with | .s n => n ≤ 57#6 | _ => false) && f.noB && f.x0
/-- JTRN: Table 12-4. -/
def okJtrn (f : Fields) : Bool := f.ae false && f.sub < 7#8 && f.d ≤ 52#8 && !f.d.getLsbD 0 && f.noAB && f.x0
/-- KRET: Table 13-7. -/
def okKret (f : Fields) : Bool := f.ae false && f.sub0 && f.d0 && f.noAB && f.x0
/-- Width of a CSR in bits, or 0 for a reserved number (Table 13-1). -/
def csrWidth (n : Nat) : Nat :=
  match n with
  | 0x000 | 0x002 | 0x003 | 0x011 | 0x013 | 0x020 => 64
  | 0x001 | 0x004 | 0x005 | 0x006 | 0x007 | 0x010 | 0x012 => 32
  | _ => 0
def csrNum (f : Fields) : Nat := (f.x.extractLsb' 0 12).toNat
def csrWide (f : Fields) : Bool := csrWidth f.csrNum == 64
/-- CSRR: Table 13-7, R377. -/
def okCsrr (f : Fields) : Bool :=
  f.ae false && f.sub0 && f.noAB && f.x < 0x1000#32 && csrWidth f.csrNum != 0 && f.d < 60#8 && Operand.evenIf f.csrWide f.d
/-- CSRW: Table 13-7; CTXID, PARTID and DTIME are not written (R377). -/
def okCsrw (f : Fields) : Bool :=
  f.ae false && f.sub < 3#8 && f.noB && f.x < 0x1000#32 && csrWidth f.csrNum != 0
  && f.csrNum != 0x010 && f.csrNum != 0x012 && f.csrNum != 0x020
  && (f.d == 63#8 || (f.d < 60#8 && Operand.evenIf f.csrWide f.d))
  && (match f.a with | .int _ => true | .s n => !f.csrWide || (!n.getLsbD 0 && n ≤ 58#6) | _ => false)
/-- TLBI.page: Table 13-7. -/
def okTlbiPage (f : Fields) : Bool := f.ae false && f.sub < 8#8 && f.d0 && f.a.sPair && f.b.isS && f.x < 0x10000#32
/-- TLBI.ctx, .part: Table 13-7. -/
def okTlbiCtx (f : Fields) : Bool := f.ae false && f.sub < 8#8 && f.d0 && f.noA && f.b.isS && f.x0
/-- TLBI.all: Table 13-7, R395. -/
def okTlbiAll (f : Fields) : Bool := f.ae false && f.sub < 8#8 && f.d0 && f.noAB && f.x0
/-- SWCX.load, .arm: Table 13-7. -/
def okSwcx (f : Fields) : Bool := f.ae false && f.sub < 8#8 && f.d ≤ 56#8 && !f.d.getLsbD 0 && f.noAB && f.x0
/-- SWCX.cancel: Table 13-7, R396. -/
def okSwcxCancel (f : Fields) : Bool := f.ae false && f.sub < 8#8 && f.d0 && f.noAB && f.x0
/-- ENGR: Table 13-7, R397. -/
def okEngr (f : Fields) : Bool :=
  f.ae false && f.sub0 && f.dBlock true 2 && f.noA && (f.b.intIn 0 13 || f.b.isS)
/-- FLTR, SIGT: Table 13-7. -/
def okFltr (f : Fields) : Bool := f.ae false && f.sub0 && f.dBlock false 3 && f.noAB && f.x0
/-- HLT: Table 13-7. -/
def okHlt (f : Fields) : Bool := f.ae false && f.sub0 && (f.d < 60#8 || f.d == 63#8) && f.noAB && f.x0
/-- SCPW: Table 13-7. -/
def okScpw (f : Fields) : Bool := f.ae false && f.sub < 10#8 && f.d ≤ 54#8 && !f.d.getLsbD 0 && f.noAB && f.x0

end Fields

/-- Whether a main-stream instruction uses no reserved value, before the conditions on the launch's V-register count and on
FMT (R67). TRL is checked with its stroke (Table 2-4). Burin instructions and events are legal as decoded. -/
def Instr.legal : Instr → Bool
  | .vadd f | .vsub f => f.okVadd | .vmul f => f.okVmul | .vmulh f => f.okVmulh | .vmad f => f.okVmad
  | .vmin f | .vmax f => f.okVmin | .vlop3 f => f.okVlop3 | .vshf f => f.okVshf | .vbfx f => f.okVbfx
  | .vbfi f | .vprm f => f.okVbfi | .vbit f => f.okVbit | .vsel f => f.okVsel | .vcmp f => f.okVcmp
  | .vdot4 f => f.okVdot4 | .vmov f => f.okVmov | .plop3 f => f.okPlop3
  | .fadd f | .fmul f => f.okFadd | .ffma f => f.okFfma | .fmin f | .fmax f => f.okFmin | .fcmp f => f.okFcmp
  | .fcls f => f.okFcls | .frnd f => f.okFrnd | .fscl f => f.okFscl | .fsfn f => f.okFsfn | .cvt f => f.okCvt
  | .cvtp f => f.okCvtp | .qpk f => f.okQpk | .qpkAmax f => f.okQpkAmax | .qup f => f.okQup
  | .vaddi f => f.okVaddi | .vmuli f => f.okVmuli | .vlopi f => f.okVlopi | .vshfi f => f.okVshfi
  | .vcmpi f => f.okVcmpi | .vmovi f => f.okVmovi | .vseli f => f.okVseli | .vmini f | .vmaxi f => f.okVmini
  | .faddi f | .fmuli f => f.okFaddi | .ffmai f => f.okFfmai | .fcmpi f => f.okFcmpi
  | .sadd f | .ssub f => f.okSadd | .smul f | .smulh f => f.okSmul | .smin f | .smax f => f.okSmin
  | .slop3 f => f.okSlop3 | .sshf f => f.okSshf | .sbfx f => f.okSbfx | .sbit f => f.okSbit | .scmp f => f.okScmp
  | .ssel f => f.okSsel | .smov f => f.okSmov | .sadd64 f => f.okSadd64 | .slea f => f.okSlea | .sdiv f => f.okSdiv
  | .srds f => f.okSrds | .sfma f => f.okSfma | .scvt f => f.okScvt
  | .bra f => f.okBra | .brp f => f.okBrp | .join f => f.okJoin | .call f => f.okCall | .ret f => f.okRet
  | .loop f => f.okLoop | .nop f => f.okNop | .exit f => f.okExit | .trap f => f.okTrap | .sfmt f => f.okSfmt
  | .waitt f => f.okWaitt | .yld f => f.okYld | .brx f => f.okBrx
  | .ld f | .st f => f.okLd | .lds f | .sts f | .ldv f | .stv f => f.okLds | .sld f | .sst f => f.okSld
  | .ldz f | .stz f => f.okLdz | .prf f => f.okPrf | .cctl f => f.okCctl | .dscd f => f.okDscd
  | .atom f => f.okAtom | .atoms f | .atomv f => f.okAtoms | .satom f => f.okSatom
  | .fnc f => f.okFnc | .fwt f => f.okFwt | .bar f => f.okBar | .wtct f => f.okWtct
  | .nbr f => f.okNbr | .scan f => f.okScan | .red f => f.okRed | .vote f => f.okVote | .bcst f => f.okBcst
  | .rgrp f => f.okRgrp | .srtk f => f.okSrtk
  | .qsubCfgl f | .qsubCfgs f => f.okQsubCfg | .qsubSub f => f.okQsubSub | .qsubDrop f => f.okQsubDrop
  | .qret f => f.okQret | .cpy f => f.okCpy | .cpyt f => f.okCpyt | .ewt f => f.okEwt
  | .xput f | .xget f => f.okXput | .xred f => f.okXred
  | .tspn f => f.okTspn | .tsus f => f.okTsus | .tend f => f.okTend
  | .slinSet f => f.okSlinSet | .slinRec f => f.okSlinRec | .slinClose f | .slinFree f => f.okSlinClose
  | .slps f => f.okSlps | .sldp f => f.okSldp | .slfxRd f => f.okSlfxRd | .slfxPin f => f.okSlfxPin
  | .slfxUnpin f => f.okSlfxUnpin | .slst f => f.okSlst
  | .jtok f => f.okJtok | .jrte f => f.okJrte | .jrd f => f.okJrd
  | .kret f => f.okKret | .csrr f => f.okCsrr | .csrw f | .scopetabWrite f => f.okCsrw
  | .tlbiPage f => f.okTlbiPage | .tlbiCtx f | .tlbiPart f => f.okTlbiCtx | .tlbiAll f => f.okTlbiAll
  | .swcxLoad f | .swcxArm f => f.okSwcx | .swcxCancel f => f.okSwcxCancel
  | .engr f => f.okEngr | .fltr f | .sigt f => f.okFltr | .hlt f => f.okHlt
  | .scpwVault f | .scpwL2way f | .scpwPinq f | .scpwSlot f | .scpwTask f | .scpwFq f | .scpwFqack f
  | .scpwStrict f | .scpwPeer f | .scpwSpare f => f.okScpw
  | .jtrnCfg f | .jtrnHost f | .jtrnPart f | .jtrnCkpt f | .jtrnTrunc f | .jtrnSync f | .jtrnRply f => f.okJtrn
  | _ => true

/-- FMT.NFMT (Table 3-1). -/
def fmtNfmt (fmt : BitVec 16) : Nat := (fmt.extractLsb' 3 4).toNat
/-- FMT.BLK in elements (Table 3-1). -/
def fmtBlk (fmt : BitVec 16) : Nat := 32 * 2 ^ (fmt.extractLsb' 7 2).toNat
/-- A 4-bit narrow format (Table 5-4). -/
def narrow4 (fmt : BitVec 16) : Bool := 2 ≤ fmtNfmt fmt
/-- Source run of QPK mode 0 (R168). -/
def qpkRun (ty : Ty) (fmt : BitVec 16) : Nat := (if narrow4 fmt then 8 else 4) / (if ty == .f32 then 1 else 2)
/-- Source run of QUP (R171). -/
def qupSrcRun (fmt : BitVec 16) : Nat := if fmtNfmt fmt = 4 then fmtBlk fmt / 8 else 1
/-- Destination run of QUP (R171). -/
def qupDstRun (ty : Ty) (fmt : BitVec 16) : Nat := (if narrow4 fmt then 8 else 4) / (if ty == .f32 then 1 else 2)

/-- The V registers an operand names, first and past the last. -/
def Operand.vEnd (wide : Bool) : Operand → Nat
  | .v n => n.toNat + (if wide then 2 else 1)
  | _ => 0

/-- FSCL writes a 32-bit exponent in form 1 (Table 5-10). -/
def Fields.fsclWide (f : Fields) : Bool := f.ty.is64 && f.sub != 1#8
/-- VBIT and SBIT write a pair only in the forms that change A or reverse B. R126 says so of VBIT; of SBIT's counts and single bit the spec
does not say whether a 64-bit type writes one register or two, and the model writes one, as in VBIT (log entry 32, DESIGN CHOICE). -/
def Fields.bitWide (f : Fields) : Bool := f.ty.is64 && !(f.kind3 < 3 || f.kind3 == 6)
/-- One past the V register, or pair, that D names. -/
def Fields.dEnd (f : Fields) (wide : Bool) : Nat := f.d.toNat + (if wide then 2 else 1)

/-- The number one past the highest V register that the instruction names through D, with its run. -/
def Instr.dVEnd (i : Instr) (fmt : BitVec 16) : Nat :=
  match i with
  | .qup f => f.d.toNat + qupDstRun f.ty fmt
  | .ld f | .st f | .lds f | .sts f | .ldv f | .stv f | .ldz f | .stz f => f.d.toNat + f.count * f.regsPer
  | .vadd f | .vsub f | .vmul f | .vmulh f | .vmad f | .vmin f | .vmax f | .vlop3 f | .vshf f | .vsel f | .vmov f
  | .fadd f | .fmul f | .ffma f | .fmin f | .fmax f | .frnd f | .cvt f | .vaddi f | .vmuli f | .vshfi f | .vmovi f
  | .vseli f | .vmini f | .vmaxi f | .faddi f | .fmuli f | .ffmai f | .nbr f | .scan f | .bcst f => f.dEnd f.ty.is64
  | .vbfx f | .vbfi f | .vdot4 f | .vprm f | .fsfn f | .cvtp f | .qpk f | .qpkAmax f | .vlopi f => f.dEnd false
  | .vbit f => f.dEnd f.bitWide
  | .fscl f => f.dEnd f.fsclWide
  | .atom f | .atoms f | .atomv f => if f.atomReturns then f.dEnd f.ty.is64 else 0
  | .slinRec f | .slfxRd f => f.d.toNat + 2
  | .slps f => if f.sub == 1#8 then f.d.toNat + 2 else 0
  | _ => 0

/-- The forms whose bits 73:64 are a C specifier (Table 2-8). -/
def Instr.hasC (i : Instr) : Bool :=
  match i.mainView with
  | some (op, f) =>
    op < 0x20#8 || (0xA0#8 ≤ op && op < 0xC0#8) || (0x8D#8 ≤ op && op ≤ 0x90#8)
    || (0x40#8 ≤ op && op < 0x60#8 && (op == 0x44#8 || !f.immForm))
  | none => false

/-- R50 and R447: no V register at or above the launch's count `vr`, and runs aligned under the current FMT. -/
def Instr.legalUnder (i : Instr) (vr : Nat) (fmt : BitVec 16) : Bool :=
  match i.mainView with
  | none => true
  | some (_, f) =>
    i.dVEnd fmt ≤ vr && f.a.vEnd false ≤ vr && f.b.vEnd false ≤ vr && (!i.hasC || f.c.vEnd false ≤ vr) &&
    (match i with
     | .qpk f =>
       (match f.a with
        | .v n => n.toNat % qpkRun f.ty fmt == 0 && n.toNat + qpkRun f.ty fmt ≤ vr
        | _ => false)
     | .qup f =>
       (match f.a with
        | .v n => n.toNat % qupSrcRun fmt == 0 && n.toNat + qupSrcRun fmt ≤ vr
        | _ => fmtNfmt fmt != 4)
       && f.d.toNat % qupDstRun f.ty fmt == 0
       && (if fmtNfmt fmt = 4 then f.sub.toNat < qupSrcRun fmt else f.sub == 0#8)
     | _ => true)

end Sys2Proof
end

