-- ==== Sys2Proof/Machine/Integer.lean ====
section
/-! DEFINITION. Integer arithmetic of lanes and scalars: exact results and one narrowing (R105 to R108, R116, R122 to R132). -/

namespace Sys2Proof.Machine

/-- The value of a `w`-bit pattern, read signed or unsigned (R116). -/
def extInt (signed : Bool) (w : Nat) (x : DWord) : Int :=
  let n := x.toNat % 2 ^ w
  if signed && 2 ^ (w - 1) ≤ n then (n : Int) - 2 ^ w else n

/-- Narrowing modulo 2^w. -/
def wrapInt (w : Nat) (x : Int) : DWord := BitVec.ofNat 64 (x % (2 ^ w : Nat)).toNat

/-- Clamp to the range of a type (R105, R122). -/
def clampInt (signed : Bool) (w : Nat) (x : Int) : Int :=
  if signed then max (-(2 ^ (w - 1) : Nat)) (min x ((2 ^ (w - 1) : Nat) - 1))
  else max 0 (min x ((2 ^ w : Nat) - 1))

/-- A result of width `w` as the registers hold it: sign-extended to 32 bits for i8 and i16, zero-extended for n8 and n16 (R116). -/
def putInt (t : Ty) (x : DWord) : DWord :=
  match t with
  | .i8 => ((x.setWidth 8).signExtend 32).setWidth 64
  | .i16 => ((x.setWidth 16).signExtend 32).setWidth 64
  | .n8 => (x.setWidth 8).setWidth 64
  | .n16 => (x.setWidth 16).setWidth 64
  | .i64 | .n64 | .f64 => x
  | _ => (x.setWidth 32).setWidth 64

/-- Absolute value and negation in the width of the type, in that order (R55). -/
def modInt (t : Ty) (abs neg : Bool) (x : DWord) : DWord :=
  let v := extInt t.signed t.width x
  let v := extInt t.signed t.width (wrapInt t.width (if abs && v < 0 then -v else v))
  wrapInt t.width (if neg then -v else v)

/-- The exact operations of R105 and R122. -/
inductive Arith where
  | add | sub | mul | mulh | mad | min | max
  deriving DecidableEq, Repr

def Arith.eval (op : Arith) (w : Nat) (a b c : Int) : Int :=
  match op with
  | .add => a + b
  | .sub => a - b
  | .mul => a * b
  | .mulh => (a * b) / (2 ^ w : Nat)
  | .mad => a * b + c
  | .min => if a ≤ b then a else b
  | .max => if a ≤ b then b else a

/-- R105 and R122: exact, then clamped or narrowed. The operands have had AA and the negations applied. -/
def arith (op : Arith) (t : Ty) (sat : Bool) (a b c : DWord) : DWord :=
  let w := t.width
  let x := op.eval w (extInt t.signed w a) (extInt t.signed w b) (extInt t.signed w c)
  wrapInt w (if sat then clampInt t.signed w x else x)

/-- R57: the truth table applied to each bit position. -/
def lut3 {w : Nat} (sub : BitVec 8) (a b c : BitVec w) : BitVec w :=
  let term (k : Nat) (x : BitVec w) : BitVec w := if sub.getLsbD k then x else 0
  term 0 (~~~a &&& ~~~b &&& ~~~c) ||| term 1 (~~~a &&& ~~~b &&& c) ||| term 2 (~~~a &&& b &&& ~~~c)
    ||| term 3 (~~~a &&& b &&& c) ||| term 4 (a &&& ~~~b &&& ~~~c) ||| term 5 (a &&& ~~~b &&& c)
    ||| term 6 (a &&& b &&& ~~~c) ||| term 7 (a &&& b &&& c)

/-- The shift kinds of Table 2-13 on `w` bits, with the amount taken modulo `w` (R106, R124). -/
def shiftVal (kind w : Nat) (a b c : DWord) : DWord :=
  let n := b.toNat % 2 ^ 32 % w
  let a := a.toNat % 2 ^ w
  let c := c.toNat % 2 ^ w
  let wide := a * 2 ^ w + c
  BitVec.ofNat 64 <| match kind with
    | 0 => a * 2 ^ n % 2 ^ w
    | 1 => a / 2 ^ n
    | 2 => (wrapInt w (extInt true w (BitVec.ofNat 64 a) / (2 ^ n : Nat))).toNat
    | 3 => (a * 2 ^ n + a / 2 ^ (w - n)) % 2 ^ w
    | 4 => (a / 2 ^ n + a * 2 ^ (w - n)) % 2 ^ w
    | 5 => wide * 2 ^ n / 2 ^ w % 2 ^ w
    | _ => wide / 2 ^ n % 2 ^ w

/-- The field of R107 and R125: position bits 7:0 and length bits 15:8 of the control word. -/
def bitField (signed : Bool) (a b : Word) : Word :=
  let p := b.toNat % 256
  let m := b.toNat / 256 % 256
  if m = 0 || 32 ≤ p then 0
  else
    let len := min (p + m) 32 - p
    let x := a.toNat / 2 ^ p % 2 ^ len
    BitVec.ofNat 32 (wrapInt 32 (extInt signed len (BitVec.ofNat 64 x))).toNat

/-- VBFI (R125): bits of B replaced by the low bits of A, with position and length from C. -/
def bitInsert (a b c : Word) : Word :=
  let p := c.toNat % 256
  let m := c.toNat / 256 % 256
  if m = 0 || 32 ≤ p then b
  else
    let len := min (p + m) 32 - p
    let mask : Word := BitVec.ofNat 32 ((2 ^ len - 1) * 2 ^ p)
    (b &&& ~~~mask) ||| ((a <<< p) &&& mask)

/-- Number of one bits among the low `n` bits. -/
def popCount (x : Nat) : Nat → Nat
  | 0 => 0
  | n + 1 => (if x.testBit n then 1 else 0) + popCount x n

/-- Zeros above the highest one bit of the low `n` bits. -/
def leadZeros (x : Nat) : Nat → Nat
  | 0 => 0
  | n + 1 => if x.testBit n then 0 else 1 + leadZeros x n

/-- Bits `i` up, at most `n` of them, that are zero before the first one bit. -/
def trailZeros (x i : Nat) : Nat → Nat
  | 0 => 0
  | n + 1 => if x.testBit i then 0 else 1 + trailZeros x (i + 1) n

/-- Table 3-7 on `w` bits. -/
def bitOp (op w : Nat) (a b : DWord) : DWord :=
  let x := b.toNat % 2 ^ w
  let k := x % w
  match op with
  | 0 => BitVec.ofNat 64 (popCount x w)
  | 1 => BitVec.ofNat 64 (leadZeros x w)
  | 2 => BitVec.ofNat 64 (trailZeros x 0 w)
  | 3 => BitVec.ofNat 64 ((List.range w).foldl (fun acc i => acc * 2 + (if x.testBit i then 1 else 0)) 0)
  | 4 => a ||| BitVec.ofNat 64 (2 ^ k)
  | 5 => a &&& ~~~(BitVec.ofNat 64 (2 ^ k))
  | _ => if a.getLsbD k then 1 else 0

/-- Table 2-12, integer column, on the `w`-bit patterns. -/
def intCond (code : Nat) (t : Ty) (a b : DWord) : Bool :=
  let x := extInt t.signed t.width a
  let y := extInt t.signed t.width b
  let both := (a.toNat &&& b.toNat) % 2 ^ t.width
  match code with
  | 0 => x == y
  | 1 => x != y
  | 2 => x < y
  | 3 => x ≤ y
  | 4 => y < x
  | 5 => y ≤ x
  | 8 => both != 0
  | 9 => both == 0
  | 10 => true
  | _ => false

/-- The combine modes of R56. -/
def combineBit (mode : Nat) (old r : Bool) : Bool :=
  match mode with
  | 0 => r
  | 1 => old && r
  | _ => old || r

/-- VDOT4 (R131). -/
def dot4 (aSigned bSigned sat : Bool) (a b c : Word) : Word :=
  let byte (x : Word) (i : Nat) (s : Bool) := extInt s 8 ((x >>> (8 * i)).setWidth 64)
  let acc := (List.range 4).foldl (fun acc i => acc + byte a i aSigned * byte b i bSigned) (extInt aSigned 32 (c.setWidth 64))
  (wrapInt 32 (if sat then clampInt aSigned 32 acc else acc)).setWidth 32

/-- VPRM (R132). -/
def permute (a b c : Word) : Word :=
  let pair : BitVec 64 := b ++ a
  let byte (j : Nat) : Byte :=
    let sel : BitVec 4 := c.extractLsb' (4 * j) 4
    let src : Byte := pair.extractLsb' (8 * (sel.toNat % 8)) 8
    if sel.getLsbD 3 then (if src.getLsbD 7 then 0xFF else 0x00) else src
  byte 3 ++ byte 2 ++ byte 1 ++ byte 0

/-- SDIV (R109): toward zero, the remainder with the sign of A; the divisor is not zero. -/
def divInt (t : Ty) (rem : Bool) (a b : DWord) : DWord :=
  let x := extInt t.signed t.width a
  let y := extInt t.signed t.width b
  wrapInt t.width (if rem then x.tmod y else x.tdiv y)

/-- IMM32 standing for an integer operand (R54). -/
def immInt (t : Ty) (imm : Word) : DWord :=
  match t with
  | .i64 => imm.signExtend 64
  | _ => imm.setWidth 64

end Sys2Proof.Machine
end

