-- ==== Sys2Proof/Machine/Flags.lean ====
section
/-! DEFINITION. The sticky exception flags (Table 5-7), the floating-point formats (Table 5-1) and the one rounding of R146
to R148, with the overflow results of Table 5-5. -/

namespace Sys2Proof.Machine

/-- Sticky flags, KSTAT bits 6:0 (Table 5-7). -/
abbrev FlagSet := BitVec 7

def Flag.nv : FlagSet := 0x01
def Flag.dz : FlagSet := 0x02
def Flag.of : FlagSet := 0x04
def Flag.uf : FlagSet := 0x08
def Flag.nx : FlagSet := 0x10
def Flag.sl : FlagSet := 0x20
def Flag.mf : FlagSet := 0x40

/-- A flag raised under a condition. -/
def Flag.when (c : Bool) (f : FlagSet) : FlagSet := if c then f else 0

/-- Rounding modes (Table 2-11). -/
inductive Rnd where
  | rn | rz | rd | ru | ro
  deriving DecidableEq, Repr

def Rnd.ofCode : Nat → Rnd
  | 0 => .rn | 1 => .rz | 2 => .rd | 3 => .ru | _ => .ro

/-- The mode of an RM field, which reads FMT.RND for code 5 (R53). -/
def Rnd.ofField (rm : BitVec 3) (fmt : BitVec 16) : Rnd :=
  if rm = 5 then Rnd.ofCode (fmt.extractLsb' 0 3).toNat else Rnd.ofCode rm.toNat

/-- A floating-point format (Table 5-1). -/
structure FloatFmt where
  width : Nat
  frac : Nat
  bias : Nat
  /-- Largest finite magnitude, as bits. -/
  maxFin : Nat
  /-- Infinity, as bits, if the format has one. -/
  inf : Option Nat
  /-- Canonical NaN, if the format has one. -/
  nan : Option Nat
  /-- Whether a NaN with a clear top fraction bit is signalling. -/
  sig : Bool
  deriving DecidableEq, Repr

def FloatFmt.f16 : FloatFmt := ⟨16, 10, 15, 0x7BFF, some 0x7C00, some 0x7E00, true⟩
def FloatFmt.bf16 : FloatFmt := ⟨16, 7, 127, 0x7F7F, some 0x7F80, some 0x7FC0, true⟩
def FloatFmt.f32 : FloatFmt := ⟨32, 23, 127, 0x7F7FFFFF, some 0x7F800000, some 0x7FC00000, true⟩
def FloatFmt.f64 : FloatFmt :=
  ⟨64, 52, 1023, 0x7FEFFFFFFFFFFFFF, some 0x7FF0000000000000, some 0x7FF8000000000000, true⟩
def FloatFmt.e4m3 : FloatFmt := ⟨8, 3, 7, 0x7E, none, some 0x7F, false⟩
def FloatFmt.e5m2 : FloatFmt := ⟨8, 2, 15, 0x7B, some 0x7C, some 0x7E, false⟩
def FloatFmt.fp4 : FloatFmt := ⟨4, 1, 1, 0x7, none, none, false⟩

/-- A floating-point value, exact. -/
inductive Num where
  | nan (sig : Bool)
  | inf (neg : Bool)
  /-- (−1)^neg × m × 2^e; a zero keeps its sign. -/
  | fin (neg : Bool) (m : Nat) (e : Int)
  deriving DecidableEq, Repr

/-- The value of a bit pattern (R135). -/
def FloatFmt.unpack (t : FloatFmt) (x : Nat) : Num :=
  let x := x % 2 ^ t.width
  let neg := 2 ^ (t.width - 1) ≤ x
  let mag := x % 2 ^ (t.width - 1)
  let fr := mag % 2 ^ t.frac
  let ex := mag / 2 ^ t.frac
  if mag ≤ t.maxFin then
    if ex = 0 then .fin neg fr (1 - (t.bias : Int) - t.frac)
    else .fin neg (2 ^ t.frac + fr) ((ex : Int) - t.bias - t.frac)
  else if some mag = t.inf then .inf neg
  else .nan (t.sig && fr < 2 ^ (t.frac - 1))

/-- The sign bit of a format. -/
def FloatFmt.signBit (t : FloatFmt) (neg : Bool) : Nat := if neg then 2 ^ (t.width - 1) else 0

/-- A result and the flags it raises. -/
structure FRes where
  bits : Nat
  flags : FlagSet
  deriving DecidableEq, Repr

/-- Rounds a magnitude with `rem` out of 2^r left below the last place (R146). -/
def roundUp (mode : Rnd) (neg : Bool) (m rem r : Nat) : Nat :=
  if rem = 0 then m
  else match mode with
    | .rn => if 2 * rem < 2 ^ r then m else if 2 ^ r < 2 * rem then m + 1 else if m % 2 = 0 then m else m + 1
    | .rz => m
    | .rd => if neg then m + 1 else m
    | .ru => if neg then m else m + 1
    | .ro => if m % 2 = 0 then m + 1 else m

/-- `m × 2^e` in units of 2^q, rounded, and whether that was exact. -/
def roundAt (mode : Rnd) (neg : Bool) (m : Nat) (e q : Int) : Nat × Bool :=
  if q ≤ e then (m * 2 ^ (e - q).toNat, true)
  else
    let r := (q - e).toNat
    (roundUp mode neg (m / 2 ^ r) (m % 2 ^ r) r, m % 2 ^ r == 0)

/-- The overflow result of Table 5-5, without saturation. -/
def FloatFmt.overflow (t : FloatFmt) (mode : Rnd) (neg : Bool) : Nat :=
  let big := match mode with
    | .rn => true
    | .rz | .ro => false
    | .rd => neg
    | .ru => !neg
  t.signBit neg + (if big then (match t.inf with | some i => i | none => t.nan.getD t.maxFin) else t.maxFin)

/-- The canonical NaN, or zero for a format with none (R145, R151). -/
def FloatFmt.qnan (t : FloatFmt) : Nat := t.nan.getD 0

/-- Round(x, type, mode) of an exact finite value (R146 to R148); `sat` turns an overflow into the largest finite value. -/
def FloatFmt.round (t : FloatFmt) (mode : Rnd) (sat : Bool) (neg : Bool) (m : Nat) (e : Int) : FRes :=
  if m = 0 then ⟨t.signBit neg, 0⟩
  else
    let top : Int := (Nat.log2 m : Int) + e
    let emin : Int := 1 - (t.bias : Int)
    let qmin := emin - t.frac
    let q := max top emin - t.frac
    let (r, exact) := roundAt mode neg m e q
    let bits := r + (q - qmin).toNat * 2 ^ t.frac
    if t.maxFin < bits then
      ⟨if sat then t.signBit neg + t.maxFin else t.overflow mode neg, Flag.of ||| Flag.nx⟩
    else
      let wide := roundAt mode neg m e (top - t.frac)
      let tiny := top < emin && !(top + 1 == emin && wide.1 == 2 ^ (t.frac + 1))
      ⟨t.signBit neg + bits, Flag.when (!exact) Flag.nx ||| Flag.when (!exact && tiny) Flag.uf⟩

/-- A number in a format, rounded; NaN is canonical and an infinity the format's own (R147, R151). -/
def FloatFmt.pack (t : FloatFmt) (mode : Rnd) (sat : Bool) : Num → FRes
  | .nan s => ⟨t.qnan, Flag.when s Flag.nv⟩
  | .inf neg =>
    if sat then ⟨t.signBit neg + t.maxFin, 0⟩
    else ⟨t.signBit neg + (match t.inf with | some i => i | none => t.nan.getD t.maxFin), 0⟩
  | .fin neg m e => t.round mode sat neg m e

/-- Round(x, integer, mode), exact in magnitude, and whether the value was integral (R146). -/
def roundInt (mode : Rnd) (neg : Bool) (m : Nat) (e : Int) : Int × Bool :=
  let (r, exact) := roundAt mode neg m e 0
  (if neg then -(r : Int) else r, exact)

end Sys2Proof.Machine
end

