-- ==== Sys2Proof/Machine/Float.lean ====
section
/-! DEFINITION. Floating-point arithmetic, comparison and conversion on one element, and on the elements of a packed type
(R145, R150 to R167). -/

namespace Sys2Proof

/-- The format of each element of a floating-point type. -/
def Ty.elem : Ty → Machine.FloatFmt
  | .f16 | .f16x2 => .f16
  | .bf16 | .bf16x2 => .bf16
  | .f64 => .f64
  | .e4m3x4 => .e4m3
  | .e5m2x4 => .e5m2
  | _ => .f32

/-- Elements of a floating-point type. -/
def Ty.elems : Ty → Nat
  | .bf16x2 | .f16x2 => 2
  | .e4m3x4 | .e5m2x4 => 4
  | _ => 1

end Sys2Proof

namespace Sys2Proof.Machine

/-- Element `i` of a register value (R136). -/
def elemOf (t : Ty) (x : DWord) (i : Nat) : Nat := x.toNat / 2 ^ (t.elem.width * i) % 2 ^ t.elem.width

/-- The elements of a packed value put together (R136). -/
def packElems (t : Ty) (es : List Nat) : DWord :=
  BitVec.ofNat 64 (es.foldr (fun e acc => acc * 2 ^ t.elem.width + e % 2 ^ t.elem.width) 0)

/-- Applies an operation to every element, joining the flags (R153). -/
def mapElems (t : Ty) (op : Nat → FRes) : DWord × FlagSet :=
  let rs := (List.range t.elems).map op
  (packElems t (rs.map (·.bits)), rs.foldl (fun f r => f ||| r.flags) 0)

/-- Absolute value and negation of one element: the sign bit, NaN included (R55). -/
def modElem (t : FloatFmt) (abs neg : Bool) (x : Nat) : Nat :=
  let s := 2 ^ (t.width - 1)
  let x := if abs then x % s else x % 2 ^ t.width
  if neg then (if s ≤ x then x - s else x + s) else x

/-- The same on every element of a register value. -/
def modFloat (t : Ty) (abs neg : Bool) (x : DWord) : DWord :=
  packElems t ((List.range t.elems).map fun i => modElem t.elem abs neg (elemOf t x i))

/-- A signed integer in units of 2^e as an exact value. -/
def numOfInt (x : Int) (e : Int) : Num := .fin (x < 0) x.natAbs e

/-- A signed significand at exponent `e`. -/
def signed (neg : Bool) (m : Nat) : Int := if neg then -(m : Int) else m

/-- Whether any source is a signalling NaN. -/
def Num.isSig : Num → Bool
  | .nan s => s
  | _ => false
def Num.isNan : Num → Bool
  | .nan _ => true
  | _ => false

/-- Exact sum of two finite values, with the sign of a zero by R160. -/
def addFin (mode : Rnd) (n1 : Bool) (m1 : Nat) (e1 : Int) (n2 : Bool) (m2 : Nat) (e2 : Int) : Num :=
  let e := if e1 ≤ e2 then e1 else e2
  let x := signed n1 (m1 * 2 ^ (e1 - e).toNat) + signed n2 (m2 * 2 ^ (e2 - e).toNat)
  if x = 0 then .fin (if n1 == n2 then n1 else mode == .rd) 0 e
  else numOfInt x e

/-- The exact value of a × b + c before rounding, and NV of R159. -/
def fmaNum (mode : Rnd) (a b c : Num) : Num × FlagSet :=
  let sig := Flag.when (a.isSig || b.isSig || c.isSig) Flag.nv
  match a, b with
  | .nan _, _ | _, .nan _ => (.nan false, sig)
  | .inf n1, .inf n2 =>
    match c with
    | .nan _ => (.nan false, sig)
    | .inf n3 => if xor n1 n2 == n3 then (.inf n3, sig) else (.nan false, Flag.nv)
    | .fin .. => (.inf (xor n1 n2), sig)
  | .inf n1, .fin n2 m _ | .fin n2 m _, .inf n1 =>
    if m = 0 then (.nan false, Flag.nv)
    else match c with
      | .nan _ => (.nan false, sig)
      | .inf n3 => if xor n1 n2 == n3 then (.inf n3, sig) else (.nan false, Flag.nv)
      | .fin .. => (.inf (xor n1 n2), sig)
  | .fin n1 m1 e1, .fin n2 m2 e2 =>
    match c with
    | .nan _ => (.nan false, sig)
    | .inf n3 => (.inf n3, sig)
    | .fin n3 m3 e3 => (addFin mode (xor n1 n2) (m1 * m2) (e1 + e2) n3 m3 e3, sig)

/-- The exact value of a + b. -/
def addNum (mode : Rnd) (a b : Num) : Num × FlagSet :=
  let sig := Flag.when (a.isSig || b.isSig) Flag.nv
  match a, b with
  | .nan _, _ | _, .nan _ => (.nan false, sig)
  | .inf n1, .inf n2 => if n1 == n2 then (.inf n1, sig) else (.nan false, Flag.nv)
  | .inf n, .fin .. | .fin .., .inf n => (.inf n, sig)
  | .fin n1 m1 e1, .fin n2 m2 e2 => (addFin mode n1 m1 e1 n2 m2 e2, sig)

/-- The exact value of a × b. -/
def mulNum (a b : Num) : Num × FlagSet :=
  let sig := Flag.when (a.isSig || b.isSig) Flag.nv
  match a, b with
  | .nan _, _ | _, .nan _ => (.nan false, sig)
  | .inf n1, .inf n2 => (.inf (xor n1 n2), sig)
  | .inf n1, .fin n2 m _ | .fin n2 m _, .inf n1 => if m = 0 then (.nan false, Flag.nv) else (.inf (xor n1 n2), sig)
  | .fin n1 m1 e1, .fin n2 m2 e2 => (.fin (xor n1 n2) (m1 * m2) (e1 + e2), sig)

/-- Rounds an exact value into a format, joining earlier flags; under SAT an infinite result becomes the largest finite value (R159). -/
def finish (t : FloatFmt) (mode : Rnd) (sat : Bool) (x : Num × FlagSet) : FRes :=
  let r := t.pack mode sat x.1
  ⟨r.bits, r.flags ||| x.2⟩

/-- FADD, FMUL and FFMA (R159). -/
inductive FArith where
  | add | mul | fma
  deriving DecidableEq, Repr

def farithElem (op : FArith) (t : FloatFmt) (mode : Rnd) (sat : Bool) (a b c : Nat) : FRes :=
  finish t mode sat <| match op with
    | .add => addNum mode (t.unpack a) (t.unpack b)
    | .mul => mulNum (t.unpack a) (t.unpack b)
    | .fma => fmaNum mode (t.unpack a) (t.unpack b) (t.unpack c)

/-- FADD, FMUL and FFMA on every element; the operands have had AA and the negations applied. -/
def farith (op : FArith) (t : Ty) (mode : Rnd) (sat : Bool) (a b c : DWord) : DWord × FlagSet :=
  mapElems t fun i => farithElem op t.elem mode sat (elemOf t a i) (elemOf t b i) (elemOf t c i)

/-- Compares two numbers: exact difference in units of the smaller exponent. -/
def ltFin (n1 : Bool) (m1 : Nat) (e1 : Int) (n2 : Bool) (m2 : Nat) (e2 : Int) : Bool :=
  let e := if e1 ≤ e2 then e1 else e2
  signed n1 (m1 * 2 ^ (e1 - e).toNat) < signed n2 (m2 * 2 ^ (e2 - e).toNat)

/-- a < b for numbers; false when either is a NaN. -/
def Num.lt : Num → Num → Bool
  | .nan _, _ | _, .nan _ => false
  | .inf n1, .inf n2 => n1 && !n2
  | .inf n1, .fin .. => n1
  | .fin .., .inf n2 => !n2
  | .fin n1 m1 e1, .fin n2 m2 e2 => ltFin n1 m1 e1 n2 m2 e2

/-- Ordered and equal; +0 equals −0. -/
def Num.eqv (a b : Num) : Bool := !a.isNan && !b.isNan && !a.lt b && !b.lt a

/-- Sign of a zero or nonzero value. -/
def Num.neg : Num → Bool
  | .nan _ => false
  | .inf n => n
  | .fin n _ _ => n

/-- The order of FMIN and FMAX, in which −0 is below +0 (R161). -/
def Num.below (a b : Num) : Bool := a.lt b || (a.eqv b && a.neg && !b.neg)

/-- FMIN and FMAX on one element (R161). -/
def fminElem (isMax : Bool) (t : FloatFmt) (a b : Nat) : FRes :=
  let x := t.unpack a
  let y := t.unpack b
  let flags := Flag.when (x.isSig || y.isSig) Flag.nv
  if x.isNan && y.isNan then ⟨t.qnan, flags⟩
  else if x.isNan then ⟨b, flags⟩
  else if y.isNan then ⟨a, flags⟩
  else if x.below y != isMax then ⟨a, flags⟩
  else ⟨b, flags⟩

def fmin (isMax : Bool) (t : Ty) (a b : DWord) : DWord × FlagSet :=
  mapElems t fun i => fminElem isMax t.elem (elemOf t a i) (elemOf t b i)

/-- Table 2-12, floating-point column, with NV by R152 and R164. -/
def floatCond (code : Nat) (t : FloatFmt) (a b : Nat) : Bool × FlagSet :=
  let x := t.unpack a
  let y := t.unpack b
  let nv := Flag.when (x.isSig || y.isSig) Flag.nv
  let ord := !x.isNan && !y.isNan
  match code with
  | 0 => (x.eqv y, nv)
  | 1 => (!x.eqv y, nv)
  | 2 => (x.lt y, nv)
  | 3 => (x.lt y || x.eqv y, nv)
  | 4 => (y.lt x, nv)
  | 5 => (y.lt x || x.eqv y, nv)
  | 6 => (ord, nv)
  | 7 => (!ord, nv)
  | 10 => (true, 0)
  | _ => (false, 0)

/-- The class of Table 5-11. -/
def fclass (t : FloatFmt) (a : Nat) : Nat :=
  match t.unpack a with
  | .nan s => if s then 0 else 1
  | .inf n => if n then 2 else 9
  | .fin n m _ =>
    if m = 0 then (if n then 5 else 6)
    else if m < 2 ^ t.frac then (if n then 4 else 7)
    else (if n then 3 else 8)

/-- FRND on one element (R162). -/
def frndElem (t : FloatFmt) (mode : Rnd) (b : Nat) : FRes :=
  match t.unpack b with
  | .nan s => ⟨t.qnan, Flag.when s Flag.nv⟩
  | .inf _ => ⟨b, 0⟩
  | .fin n m e =>
    if m = 0 then ⟨b, 0⟩ else ⟨(t.round .rn false n (roundInt mode n m e).1.natAbs 0).bits, 0⟩

def frnd (t : Ty) (mode : Rnd) (b : DWord) : DWord × FlagSet := mapElems t fun i => frndElem t.elem mode (elemOf t b i)

/-- FSCL.ldx on one element (R163). -/
def fldxElem (t : FloatFmt) (mode : Rnd) (sat : Bool) (a : Nat) (n : Int) : FRes :=
  match t.unpack a with
  | .nan s => ⟨t.qnan, Flag.when s Flag.nv⟩
  | .inf ng => t.pack mode sat (.inf ng)
  | .fin ng m e => if m = 0 then ⟨a, 0⟩ else t.round mode sat ng m (e + n)

/-- The power of two that brings any value of any format out of range; a larger count gives the same result. -/
def ldxCount (b : Word) : Int :=
  let n := b.toInt
  if n < -8192 then -8192 else if 8192 < n then 8192 else n

def fldx (t : Ty) (mode : Rnd) (sat : Bool) (a : DWord) (b : Word) : DWord × FlagSet :=
  mapElems t fun i => fldxElem t.elem mode sat (elemOf t a i) (ldxCount b)

/-- FSCL.exp (Table 5-10). -/
def fexpOf (t : FloatFmt) (a : Nat) : Word × FlagSet :=
  match t.unpack a with
  | .fin _ m e => if m = 0 then (0x80000000#32, Flag.nv) else (BitVec.ofInt 32 ((Nat.log2 m : Int) + e), 0)
  | _ => (0x7FFFFFFF#32, Flag.nv)

/-- FSCL.mant (Table 5-10). -/
def fmantOf (t : FloatFmt) (a : Nat) : FRes :=
  match t.unpack a with
  | .nan s => ⟨t.qnan, Flag.when s Flag.nv⟩
  | .inf _ => ⟨a, 0⟩
  | .fin n m _ => if m = 0 then ⟨a, 0⟩ else t.round .rn false n m (-(Nat.log2 m : Int))

/-! ## Conversions -/

/-- Whether every value of `s` is a value of `d` (R145, Table 5-12). -/
def FloatFmt.holds (d s : FloatFmt) : Bool :=
  d == s || (d == .f64) || (d == .f32 && s != .f64)
  || (d == .f16 && (s == .e4m3 || s == .e5m2)) || (d == .bf16 && (s == .e4m3 || s == .e5m2))

/-- A conversion between floating-point formats (R145, R166, R167); `sat` and `ntz` apply to a narrowing one. -/
def convFloat (s d : FloatFmt) (mode : Rnd) (sat ntz : Bool) (x : Nat) : FRes :=
  let v := s.unpack x
  if d.holds s then d.pack mode false v
  else
    let r := d.pack mode sat v
    let isNan := match d.unpack r.bits with
      | .nan _ => true
      | _ => false
    if ntz && isNan then ⟨0, r.flags⟩ else r

/-- Float to integer (Table 5-12): always saturating. -/
def convToInt (s : FloatFmt) (d : Ty) (mode : Rnd) (x : Nat) : FRes :=
  let put (v : Int) : Nat := (putInt d (wrapInt d.width v)).toNat
  match s.unpack x with
  | .nan _ => ⟨0, Flag.nv⟩
  | .inf n => ⟨put (clampInt d.signed d.width (if n then -(2 ^ 64 : Nat) else (2 ^ 64 : Nat))), Flag.nv⟩
  | .fin n m e =>
    let (v, exact) := roundInt mode n m e
    let c := clampInt d.signed d.width v
    ⟨put c, if c = v then Flag.when (!exact) Flag.nx else Flag.nv⟩

/-- Integer to float (Table 5-12). -/
def convFromInt (s : Ty) (d : FloatFmt) (mode : Rnd) (sat : Bool) (x : DWord) : FRes :=
  let v := extInt s.signed s.width x
  d.round mode sat (v < 0) v.natAbs 0

/-- Integer to integer (Table 5-12): a wider type, or the type of the same width and signedness, only extends. -/
def convInt (s d : Ty) (sat : Bool) (x : DWord) : DWord :=
  let v := extInt s.signed s.width x
  let extends_ := decide (s.width < d.width) || (s.width == d.width && s.signed == d.signed)
  putInt d (wrapInt d.width (if sat && !extends_ then clampInt d.signed d.width v else v))

/-- CVT and SCVT (R111, R166): the source type, the destination type, and FMT's saturation and NaN-to-zero bits. -/
def convert (s d : Ty) (mode : Rnd) (sat : Bool) (fmt : BitVec 16) (x : DWord) : DWord × FlagSet :=
  let satN := sat || fmt.getLsbD 9
  let ntz := fmt.getLsbD 10
  let wrap (r : FRes) : DWord × FlagSet := (BitVec.ofNat 64 r.bits, r.flags)
  if s.isInt then
    if d.isInt then (convInt s d sat x, 0) else wrap (convFromInt s d.elem mode satN x)
  else if d.isInt then wrap (convToInt s.elem d mode (elemOf s x 0))
  else wrap (convFloat s.elem d.elem mode satN ntz (elemOf s x 0))

/-- CVTP (Table 5-13); `c` is zero when the C operand is absent. -/
def convertPacked (s d : Ty) (sel : Nat) (mode : Rnd) (sat : Bool) (fmt : BitVec 16) (a b c : DWord) : DWord × FlagSet :=
  let satN := sat || fmt.getLsbD 9
  let ntz := fmt.getLsbD 10
  let cv (x : Nat) : FRes := convFloat s.elem d.elem mode satN ntz x
  let keep (x : Nat) : FRes := ⟨x, 0⟩
  mapElems d fun i =>
    if s == .f32 then
      if d.elems = 2 then cv (elemOf s (if i = 0 then a else b) 0)
      else if i = 2 * sel then cv (elemOf s a 0)
      else if i = 2 * sel + 1 then cv (elemOf s b 0)
      else keep (elemOf d c i)
    else if d.elems = 4 then cv (if i < 2 then elemOf s a i else elemOf s b (i - 2))
    else if s.elems = 4 && d.elems = 2 then cv (elemOf s a (2 * sel + i))
    else if d.elems = 1 then cv (elemOf s a sel)
    else cv (elemOf s a i)

/-! ## Constants and immediates as floating-point operands -/

/-- Table 2-10b. -/
def fpConst (n : BitVec 4) : Nat :=
  [0x00000000, 0x3F800000, 0xBF800000, 0x3F000000, 0xBF000000, 0x40000000, 0xC0000000, 0x40800000,
   0xC0800000, 0x3E800000, 0x3F317218, 0x3FB8AA3B, 0x40490FDB, 0x3E22F983, 0x7F800000, 0xFF800000].getD n.toNat 0

/-- An FP32 constant read under a type: every element takes the converted value (R51). -/
def fpConstAs (t : Ty) (n : BitVec 4) : DWord :=
  packElems t (List.replicate t.elems (t.elem.pack .rn false (FloatFmt.f32.unpack (fpConst n))).bits)

/-- An integer constant read as a floating-point operand (R50); every element of a packed type takes it (log entry 22). -/
def intConstAs (t : Ty) (n : BitVec 6) : DWord :=
  packElems t (List.replicate t.elems (t.elem.round .rn false false n.toNat 0).bits)

/-- IMM32 standing for an operand (R54); a NaN is widened with its payload. -/
def immAs (t : Ty) (imm : Word) : DWord :=
  if t.isInt then immInt t imm
  else if t == .f64 then
    if imm.extractLsb' 23 8 = 0xFF#8 && imm.extractLsb' 0 23 ≠ 0#23 then
      imm.extractLsb' 31 1 ++ 0x7FF#11 ++ imm.extractLsb' 0 23 ++ 0#29
    else BitVec.ofNat 64 (FloatFmt.f64.pack .rn false (FloatFmt.f32.unpack imm.toNat)).bits
  else imm.setWidth 64

end Sys2Proof.Machine
end

