-- ==== Sys2Proof/Config.lean ====
section
/-! DEFINITION. What an implementation fixes and what the spec leaves open. A constant with no body is a free value:
no proof can learn a value of it (log entries 3, 4, 6, 7, 14, 17). -/

namespace Sys2Proof.Config

/-- What a transmit descriptor says (R424): where the frame stands and its length, an 802.1Q tag to be inserted, whether the checksums are to be
filled in, and whether the time of sending is wanted. -/
structure TxDescriptor where
  buf : Nat
  len : Nat
  vlan : Option (BitVec 16)
  checksums : Bool
  stamp : Bool
  deriving DecidableEq, Repr, Inhabited

/-- The free value drawn at a count (log entry 17). -/
opaque freeBits : Nat → BitVec 64
/-- The move that is made at a count when the schedule says nothing (log entry 3). -/
opaque turn : Nat → Turn
/-- Clocks of the fixed 2.5 GHz reference that pass before the step of a given count (R426; log entry 4). -/
opaque elapsed : Nat → Nat
/-- How far a core's local DTIME stands from the pod's, taken within ±4 ns (R28, R102; log entry 4). -/
opaque skew : Nat → Nat
/-- The table of XOR folds that the device kernel programs into H at boot: masks for the package index, the die and the slice (R23; log
entry 7). -/
opaque hash : List (BitVec 36) × List (BitVec 36) × List (BitVec 36)
/-- How a fold of H names one of the 24 L2 slices (R23; log entry 7). -/
opaque slice : Nat → Fin 24
/-- The result of FSFN function `fn` on an f32 value where R173 gives only a bound; the meaning keeps it inside the bound (log entry 6). -/
opaque special : Nat → BitVec 32 → BitVec 32
/-- The set of its slice that an L2 line falls in (R276; log entry 12). -/
opaque l2set : Nat → Nat
/-- Whether the switch that holds a reduction slot stands behind a package's gateway (R321; log entry 17). -/
opaque behind : Nat → Nat → Bool
/-- The package's serial number (Table 15-4; log entry 14). -/
opaque serial : BitVec 128
/-- The secret fused into the package (R428; log entry 14). -/
opaque fusedSecret : BitVec 256
/-- The identity key that the root of trust derives from the fused secret and M0 (R428; log entry 14). -/
opaque identityKey : BitVec 256 → BitVec 256 → BitVec 512
/-- The public key of an identity key (R428; log entry 14). -/
opaque publicKey : BitVec 512 → BitVec 256
/-- The certificate chain in SPI NOR that certifies the public key (R428; log entry 14). -/
opaque certificates : List (BitVec 8)
/-- Signature under an identity key over an attestation report's digest (R429; log entry 14). -/
opaque sign : BitVec 512 → List (BitVec 8) → List (BitVec 8)
/-- Unwrapping of a key that was wrapped under a key derived from an identity key (R430; log entry 14). -/
opaque unwrapKey : BitVec 512 → BitVec 512 → Option (BitVec 256)
/-- How a port reads a transmit descriptor, whose 64 bytes the spec does not lay out (R424; log entry 98). -/
opaque txDescriptor : List (BitVec 8) → TxDescriptor

end Sys2Proof.Config
end

