-- ==== Sys2Proof/Machine/GroupState.lean ====
section
/-! DEFINITION. The state of one group of 96 lanes (R28, R79, R373, R377, Table 13-5), as plain data. -/

namespace Sys2Proof.Machine

/-- A poison mark of a register lane (R213): the virtual address of the load that delivered it. S registers use lane 0. -/
structure Mark where
  /-- Register in the numbering of trailer entries: V0-V255, then 256 + n for Sn. -/
  reg : Nat
  lane : Nat
  va : DWord
  deriving DecidableEq, Repr

/-- What a temporary reads: the destination of an instruction of the stroke just after that instruction retired (R39). -/
inductive Temp where
  /-- The instruction writes no register or predicate, or its result is deferred. -/
  | none
  /-- A V destination, low half and high half of a pair in one value per lane. A mark's `reg` is 0 for the low register and 1 for the high one. -/
  | vec (lanes : List DWord) (marks : List Mark)
  | scal (v : DWord) (marks : List Mark)
  | pred (m : Mask)
  deriving DecidableEq, Repr

/-- What a tail instruction does when the trailer retires (R38). -/
inductive Tail where
  | none
  /-- A taken transfer whose target has been checked. -/
  | jump (target : DWord)
  /-- BRP with both lane sets of R88. -/
  | brp (t : Mask) (f : Mask) (target : DWord)
  | join
  | call (target : DWord)
  | ret
  /-- EXIT of these lanes (R99). -/
  | exit (x : Mask)
  | trap (code : BitVec 32)
  | yld (clocks : Nat)
  | kret
  /-- RGRP, or SRTK; the step it belongs to. -/
  | regroup (k : Nat)
  | tsus (mode : Nat) (block : Nat) (n : Nat)
  | tend (scope : Nat) (discard : Bool)
  /-- SWCX.arm of the issuing core, for a time (R396). -/
  | arm (t : Nat)
  deriving DecidableEq, Repr

/-- The stroke a group is in (R36): its decoded slots, the position of the next instruction, and T0 to T7. -/
structure Stroke where
  start : DWord
  slots : List Slot
  pos : Nat
  /-- Newest first, at most eight. -/
  temps : List Temp
  tail : Tail
  /-- The steps of R177 that the stroke has issued, with the PC of each. -/
  steps : List (Nat × DWord)
  deriving DecidableEq, Repr

/-- An entry of the reconvergence stack (Table 3-3). -/
structure StackEntry where
  fmt : BitVec 16
  rsv : BitVec 46
  kind : BitVec 2
  ppc : DWord
  pmask : Mask
  rmask : Mask
  deriving DecidableEq, Repr

/-- A write that a deferred result makes when it completes (R40). -/
inductive RegWrite where
  | v (reg : Nat) (lanes : Mask) (vals : List Word) (marks : List Mark)
  | s (reg : Nat) (val : Word) (marks : List Mark)
  deriving DecidableEq, Repr

/-- What produces a deferred result. -/
inductive DeferKind where
  | load | special | divide | cross | atomic | journal
  deriving DecidableEq, Repr

/-- A deferred result in flight (R40); its registers are busy in the scoreboard. -/
structure Deferred where
  id : Nat
  kind : DeferKind
  /-- Busy registers, in the numbering of trailer entries. -/
  regs : List Nat
  writes : List RegWrite
  flags : BitVec 7
  /-- Atomic operations in the store path that still have to be performed. -/
  waits : List Nat
  /-- The step of R177 whose completion supplies the result. -/
  step : Option Nat
  /-- Miss-status entries of the core that it holds until its data returns (R210). -/
  miss : Nat
  /-- The lanes of a load that another package answers: the package, and the mark that the lane takes where that package is lost (R321). -/
  far : List (Nat × Mark)
  deriving DecidableEq, Repr

/-- A load whose answer from a package is lost ends with those lanes poisoned (R213, R321). -/
def Deferred.loseFar (pkg : Nat) (d : Deferred) : Deferred :=
  let lost (reg : Nat) : List Mark := (d.far.filter (·.1 == pkg)).map fun x => { x.2 with reg := reg }
  { d with
    far := d.far.filter (·.1 != pkg)
    writes := d.writes.map fun w => match w with
      | .v reg lanes vals marks => .v reg lanes vals (marks ++ lost reg)
      | .s reg val marks => .s reg val (marks ++ lost (256 + reg)) }

/-- A group's contribution to a step (R179, R180, R183, R186, R192). -/
structure StepPost where
  k : Nat
  opc : BitVec 8
  sub : BitVec 8
  ty : Ty
  pc : DWord
  /-- Live lanes and execution mask at issue. -/
  live : Mask
  em : Mask
  /-- A (the source or key) in every lane. -/
  vals : List DWord
  /-- The predicate of VOTE, or the segment predicate of SCAN. -/
  preds : Mask
  sat : Bool
  /-- SRTK: V registers and predicates that move. -/
  vmask : BitVec 64
  pmask : BitVec 12
  /-- Destination and the values of NBR: offset, end mode and fill. -/
  d : Nat
  off : Int
  fill : List DWord
  /-- Poison marks of the source register. -/
  bad : List Mark
  /-- The result has been written, or the movement has been made. -/
  done : Bool
  /-- The step differs from the paired step of a neighbour that was live when the later of the two issued (R179). -/
  failed : Bool
  deriving DecidableEq, Repr

/-- An outstanding fence (R248). -/
structure Fence where
  token : Word
  scope : Nat
  kind : Nat
  mask : Nat
  /-- Writes in the store path that must be performed first. -/
  needs : List Nat
  /-- The packages that a hop scope reaches, as SCOPETAB gave them at issue; `none` for the other scopes (R232). -/
  hops : Option (BitVec 2304)
  /-- Its acquire part invalidates this core's L1: the scope is wider than the core and M holds pool (Table 8-2). -/
  clears : Bool
  deriving DecidableEq, Repr

/-- A group's place in an unnumbered barrier of one scope (R252). -/
structure BarArrival where
  /-- Arrived in the current phase. -/
  arrived : Bool
  phase : Nat
  /-- Accesses made before the arrival that R253 orders before the release. -/
  needs : List Nat
  /-- What the release of the last completed phase still waits for. -/
  release : List Nat
  /-- The PC of a BAR that has arrived and still waits (R247). -/
  at_ : Option DWord
  deriving DecidableEq, Repr

/-- A group's place in a numbered barrier: the phase of its latest arrival, and the PC of a BAR that still waits (R254). -/
structure NumArrival where
  phase : Option Nat
  at_ : Option DWord
  deriving DecidableEq, Repr

/-- Why a group is not ready (R83, R247). -/
inductive Wait where
  | ready
  /-- BAR at a scope, waiting for its phase. -/
  | bar (scope : Nat)
  /-- A numbered barrier, waiting for a phase to complete. -/
  | nbar (b : Nat)
  | fwt (token : Option Word)
  | fnc
  | wtctScr (off : Nat) (target : DWord)
  | wtctQ (q : Nat) (target : DWord)
  /-- Sleeping in WAITT until a time. -/
  | waitt (t : Nat)
  /-- Not ready after YLD until a time. -/
  | yld (t : Nat)
  | hlt
  | ewt (n : Nat)
  /-- An engine command that waits for EC below 32 (R311). -/
  | ec
  /-- An instruction that waits for its effects to be performed (TLBI, R395). -/
  | drain (ids : List Nat)
  /-- A trailer that waits for the neighbours' steps, or for a regrouping step to complete. -/
  | step
  /-- Waiting in TSPN, SLIN and the other engine forms for room. -/
  | room
  /-- Waiting for a journal answer. -/
  | journal
  | parked
  | suspended
  | halted
  | ended
  deriving DecidableEq, Repr

/-- What a group has still to do before its next stroke: the implicit join that its last stroke called for (R89, R449), or the
check of the slot it entered while the page of that slot was absent (R35, R374). -/
inductive Due where
  | nothing | join | entry
  deriving DecidableEq, Repr

/-- Where a group's registers are (R380, R389). -/
inductive Place where
  | core | shadow | frame
  deriving DecidableEq, Repr

/-- A group parked on a page fault (R212, R387). -/
structure Park where
  tag : BitVec 16
  npg : Nat
  replies : Nat
  pc : DWord
  replay : Bool
  lanes : Mask
  va : DWord
  tip : Bool
  /-- The page and the VADDR of each record posted under the tag, in order. -/
  pages : List Nat
  vas : List DWord
  /-- A failed reply's cause. -/
  fail : Option Nat
  deriving DecidableEq, Repr

/-- The hidden state that trap entry saves (R373). -/
structure Saved where
  em : Mask
  fmt : BitVec 16
  s56 : List Word
  depth : Nat
  /-- Poison marks of S56 to S59 (R213). -/
  marks : List Mark
  stroke : Option Stroke
  /-- The PC at which the trap was taken. -/
  pc : DWord
  deriving DecidableEq, Repr

/-- The trap state of a group (R373, R377, R378). -/
structure TrapState where
  tcause : Word
  tepc : DWord
  tval : DWord
  tlane : Mask
  mode : Bool
  pmode : Bool
  tip : Bool
  saved : Saved
  deriving DecidableEq, Repr

/-- An asynchronous error waiting to be delivered (R70, R299). -/
structure AsyncErr where
  cause : Nat
  tval : DWord
  /-- A fault of the group's sequencer, which a parked group takes when it becomes ready (R70). -/
  seq : Bool
  deriving DecidableEq, Repr

/-- What a launch gives its groups (R110, R411). -/
structure LaunchVals where
  launch : Nat
  /-- Groups of the workgroup at launch. -/
  groups : Nat
  coords : List Word
  grid : List Word
  karg : DWord
  vregs : Nat
  /-- The launch asked for co-residency (R251). -/
  coresident : Bool
  /-- The linked launch set, if any. -/
  linked : Option Nat
  /-- Retry count of tasks (R325), and the launch's pool split: register, scratchpad and L1 granules (R17). -/
  rc : Nat
  split : Nat × Nat × Nat
  /-- Groups start in supervisor mode (R371). -/
  super : Bool
  deriving DecidableEq, Repr

/-- The spaces a location lies in (R225). -/
inductive Space where
  | pool
  | peer (vuv : Nat)
  | io
  | scr (c : CoreId)
  | vlt (die : Nat) (v : Nat)
  | acc (c : CoreId)
  deriving DecidableEq, Repr

/-- A space's number; a byte of memory is keyed by `base × 2^64 + offset` (log entry 1). -/
def Space.base : Space → Nat
  | .pool => 0
  | .io => 1
  | .peer v => 2 + v
  | .scr c => 64 + 64 * c.die + c.core
  | .vlt d v => 1024 + 16 * d + v
  | .acc c => 2048 + 64 * c.die + c.core

/-- The key of a byte. -/
def Space.key (sp : Space) (off : Nat) : Nat := sp.base * 2 ^ 64 + off

/-- An entry of a task's write buffer (Table 11-2). -/
structure BufEntry where
  /-- 0 virtual sector, 1 vault sector, 2 atomic, 3 spawn, 4 record insert. -/
  kind : Nat
  /-- Owning lane in a stage task, otherwise 0xFF. -/
  lane : Nat
  stage : Nat
  set : Nat
  /-- Translated location of the sector or element, and the leaf's EMIT bit. -/
  space : Space
  off : Nat
  emit : Bool
  /-- The 64 bytes of a sector that are valid. -/
  bytes : List (Option Byte)
  /-- Atomic operation and type. -/
  op : Nat
  ty : Ty
  /-- Data of an atomic, or payload of a record. -/
  data : DWord
  /-- Parameters of a spawn. -/
  words : List Word
  /-- Whether the entry holds poisoned data (R335). -/
  bad : Bool
  /-- Whether it goes on with the sector of an earlier entry after an atomic on the same bytes, so that both are performed in the order
  of their instructions (R332); such an entry is no further entry of the 128. -/
  cont : Bool
  /-- Its entry of the side-effect area, once it is held there (R338, R343). -/
  slot : Option Nat
  deriving DecidableEq, Repr

/-- Entries that some buffered writes take (R330). -/
def BufEntry.count (es : List BufEntry) : Nat := (es.filter fun e => !e.cont).length

/-- A record of a Slalom set (R339). -/
structure Rec where
  seq : Word
  payload : DWord
  done : BitVec 16
  route : DWord
  /-- Held side effects in stage and entry order (R345). -/
  entries : List BufEntry
  /-- DTIME at which it entered its stage queue. -/
  since : Nat
  deriving DecidableEq, Repr

/-- What a stage task carries (R343): lane i holds record i of the batch. -/
structure StageRun where
  set : Nat
  stage : Nat
  recs : List Rec
  /-- Pass (`true`) or drop, by lane. -/
  outcome : List (Option Bool)
  /-- Replaced payloads, by lane. -/
  upd : List (Option DWord)
  deriving DecidableEq, Repr

/-- A group that runs a task (R325 to R336). -/
structure Task where
  id : Word
  entry : DWord
  arg : DWord
  lanes : Nat
  /-- Attempt number, and the retry count RC of the launch. -/
  attempt : Nat
  rc : Nat
  /-- Cores that earlier attempts used. -/
  used : List CoreId
  spawner : CoreId
  counter : Word
  buffer : List BufEntry
  stage : Option StageRun
  /-- Place of the task, or of its batch, in the order of spawning or of triggers (R326). -/
  born : Nat
  deriving DecidableEq, Repr

/-- One group (R28, R79). -/
structure Group where
  gid : Nat
  core : CoreId
  slot : Nat
  ctx : BitVec 32
  part : BitVec 8
  wid : Nat
  /-- GRP. -/
  grp : Nat
  /-- Core of its first placement, which fixes its barriers (R250). -/
  placed : CoreId
  place : Place
  launch : LaunchVals
  -- registers
  v : List (List Word)
  p : List Mask
  s : List Word
  em : Mask
  live : Mask
  thrd : List Word
  fmt : BitVec 16
  flags : BitVec 7
  marks : List Mark
  -- control
  pc : DWord
  stroke : Option Stroke
  /-- Entries held in the core, newest first. -/
  stack : List StackEntry
  /-- Entries spilled to the context frame (R86). -/
  spilled : Nat
  deferred : List Deferred
  trapState : TrapState
  /-- Pending-signal word while a signal is pending (R376). -/
  signal : Option Word
  async : List AsyncErr
  wait : Wait
  due : Due
  park : Option Park
  /-- Groups that must be selected first after YLD (R103). -/
  behind : List Nat
  /-- Selections that each issuer of the core has made since the group became ready (R84). -/
  passed : List Nat
  -- ordering
  fc : Word
  fd : Word
  fences : List Fence
  /-- Pool accesses of other groups of its core that an acquire has ordered before what the group does next (R235). -/
  seen : List Nat
  ec : Nat
  cstep : Nat
  posts : List StepPost
  /-- A value that a waiting instruction captured when it issued, with its PC (JTRN.sync, R369). -/
  captured : Option (DWord × Nat)
  /-- Unnumbered barriers, scopes 1 to 8 in order. -/
  bars : List BarArrival
  nbars : List NumArrival
  task : Option Task
  /-- Its saved state holds an uncorrectable word (R389). -/
  badSave : Bool
  /-- The group record of the context frame that holds its saved state (R212, R383; log entry 13). -/
  rec_ : Option Nat
  /-- Where its V registers stand in the register image of the frame (log entry 13). -/
  vbase : Option Nat
  deriving DecidableEq, Repr

/-- The register file of a group before any launch (log entry 9). -/
def Group.initial : Group where
  gid := 0
  core := ⟨0, 0⟩
  slot := 0
  ctx := 0
  part := 0
  wid := 0
  grp := 0
  placed := ⟨0, 0⟩
  place := .core
  launch := ⟨0, 1, [0, 0, 0], [0, 0, 0], 0, 16, false, Option.none, 0, (10, 16, 6), false⟩
  v := List.replicate 16 (List.replicate 96 0)
  p := List.replicate 12 0
  s := List.replicate 60 0
  em := 0
  live := 0
  thrd := List.replicate 96 0
  fmt := 0
  flags := 0
  marks := []
  pc := 0
  stroke := Option.none
  stack := []
  spilled := 0
  deferred := []
  trapState := ⟨0, 0, 0, 0, false, false, false, ⟨0, 0, [0, 0, 0, 0], 0, [], Option.none, 0⟩⟩
  signal := Option.none
  async := []
  wait := .ended
  due := .nothing
  park := Option.none
  behind := []
  passed := [0, 0]
  fc := 0
  fd := 0
  fences := []
  seen := []
  ec := 0
  cstep := 0
  posts := []
  captured := Option.none
  bars := List.replicate 8 ⟨false, 0, [], [], Option.none⟩
  nbars := List.replicate 16 ⟨Option.none, Option.none⟩
  task := Option.none
  badSave := false
  rec_ := Option.none
  vbase := Option.none

end Sys2Proof.Machine
end

