-- ==== Sys2Proof/Machine/CoreState.lean ====
section
/-! DEFINITION. The state of a workgroup with its Burin sequencer, of a matrix engine, of a core, and of the store path, as
plain data (R23, R200, R204 to R209, R230, R254, R260, R272, R379). -/

namespace Sys2Proof.Machine

/-! ## The store path -/

/-- Where a returning atomic's old value goes. -/
structure AtomRet where
  gid : Nat
  deferId : Nat
  reg : Nat
  lane : Nat
  wide : Bool
  scalar : Bool
  /-- The atomic's address, for a poison mark. -/
  va : DWord
  deriving DecidableEq, Repr

/-- What an access in the store path does when it is performed (R230, R241). -/
inductive Effect where
  | write (data : List Byte)
  /-- An atomic: the operation of Table 8-5, its type, data and compare value. -/
  | rmw (op : Nat) (ty : Ty) (data : DWord) (cmp : DWord) (ret : Option AtomRet)
  /-- An I/O write that has reached the PCIe ordering point and is not yet confirmed by the completion behind it (Table 8-1). -/
  | confirm
  deriving DecidableEq, Repr

/-- An access that the store path has accepted and that has not been performed (R209, R230, R233). -/
structure Pending where
  id : Nat
  core : CoreId
  gid : Nat
  space : Space
  off : Nat
  size : Nat
  effect : Effect
  /-- Fence tokens of its group that hold it back (R233); a held write is visible to its own group alone until it is performed. -/
  after : List Word
  /-- The context whose journal gate holds it, and the captured G (R360). -/
  gate : Option (BitVec 32 × Nat)
  /-- The miss-status entry that it keeps: its instruction, the beat and the sector (R210). -/
  entry : Option (Nat × Nat × Nat)
  deriving DecidableEq, Repr

/-! ## Translation -/

/-- A TLB entry (R204). -/
structure TlbEntry where
  part : Byte
  /-- `none` for a global entry. -/
  ctx : Option (BitVec 32)
  /-- Base virtual address and page size in bytes. -/
  va : Nat
  size : Nat
  leaf : DWord
  /-- Pool address of the leaf entry. -/
  at_ : Nat
  deriving DecidableEq, Repr

/-- A request to the walk scheduler of a die (R205): one page that an instruction, or the tile fetch unit, misses. -/
structure WalkReq where
  who : Walker
  part : Byte
  ctx : BitVec 32
  ptbase : DWord
  super : Bool
  /-- The instruction it belongs to: instructions are numbered in order of issue. -/
  instr : Nat
  /-- The 64 KiB page. -/
  page : Nat
  write : Bool
  /-- The translation is used, so that the walk sets A, and M for a write (R203). -/
  mark : Bool
  /-- The scheduler has chosen its instruction, and the walk is one of the 16 in flight. -/
  chosen : Bool
  started : Bool
  deriving DecidableEq, Repr

/-! ## Workgroups and sequencers -/

/-- A numbered barrier (R254). -/
structure NumBar where
  count : Nat
  expect : Nat
  /-- The sequencer has arrived in the current phase, and whether after an MWT. -/
  seq : Option Bool
  phase : Nat
  /-- Accesses made before the arrivals of the phase, and those that a completed phase's release waits for, by phase. -/
  needs : List Nat
  releases : List (Nat × List Nat)
  /-- The completed phases in which the sequencer arrived, and whether after an MWT. -/
  seqPhases : List (Nat × Bool)
  deriving DecidableEq, Repr

/-- Why a sequencer does not advance (Table 9-6, R261). -/
inductive SeqWait where
  | none
  | bwai (b : Nat)
  | ordy
  | mwt (sel : MwtSel)
  /-- A stalled fetch, or read, until the reply of a fault tag. -/
  | read (tag : BitVec 16) (fetch : Bool)
  | bendWait
  | ended
  /-- Stopped by a fault (R70). -/
  | faulted
  deriving DecidableEq, Repr

/-- A Burin sequencer context (Table 9-2). -/
structure Sequencer where
  ctxNo : Nat
  pc : DWord
  y : List DWord
  d : List (BitVec 1024)
  sflg : BitVec 7
  wait : SeqWait
  /-- Phase of the latest arrival at B0 to B15. -/
  arrivals : List (Option Nat)
  /-- An MWT has completed. -/
  waited : Bool
  /-- The entry slot has passed its TGT check (R260). -/
  entered : Bool
  deriving DecidableEq, Repr

/-- A workgroup (R20, Table 13-3, R389). -/
structure Workgroup where
  wid : Nat
  launch : Nat
  ctx : BitVec 32
  part : BitVec 8
  /-- Cores that hold its groups, in quad position order; one core for an ordinary workgroup. -/
  cores : List CoreId
  quadwg : Bool
  coords : List Word
  /-- Its groups in GRP order, ended ones included. -/
  members : List Nat
  /-- Groups on each core of a quad workgroup, in core order. -/
  split : List Nat
  /-- Core of the first group to start. -/
  first : CoreId
  nbars : List NumBar
  seq : Option Sequencer
  supervisor : Bool
  karg : DWord
  usesScratch : Bool
  deriving DecidableEq, Repr

/-- State of a reservation entry (Table 9-5). -/
inductive EngState where
  | waiting | eligible | running
  | faulted
  | preempted
  | done | aborted
  deriving DecidableEq, Repr

/-- A reservation table entry with its TSR copies (Tables 9-5 and 9-6). -/
structure EngEntry where
  age : Nat
  wid : Nat
  seqNo : Nat
  ctx : BitVec 32
  /-- 0 MMA, 1 MMZ, 2 ZIN, 3 ZOUT. -/
  op : Nat
  mode : MatMode
  zc : Nat
  zt : Nat
  m : Nat
  n : Nat
  k : Nat
  kdone : Nat
  state : EngState
  passed : Nat
  boost : Bool
  pri : Nat
  ftag : BitVec 16
  tsrA : BitVec 1024
  tsrB : BitVec 1024
  /-- PC of the posting instruction. -/
  pc : DWord
  /-- Every read of the operand region is finished (R280); for ZOUT, every write has entered its destination's path. -/
  opsDone : Bool
  /-- Operand bytes read so far, by key (R278). -/
  fetched : List (Nat × Byte)
  /-- ZOUT: conversion bits and the scale code. -/
  rnd : Nat
  satn : Bool
  ntz : Bool
  sce : Option Nat
  flags : BitVec 7
  /-- Fault recorded on an abort: sub-code, cause, address. -/
  err : Option (Nat × Nat × Nat)
  /-- Writes of a ZOUT in the store path. -/
  writes : List Nat
  deriving DecidableEq, Repr

/-- A pinned L2 line (R276). -/
structure Pin where
  line : Nat
  age : Nat
  ctx : BitVec 32
  /-- The virtual line that the pass reads there. -/
  vline : Nat
  deriving DecidableEq, Repr

/-- One quad's matrix engine (R257, R272). -/
structure Engine where
  quad : QuadId
  entries : List EngEntry
  age : Nat
  pins : List Pin
  /-- Lines that were fetched unpinned and that their pass has not consumed (R276). -/
  loose : List Pin
  /-- Operations of contexts that are switched out (R282). -/
  saved : List EngEntry
  /-- The walk-ahead TLB of its tile fetch unit (R275). -/
  tlb : List TlbEntry
  deriving DecidableEq, Repr

/-! ## Cores -/

/-- An issuer (R82): the group it holds, and the slot it took last. -/
structure Issuer where
  group : Option Nat
  last : Nat
  deriving DecidableEq, Repr

/-- Split of the SRAM pool in granules (R17). -/
structure Split where
  regs : Nat
  scr : Nat
  l1 : Nat
  deriving DecidableEq, Repr

/-- Whether a core holds a logical number in use (R15, R389). -/
inductive CoreStatus where
  | live | fenced
  deriving DecidableEq, Repr

/-- Shadow bank and swap state of a core (R379 to R382). -/
inductive SwapState where
  | idle | loading | loaded | failed
  deriving DecidableEq, Repr

/-- An engine error log entry (R397). -/
structure ErrEntry where
  w0 : DWord
  w1 : DWord
  w2 : DWord
  deriving DecidableEq, Repr

/-- The engine error log of a context on a core (R397): a ring of 64 entries, and the entries written. -/
structure ErrLog where
  ctx : BitVec 32
  entries : List ErrEntry
  count : Nat
  deriving DecidableEq, Repr

/-- The CSRs of a core, held in the frame header of a context that is out (R377, Table 13-4). -/
structure CtxRegs where
  ctx : BitVec 32
  part : BitVec 8
  ptbase : DWord
  tvb : DWord
  scopetab : DWord
  /-- The hop table cached at the last SCOPETAB write: six bitmaps of 2,304 bits. -/
  hops : List (BitVec 2304)
  deriving DecidableEq, Repr

/-- The swap machinery of a core (R379 to R382). -/
structure SwapUnit where
  load : SwapState
  failCode : Nat
  incoming : Option CtxRegs
  /-- Frame address of the incoming context's core frame. -/
  frame : Nat
  armed : Option Nat
  /-- The outgoing context stopped issue and waits for the load (R382). -/
  late : Bool
  spilling : Option (BitVec 32)
  /-- Scratchpad granules of 64 KiB and tiles still to be exchanged (R381): false for a granule, true for a tile. -/
  exchange : List (Bool × Nat)
  /-- The context the granules are exchanged out for. -/
  outgoing : BitVec 32
  deriving DecidableEq, Repr

end Sys2Proof.Machine
end

