-- ==== Sys2Proof/Machine/FabricState.lean ====
section
/-! DEFINITION. The state of stream queues, of copy and fabric commands, of reduction slots and of links, as plain data
(R300 to R323). -/

namespace Sys2Proof.Machine

/-- A subscription (R302). -/
structure Subscription where
  base : DWord
  rowBytes : Nat
  rows : Nat
  stride : Int
  /-- Stream offset of its first byte. -/
  start : Nat
  /-- Made by a group in supervisor mode, whose privilege its accesses have. -/
  super : Bool
  deriving DecidableEq, Repr

/-- STATE of a queue (Table 10-3). -/
inductive QueueState where
  | unconfigured | load | store | error
  deriving DecidableEq, Repr

/-- A stream queue of a context on a core (Table 10-3). -/
structure Queue where
  core : CoreId
  ctx : BitVec 32
  q : Nat
  state : QueueState
  /-- The direction an errored queue had. -/
  wasLoad : Bool
  wp : Nat
  gp : Nat
  send : Nat
  err : Nat
  eaddr : Nat
  rb : Nat
  ss : Nat
  ns : Nat
  subs : List Subscription
  /-- Rows finished in the oldest pending subscription. -/
  rowd : Nat
  /-- Sectors written beyond WP, by stream offset; for a store queue, with the writes still in the store path. -/
  ahead : List (Nat × List Nat)
  /-- Outstanding fault tag. -/
  tag : Option (BitVec 16)
  /-- The launch whose group configured it (R416). -/
  owner : Nat
  deriving DecidableEq, Repr

/-- The queue of a context that has configured nothing. -/
def Queue.initial (core : CoreId) (ctx : BitVec 32) (q : Nat) : Queue where
  core := core
  ctx := ctx
  q := q
  state := .unconfigured
  wasLoad := true
  wp := 0
  gp := 0
  send := 0
  err := 0
  eaddr := 0
  rb := 0
  ss := 0
  ns := 0
  subs := []
  rowd := 0
  ahead := []
  tag := Option.none
  owner := 0

/-- What an engine command does (R308, R309, R314, R317). -/
inductive CommandKind where
  | copy (src : Nat) (srcSpace : Nat) (dst : Nat) (dstSpace : Nat) (len : Nat)
  | copyT (src : BitVec 1024) (dst : BitVec 1024)
  | put (off : Nat) (len : Nat) (pkg : Nat) (dest : CoreId) (roff : Nat) (rcnt : BitVec 32)
  | get (roff : Nat) (len : Nat) (pkg : Nat) (from_ : CoreId) (off : Nat)
  | red (slot : Nat) (index : Nat) (round : Nat) (off : Nat) (res : Nat) (deadline : Nat) (n : Nat) (op : Nat) (f32 : Bool)
  deriving DecidableEq, Repr

/-- An engine command that has not ended (R311). -/
structure Command where
  id : Nat
  gid : Nat
  ctx : BitVec 32
  part : BitVec 8
  core : CoreId
  /-- Issued in supervisor mode, whose privilege its accesses have. -/
  super : Bool
  /-- PC of the issuing instruction. -/
  pc : DWord
  kind : CommandKind
  /-- Counter offset in the local scratchpad, 0xFFFF_FFFF for none. -/
  counter : BitVec 32
  /-- Bytes copied or received so far. -/
  progress : Nat
  written : Nat
  /-- EC has already been lowered for it; for XGET, its request has been sent. -/
  local_ : Bool
  /-- XRED: the contribution read. -/
  payload : List Byte
  tag : Option (BitVec 16)
  /-- Writes in the store path that must be performed first. -/
  writes : List Nat
  /-- Every byte has been moved. -/
  moved : Bool
  deriving DecidableEq, Repr

/-- What a gateway has sent towards a core of this package and has not arrived (R316): a packet or a get request. -/
structure Flight where
  srcDie : Nat
  pkt : FabricPacket ⊕ GetRequest
  /-- The command of this package it belongs to. -/
  cmd : Option Nat
  deriving DecidableEq, Repr

/-- What leaves the package for another one (log entry 2). -/
inductive Outbound where
  | packet (pkg : Nat) (p : FabricPacket)
  | get (pkg : Nat) (r : GetRequest)
  | signal (pkg : Nat) (die : Nat) (core : Nat) (slot : Nat) (ctx : BitVec 32) (value : Word)
  /-- Another message between packages (log entry 96). -/
  | notice (pkg : Nat) (from_ : Stamp) (n : Notice)
  /-- Records for the partner's die of the stream's number, with the stream's JT (Table 12-2, log entry 37). -/
  | journal (pkg : Nat) (die : Nat) (from_ : Stamp) (ctx : BitVec 32) (jt : Nat) (first : Nat) (recs : List JRec)
  | journalAck (pkg : Nat) (die : Nat) (from_ : Stamp) (ctx : BitVec 32) (upto : Nat)
  | journalTruncate (pkg : Nat) (die : Nat) (from_ : Stamp) (ctx : BitVec 32) (jt : Nat)
  /-- To the holder: the stream that was lost, its new owner's die and context, and the first index wanted. -/
  | journalFetch (pkg : Nat) (from_ : Stamp) (spkg : Nat) (sdie : Nat) (sctx : BitVec 32) (rdie : Nat) (nctx : BitVec 32) (first : Nat)
  | journalRecords (pkg : Nat) (die : Nat) (from_ : Stamp) (ctx : BitVec 32) (first : Nat) (recs : List JRec)
  | reduction (pkg : Nat) (from_ : Stamp) (tag : Nat) (slot : Nat) (index : Nat) (data : List Byte)
  /-- The answer of this package to a request with a tag: a sub-code, 0 for none, with its underlying cause and failing address, and data
  (R298, R314). -/
  | answer (pkg : Nat) (from_ : Stamp) (tag : Nat) (code : Nat) (cause : Nat) (addr : Nat) (data : List Byte)
  /-- A flit goes onto a link, for the first time or from the replay buffer, under the key generation of its first transmission: its header
  and segments 1 to 9 (R322, R323). -/
  | flit (port : Nat) (head : BitVec 512) (segs : List (BitVec 512))
  | contribution (c : Contribution)
  /-- An Ethernet frame, with DTIME of its sending where its descriptor asks for a timestamp (R424). -/
  | frame (port : Nat) (bytes : List Byte) (stamp : Option Nat)
  /-- Transactions of aperture 0b10: a write, a read, and an AtomicOp (R206, R242). -/
  | ioWrite (addr : Nat) (data : List Byte)
  | ioRead (addr : Nat) (size : Nat)
  | ioAtomic (addr : Nat) (op : Nat) (ty : Ty) (data : DWord) (cmp : DWord)
  /-- The two messages of a notification bit that rises: the interrupt, and MSI-X on its vector (R423). -/
  | interrupt (bit : Nat)
  | msix (vector : Nat)
  | report (bytes : List Byte)
  /-- The answer to a host access (R420). -/
  | completion (bytes : List Byte)
  /-- A launch window store to another package (R421). -/
  | window (pkg : Nat) (slot : Nat) (packet : BitVec 512)
  /-- A workgroup of a launch for another package (R418, R419). -/
  | share (pkg : Nat) (x : Share)
  /-- Workgroups of another package's launch have ended here (R410). -/
  | ended (pkg : Nat) (lid : Nat) (n : Nat)
  deriving DecidableEq, Repr

/-- A reduction slot of a switch (R317 to R320). -/
structure RedSlot where
  slot : Nat
  ctx : BitVec 32
  op : Nat
  f32 : Bool
  n : Nat
  expected : BitVec 64
  round : Byte
  open_ : Bool
  bitmap : BitVec 64
  deadline : Nat
  /-- Accepted contributions of the open round. -/
  contribs : List Contribution
  /-- Bitmap and status of the latest closed round. -/
  lastBitmap : BitVec 64
  lastStatus : DWord
  dups : Nat
  deriving DecidableEq, Repr

/-- A reduction result on its way to a contributor (R320). -/
structure RedResult where
  cmd : Nat
  data : List Byte
  /-- The round closed without it, so the data area is not written. -/
  late : Bool
  deriving DecidableEq, Repr

/-- A packet whose segments a link is receiving (R322): its header segment, whether a response, and the data segments so far. -/
structure Partial where
  head : BitVec 512
  response : Bool
  data : List (BitVec 512)
  deriving DecidableEq, Repr

/-- A flit of a replay buffer: its number, the key generation of its first transmission, and the segments 1 to 9 that are in use, each with its
entry of the segment map (R322, R323). -/
structure TxFlit where
  fseq : BitVec 16
  kg : Bool
  segs : List (Nat × BitVec 512)
  deriving DecidableEq, Repr

/-- A Keloma link of the package (R13, R322, R323): ports 4d to 4d + 3 are die d's, those of die 8 the host die's. -/
structure Link where
  port : Nat
  /-- Keys of the two generations. -/
  keys : List (Option (BitVec 256))
  gen : Bool
  /-- Sequence number of the next flit expected, and of the next to be sent. -/
  rxNext : BitVec 16
  txNext : BitVec 16
  /-- Segments of packets that wait for a flit, in send order, with their entry of the segment map. -/
  txSegs : List (Nat × BitVec 512)
  /-- The replay buffer: flits sent and not yet acknowledged. -/
  unacked : List TxFlit
  /-- The packet that continues in the next flit. -/
  part : Option Partial
  failures : Nat
  retrains : Nat
  /-- A rotation was refused because the old key is still needed. -/
  refused : Bool
  deriving DecidableEq, Repr

def Link.initial (port : Nat) : Link := ⟨port, [Option.none, Option.none], false, 0, 0, [], [], Option.none, 0, 0, false⟩

/-- What this package owes another one once some accesses are performed: the answer to its TLBI, or its marker (R395, R416). -/
structure FarWait where
  pkg : Nat
  reply : Notice
  needs : List Nat
  deriving DecidableEq, Repr

/-- The fabric side of the package. -/
structure Fabric where
  queues : List Queue
  commands : List Command
  flight : List Flight
  outbound : List Outbound
  /-- Traffic that waits for a link whose key is loaded (R323). -/
  held : List Outbound
  slots : List RedSlot
  results : List RedResult
  links : List Link
  /-- Peer table: package number and incarnation (R321). -/
  peers : List (Nat × BitVec 16)
  incarnation : BitVec 16
  /-- Stale-traffic counters of gateways 0 to 8. -/
  stale : List Nat
  /-- TLBIs of this package that other packages have not answered: identifier and package (R395). -/
  tlbis : List (Nat × Nat)
  /-- What this package will answer others. -/
  farWaits : List FarWait
  deriving DecidableEq, Repr

/-- The fabric after reset: the 36 Keloma ports of Table 1-1, with no key. -/
def Fabric.reset : Fabric :=
  ⟨[], [], [], [], [], [], [], (List.range 36).map Link.initial, [], 0, List.replicate 9 0, [], []⟩

end Sys2Proof.Machine
end

