-- ==== Sys2Proof/Machine/TaskState.lean ====
section
/-! DEFINITION. The state of a die's task unit, of its Slalom sets and of its journal unit, as plain data (R325 to R346,
R356 to R364). -/

namespace Sys2Proof.Machine

/-! ## Tasks -/

/-- A spawned task that waits to start (R325, R348). -/
structure Spawn where
  id : Word
  entry : DWord
  arg : DWord
  lanes : Nat
  spawner : CoreId
  counter : Word
  attempt : Nat
  used : List CoreId
  vals : LaunchVals
  part : BitVec 8
  /-- Place in the order of spawning (R326). -/
  born : Nat
  deriving DecidableEq, Repr

/-- A stage batch that waits to start (R341). -/
structure Batch where
  id : Word
  set : Nat
  stage : Nat
  recs : List Rec
  attempt : Nat
  used : List CoreId
  vals : LaunchVals
  part : BitVec 8
  /-- Place in the order of triggers (R326). -/
  born : Nat
  deriving DecidableEq, Repr

/-- A continuation record in use (R333). The suspended group keeps what the record holds. -/
structure Contin where
  slot : Nat
  gid : Nat
  /-- 0 .cmd, 1 .scr, 2 .vlt. -/
  kind : Nat
  waddr : Nat
  target : DWord
  pin : Bool
  pcore : CoreId
  nv : Nat
  ready : Bool
  deriving DecidableEq, Repr

/-- The completion addition of a task, made once its commit is performed (R332, R350). -/
structure Completion where
  needs : List Nat
  core : CoreId
  ctx : BitVec 32
  counter : Word
  deriving DecidableEq, Repr

/-! ## Slalom sets -/

/-- A stage of a set (Table 11-6) with its weight, window counts and queue (R338, R342). -/
structure Stage where
  entry : DWord
  sec : Nat
  cost : Nat
  w : Nat
  e : Nat
  p : Nat
  c : Nat
  ran : Bool
  queue : List Rec
  deriving DecidableEq, Repr

/-- A finished record whose output entry has not been written (R339, R345). -/
structure Finished where
  rec_ : Rec
  passed : Bool
  noout : Bool
  dstg : Nat
  /-- Accesses of its committed entries of class 0 and 1; `none` before that commit. -/
  commit : Option (List Nat)
  /-- Accesses of its committed entries of class 2; `none` before its turn. -/
  late : Option (List Nat)
  /-- The output entry in the store path; `none` before it is written. -/
  out : Option (List Nat)
  /-- Outstanding fault tag of the output write. -/
  tag : Option (BitVec 16)
  dropOut : Bool
  deriving DecidableEq, Repr

/-- An installed Slalom set (R337, R338). -/
structure SlalomSet where
  k : Nat
  owner : CoreId
  stages : List Stage
  age : Nat
  maxrec : Nat
  win : Nat
  logout : Nat
  ocnt : Word
  secap : Nat
  sebase : DWord
  outbase : DWord
  /-- Lottery state. -/
  x : DWord
  /-- Next sequence number. -/
  next : Word
  closed : Bool
  pinned : Option (List Nat)
  /-- Records finished in the current window, and windows closed. -/
  f : Nat
  windows : Nat
  passed : Nat
  dropped : Nat
  noout : Nat
  /-- Records whose output entry and counter addition have been made, or dropped. -/
  outputs : Nat
  retried : Nat
  finishing : List Finished
  vals : LaunchVals
  part : BitVec 8
  deriving DecidableEq, Repr

/-- What the task unit of a die holds for a context (R325). -/
structure TaskUnit where
  die : Nat
  ctx : BitVec 32
  /-- Next task identifier of each launch (R327). -/
  ids : List (Nat × Word)
  spawned : List Spawn
  batches : List Batch
  contins : List Contin
  completions : List Completion
  /-- Task area: pool address and slots (R401). -/
  areaBase : Nat
  areaSlots : Nat
  sets : List SlalomSet
  deriving DecidableEq, Repr

/-- A context for which nothing is set up. -/
def TaskUnit.initial (die : Nat) (ctx : BitVec 32) : TaskUnit := ⟨die, ctx, [], [], [], [], [], 0, 0, []⟩

/-! ## Journal -/

/-- A replay in progress (R364): holder, source package, source die and source context. -/
structure Replay where
  holder : Nat
  spkg : Nat
  sdie : Nat
  sctx : BitVec 32
  deriving DecidableEq, Repr

/-- A journal stream (R356). -/
structure Stream where
  die : Nat
  ctx : BitVec 32
  lcap : Nat
  base : Nat
  partner : Nat
  ji : Nat
  ja : Nat
  jt : Nat
  /-- Records JT to JI - 1. -/
  recs : List JRec
  /-- First record not yet sent to the current partner, and DTIME of the last sending of each record of the window before it. -/
  sent : Nat
  sentAt : List Nat
  disagree : Nat
  replayDisagree : Nat
  resends : Nat
  replay : Option Replay
  /-- The group, and the PC, that asked for the latest replay, until it has had its answer (R369). -/
  asker : Option (Nat × DWord)
  deriving DecidableEq, Repr

/-- Records hosted for a stream of another package, in one incarnation of it (R321, R362). -/
structure Hosted where
  inc : BitVec 16
  spkg : Nat
  sdie : Nat
  ctx : BitVec 32
  first : Nat
  recs : List JRec
  deriving DecidableEq, Repr

/-- A die's hosting ring (R362). -/
structure HostRing where
  die : Nat
  lcap : Nat
  base : Nat
  hosted : List Hosted
  deriving DecidableEq, Repr

end Sys2Proof.Machine
end

