-- ==== Sys2Proof/Machine/HostState.lean ====
section
/-! DEFINITION. The state of the host die: queues and launches, leases, boot and measurement, time, the endpoint and the lifetime
record, as plain data (R403 to R434). -/

namespace Sys2Proof.Machine

/-- A dispatched packet that has not completed (R405, R410). -/
structure InFlight where
  idx : Nat
  sigop : Nat
  sigaddr : DWord
  sigval : DWord
  /-- The launch that has to complete; `none` for a packet that waits for earlier packets only. -/
  launch : Option Nat
  done : Bool
  /-- The completion signal, in the store path (R410). -/
  write : Option Nat
  deriving DecidableEq, Repr

/-- STATE of a queue record (Table 14-1). -/
inductive RecState where
  | registered | mapped | error | resetting | resetDone
  deriving DecidableEq, Repr

/-- A queue that firmware knows, with what a queue engine holds while it is mapped (R403, R406, R407, R413). The hardware fields are
written through to the record in pool memory. -/
structure HostQueue where
  /-- Pool address of the record. -/
  rec_ : Nat
  wiaddr : DWord
  ring : DWord
  ctx : BitVec 32
  qtag : BitVec 16
  log2n : Nat
  kq : Bool
  pri : Nat
  ci : Nat
  ri : Nat
  state : RecState
  err : Nat
  drops : Nat
  /-- The queue engine slot. -/
  slot : Option Nat
  /-- The cached write index. -/
  wic : Nat
  /-- Scan interval in nanoseconds, and DTIME of the next read of WI. -/
  interval : Nat
  next : Nat
  /-- A window store that was accepted for packet RI and has not been dispatched. -/
  inline_ : Option (BitVec 512)
  flights : List InFlight
  /-- A reset that waits for other packages: those whose markers have not come back, by launch; the accesses here that it waits for; and the kernel queue and index of its control packet (R416). -/
  quiesce : List (Nat × Nat)
  drains : List Nat
  resetter : Nat × Nat
  deriving DecidableEq, Repr

/-- A workgroup that waits for a place (R417, R418): its linear index, the quad it prefers, and the core it must have. -/
structure PendWg where
  w : Nat
  pref : Option Nat
  named : Option Nat
  deriving DecidableEq, Repr

/-- A packet (Table 14-2), and a kernel descriptor (Table 14-3). -/
abbrev Packet := BitVec 512
abbrev Desc := BitVec 2048

/-- A launch that has been dispatched and has not completed (R410, R417, R418). -/
structure Launch where
  lid : Nat
  rec_ : Nat
  idx : Nat
  ctx : BitVec 32
  part : BitVec 8
  packet : Packet
  desc : Desc
  /-- Pending workgroups of each die of the package, in ascending linear index. -/
  pending : List (Nat × List PendWg)
  /-- A co-resident launch has been given places for its whole grid (R418). -/
  placed : Bool
  /-- A share of another package's launch: that package, and the launch there; how many of its workgroups this package has (R418). -/
  origin : Option (Nat × Nat)
  took : Nat
  /-- Workgroups of an own launch that other packages have and that have not ended. -/
  away : Nat
  /-- Cores that drain for it, or that a co-resident launch has reserved: nothing else is placed there (R17, R418). -/
  drain : List CoreId
  /-- A co-resident launch: its share here has its places; other packages have reported theirs, by package; and the whole grid has its places. -/
  reserved : Bool
  heard : List (Nat × Nat)
  go : Bool
  deriving DecidableEq, Repr

/-- A linked launch set of the pod (R410): how many of its launches this package has told others to stand at the heads of its queues, what others
have told, and how many of this package's are still to be dispatched once the set is complete. -/
structure LinkedSet where
  set : Nat
  told : Nat
  theirs : List (Nat × Nat)
  go : Nat
  deriving DecidableEq, Repr

/-- A firmware lease (R414, R434). -/
structure Lease where
  kind : LeaseKind
  holder : Nat
  epoch : Nat
  expiry : Nat
  deriving DecidableEq, Repr

/-- How far the package has come up (R427). -/
inductive BootState where
  | waiting | running | halted
  deriving DecidableEq, Repr

/-- An installed partition key (R430): `keloma` tells the payload key from the HBM key. -/
structure KeyRec where
  part : Byte
  keloma : Bool
  key : BitVec 256
  deriving DecidableEq, Repr

/-- A counter of the lifetime record counts up by `n` and saturates (R431). -/
def saturated (x n : Nat) : Nat := min (x + n) (2 ^ 64 - 1)

/-- The counters of Table 15-5, of 64 bits; hours are kept in nanoseconds of DTIME (log entry 21). -/
structure LifeCounters where
  /-- Per die, time in the 16 bins of junction temperature. -/
  temp : List (List Nat)
  /-- Per die, time in the 16 bins of core-rail voltage. -/
  volt : List (List Nat)
  droops : List Nat
  /-- Corrected errors of a source; a source that is not listed has none. -/
  corrected : List (Nat × Nat)
  fenced : Nat
  /-- The last 64 fences, newest first: core, code, DTIME. -/
  fences : List (CoreId × Nat × Nat)
  /-- Retrains of a port. -/
  retrains : List (Nat × Nat)
  onTime : Nat
  cycles : Nat
  throttleTime : Nat
  deriving DecidableEq, Repr

def LifeCounters.zero : LifeCounters where
  temp := List.replicate 9 (List.replicate 16 0)
  volt := List.replicate 9 (List.replicate 16 0)
  droops := List.replicate 9 0
  corrected := []
  fenced := 0
  fences := []
  retrains := []
  onTime := 0
  cycles := 0
  throttleTime := 0

/-- The host die. -/
structure HostState where
  queues : List HostQueue
  launches : List Launch
  /-- Linked launch sets that are coming together (R410). -/
  linked : List LinkedSet
  /-- Queue records that a new package leader has unmapped and will map again (R414). -/
  remap : List Nat
  leases : List Lease
  /-- The newest lease epoch that the queue hardware has accepted (R413). -/
  maxEpoch : Nat
  powered : Bool
  boot : BootState
  /-- Status code of a boot that a failing stage has halted (R427). -/
  bootStatus : Option DWord
  /-- The identity key of this boot, which the root of trust alone holds (R428). -/
  identity : Option (BitVec 512)
  /-- M0 to M7 (Table 15-3). -/
  m : List (BitVec 256)
  /-- Fused security versions, by stage, and the fused lifecycle state. -/
  fuses : List Nat
  lifecycle : Byte
  /-- The package is pod master (R426). -/
  master : Bool
  /-- DTIME has had the tree's value since reset: it has been stepped to it, or is the master's (R426). -/
  stepped : Bool
  lastExchange : Nat
  /-- The latest PTP time a master was given. -/
  ptp : Option Nat
  /-- How far the time that the package follows is ahead of DTIME, in parts of 50,000 of a nanosecond; slewing makes it good (R426). -/
  lead : Int
  /-- IEEE 1588 timestamp of the latest frame received on each Ethernet port (R424). -/
  rxStamps : List (Nat × Nat)
  /-- Base and partition of the BAR2 aperture (R422). -/
  aperture : Nat × Byte
  pcieDown : Bool
  /-- Non-returning operations that a completer has rejected (R242). -/
  pcieErrors : Nat
  keys : List KeyRec
  /-- Throttle steps of 100 MHz, and DTIME up to which throttled time has been counted. -/
  throttle : Nat
  throttleAt : Nat
  /-- Counters since power-on, those in flash, and DTIME of the latest save. -/
  life : LifeCounters
  flash : LifeCounters
  savedAt : Nat
  /-- DTIME up to which the counters of hours count. -/
  countedAt : Nat
  deriving DecidableEq, Repr

def HostState.reset : HostState where
  queues := []
  launches := []
  linked := []
  remap := []
  leases := [⟨.package, 0, 0, 0⟩, ⟨.vuvosum, 0, 0, 0⟩, ⟨.kernel, 0, 0, 0⟩]
  maxEpoch := 0
  powered := true
  boot := .waiting
  bootStatus := Option.none
  identity := Option.none
  m := List.replicate 8 0
  fuses := List.replicate 8 0
  lifecycle := 0
  master := false
  stepped := false
  lastExchange := 0
  ptp := Option.none
  lead := 0
  rxStamps := []
  aperture := (0, 0)
  pcieDown := false
  pcieErrors := 0
  keys := []
  throttle := 0
  throttleAt := 0
  life := LifeCounters.zero
  flash := LifeCounters.zero
  savedAt := 0
  countedAt := 0

end Sys2Proof.Machine
end

