-- ==== Sys2Proof/Machine/State.lean ====
section
/-! DEFINITION. The whole machine as plain data, and the machine after reset (R28, log entries 2, 3, 9, 16). -/

namespace Sys2Proof.Machine

/-- Why the machine stops. `poweredOff`: the package has no power (R431, R432); raised by a step after POWER_LOSS,
THERMAL_SHUTDOWN or ORDERLY_POWER_DOWN until PACKAGE_RESET; safe. -/
inductive Fault where
  | poweredOff
  deriving DecidableEq, Repr

/-- Why a step has no meaning. `notModelled`: an instruction the model gives no meaning; safe. -/
inductive Refusal where
  | notModelled (mnemonic : String)
  deriving DecidableEq, Repr

/-- One logical core (R16). -/
structure Core where
  id : CoreId
  regs : CtxRegs
  split : Split
  tlb : List TlbEntry
  /-- Valid L1 sectors: pool address divided by 64, and the 64 bytes. -/
  l1 : List (Nat × List Byte)
  issuers : List Issuer
  swap : SwapUnit
  errLogs : List ErrLog
  status : CoreStatus
  deriving DecidableEq, Repr

/-- A core after reset, with the default split of R17. -/
def Core.reset (id : CoreId) : Core where
  id := id
  regs := ⟨0, 0, 0, 0, 0, List.replicate 6 0⟩
  split := ⟨10, 16, 6⟩
  tlb := []
  l1 := []
  issuers := [⟨none, 0⟩, ⟨none, 0⟩]
  swap := ⟨.idle, 0, none, 0, none, false, none, [], 0⟩
  errLogs := []
  status := .live

/-- Who waits for the replies of a fault tag (R387). -/
inductive TagOwner where
  | group (gid : Nat)
  | queue (core : CoreId) (q : Nat)
  | command (id : Nat)
  | engine (quad : QuadId) (age : Nat)
  | sequencer (wid : Nat)
  | slalom (die : Nat) (ctx : BitVec 32) (set : Nat)
  deriving DecidableEq, Repr

/-- An outstanding fault tag of a die (R387). -/
structure FaultTag where
  tag : BitVec 16
  ctx : BitVec 32
  core : Nat
  owner : TagOwner
  npg : Nat
  replies : Nat
  /-- VADDR of its first record. -/
  va : Nat
  /-- Status of the latest reply. -/
  status : Nat
  /-- The tag has been answered while its context is out: its entry stands in the pending fault table until the restore. -/
  answered : Bool
  deriving DecidableEq, Repr

/-- A FLTR reply on its way to its die (R387, R398). -/
structure FaultReply where
  ctx : BitVec 32
  die : Nat
  tag : BitVec 16
  status : BitVec 4
  cause : Byte
  k : Nat
  deriving DecidableEq, Repr

/-- One compute die. -/
structure Die where
  num : Nat
  /-- Partition that owns each vault (R390). -/
  vaults : List (Option Byte)
  /-- L2 ways of each partition, and the partition that each way was last set for. -/
  ways : List (Byte × BitVec 16)
  wayOwners : List (Option Byte)
  /-- Pin quota of each context, in lines per slice. -/
  pinq : List (BitVec 32 × Nat)
  strict : Bool
  /-- Machine-check records of 256 bits, oldest first. -/
  mcLog : List (BitVec 256)
  streaming : List (BitVec 32 × Nat)
  droppedReplies : Nat
  droppedSignals : Nat
  lateSwaps : Nat
  spares : Nat
  /-- Frame base of each context (R383). -/
  frames : List (BitVec 32 × Nat)
  tags : List FaultTag
  nextTag : Nat
  /-- Requests of the walk scheduler, oldest first (R205). -/
  walks : List WalkReq
  deriving DecidableEq, Repr

def Die.reset (num : Nat) : Die where
  num := num
  vaults := List.replicate 12 none
  ways := []
  wayOwners := List.replicate 16 none
  pinq := []
  strict := false
  mcLog := []
  streaming := []
  droppedReplies := 0
  droppedSignals := 0
  lateSwaps := 0
  spares := 2
  frames := []
  tags := []
  nextTag := 0
  walks := []

/-- The placement hash H: for each bit of the package index, the die and the slice fold, the granule bits that are XORed (R23). -/
structure HashTable where
  pkg : List (BitVec 36)
  die : List (BitVec 36)
  slice : List (BitVec 36)
  deriving DecidableEq, Repr

/-- The package's fault queue (R386). -/
structure FaultQueue where
  configured : Bool
  base : Nat
  log2 : Nat
  prod : Nat
  cons : Nat
  /-- Records that wait for room, of 256 bits. -/
  waiting : List (BitVec 256)
  deriving DecidableEq, Repr

/-- The machine. The issuing group and the workgroup whose sequencer moves stand in `g` and `w`, the others in lists
(log entry 16). -/
structure State where
  g : Group
  grps : List Group
  w : Workgroup
  wgs : List Workgroup
  cores : List Core
  dies : List Die
  engines : List Engine
  /-- Memory in canonical form: keys rising, no entry equal to 0 (log entry 1). -/
  mem : List Host.Cell
  /-- Dirty bytes of L2 over HBM, in pool address order (R206, log entry 12). -/
  l2 : List (Nat × Byte)
  stores : List Pending
  /-- Keys of bytes that carry an uncorrectable error (R213, log entry 11). -/
  poison : List Nat
  fabric : Fabric
  tasks : List TaskUnit
  streams : List Stream
  rings : List HostRing
  fq : FaultQueue
  replies : List FaultReply
  /-- What passes to another partition and is still to be cleared (R391). -/
  clears : List ClearUnit
  /-- Pool ranges that still hold data of a partition under an earlier key: partition, first byte, end (R430). -/
  stale : List (Byte × Nat × Nat)
  /-- Pool ranges written under a partition's key (R422, R430): partition, first byte, end. -/
  owned : List (Byte × Nat × Nat)
  host : HostState
  /-- The placement hash, as the device kernel has programmed it (R23). -/
  hash : HashTable
  /-- Package number in the pod, and the pod's Vuvosum count (R21). -/
  pkg : Nat
  vuvs : Nat
  /-- DTIME in nanoseconds, and its fraction in parts of 50,000 (R426). -/
  dtime : Nat
  dfrac : Nat
  /-- The notification word, bits FQ QERR MCHK LEASE SYNCL (R423). -/
  notif : BitVec 5
  /-- The schedule of moves (log entry 3). -/
  sched : List Turn
  /-- Count that makes free values fresh (log entry 17). -/
  free : Nat
  /-- The next identifier for store-path entries, deferred results and commands. -/
  nextId : Nat
  deriving DecidableEq, Repr

/-- A workgroup before any launch (log entry 9). -/
def Workgroup.initial : Workgroup where
  wid := 0
  launch := 0
  ctx := 0
  part := 0
  cores := []
  quadwg := false
  coords := [0, 0, 0]
  members := []
  split := []
  first := ⟨0, 0⟩
  nbars := List.replicate 16 ⟨0, 0, none, 0, [], [], []⟩
  seq := Option.none
  supervisor := false
  karg := 0
  usesScratch := false

/-- The machine right after reset: no launch, no group, memory with nothing listed. The spec leaves the package number, the pod's Vuvosum
count and the hash table to the device kernel at boot: number 0, 36 Vuvosums and an empty table, which homes every granule at package 0 and
die 0, are the model's (log entry 21, DESIGN CHOICE). -/
def State.reset : State where
  g := Group.initial
  grps := []
  w := Workgroup.initial
  wgs := []
  cores := []
  dies := []
  engines := []
  mem := []
  l2 := []
  stores := []
  poison := []
  fabric := Fabric.reset
  tasks := []
  streams := []
  rings := []
  fq := ⟨false, 0, 8, 0, 0, []⟩
  replies := []
  clears := []
  stale := []
  owned := []
  host := HostState.reset
  hash := ⟨[], [], []⟩
  pkg := 0
  vuvs := 36
  dtime := 0
  dfrac := 0
  notif := 0
  sched := []
  free := 0
  nextId := 1

end Sys2Proof.Machine
end

