-- ==== Sys2Proof/Machine/Memory.lean ====
section
/-! DEFINITION. Named operations over memory: the canonical list of bytes, L2 over HBM, L1, and what a core reads past the
store path (R206 to R209, R230, log entries 1, 5, 12). -/

namespace Sys2Proof.Machine

/-- The byte at a key; an unlisted key reads as 0 (log entry 1). -/
def Mem.get : List Host.Cell → Nat → Byte
  | [], _ => 0
  | (a, b) :: m, k => if k < a then 0 else if k = a then b else Mem.get m k

/-- Writes the byte at a key and keeps the canonical form. -/
def Mem.set : List Host.Cell → Nat → Byte → List Host.Cell
  | [], k, b => if b = 0 then [] else [(k, b)]
  | (a, c) :: m, k, b =>
    if k < a then (if b = 0 then (a, c) :: m else (k, b) :: (a, c) :: m)
    else if k = a then (if b = 0 then m else (k, b) :: m)
    else (a, c) :: Mem.set m k b

/-- Every key is above `lo`, keys rise, and no entry is 0. -/
def Mem.wfFrom : Nat → List Host.Cell → Bool
  | _, [] => true
  | lo, (a, b) :: m => lo ≤ a && b != 0 && Mem.wfFrom (a + 1) m

/-- The canonical form of memory (log entry 1). -/
def Mem.wf (m : List Host.Cell) : Bool := Mem.wfFrom 0 m

/-- The dirty byte that L2 holds at a pool address. -/
def L2.get : List (Nat × Byte) → Nat → Option Byte
  | [], _ => none
  | (a, b) :: m, k => if k < a then none else if k = a then some b else L2.get m k

/-- Makes a byte dirty in L2. -/
def L2.set : List (Nat × Byte) → Nat → Byte → List (Nat × Byte)
  | [], k, b => [(k, b)]
  | (a, c) :: m, k, b => if k < a then (k, b) :: (a, c) :: m else if k = a then (k, b) :: m else (a, c) :: L2.set m k b

/-- Drops the dirty bytes of an address range without write-back. -/
def L2.drop (m : List (Nat × Byte)) (lo n : Nat) : List (Nat × Byte) := m.filter fun c => c.1 < lo || lo + n ≤ c.1

namespace State

/-- The XOR of the bits of a granule number that a mask selects. -/
def foldBit (m g : BitVec 36) : Bool := (List.range 36).foldl (fun b i => b != (m &&& g).getLsbD i) false

/-- A number made of XOR folds, bit 0 first. -/
def foldNum : List (BitVec 36) → BitVec 36 → Nat
  | [], _ => 0
  | m :: ms, g => (foldBit m g).toNat + 2 * foldNum ms g

/-- The home of a 64 KiB granule: package index, die and slice, each a number of XOR folds (R23, log entry 7). -/
def homeOf (s : State) (granule : Nat) : Fin 64 × Fin 8 × Fin 24 :=
  let g : BitVec 36 := BitVec.ofNat 36 granule
  (Fin.ofNat 64 (foldNum s.hash.pkg g), Fin.ofNat 8 (foldNum s.hash.die g), Config.slice (foldNum s.hash.slice g))

/-- The value a byte holds at its home: L2 over HBM for the pool, the one storage elsewhere (R207, R230). -/
def byteAt (s : State) (sp : Space) (off : Nat) : Byte :=
  match sp with
  | .pool => (L2.get s.l2 off).getD (Mem.get s.mem (sp.key off))
  | _ => Mem.get s.mem (sp.key off)

/-- Cuts a byte out of the ranges written under earlier keys (R430). -/
def freshen (rs : List (Byte × Nat × Nat)) (off : Nat) : List (Byte × Nat × Nat) :=
  rs.flatMap fun r =>
    if r.2.1 ≤ off && off < r.2.2 then
      (if r.2.1 < off then [(r.1, r.2.1, off)] else []) ++ (if off + 1 < r.2.2 then [(r.1, off + 1, r.2.2)] else [])
    else [r]

/-- Cuts a range out of the ranges written under earlier keys (R430). -/
def cutRange (rs : List (Byte × Nat × Nat)) (lo n : Nat) : List (Byte × Nat × Nat) :=
  rs.flatMap fun r =>
    (if r.2.1 < min r.2.2 lo then [(r.1, r.2.1, min r.2.2 lo)] else [])
      ++ (if max r.2.1 (lo + n) < r.2.2 then [(r.1, max r.2.1 (lo + n), r.2.2)] else [])

/-- Whether a byte, read under a partition's key, was last written under an earlier key of it, or under another partition's key (R422, R430). -/
def isStale (s : State) (part : Byte) (off : Nat) : Bool :=
  (s.stale.any fun r => r.1 == part && r.2.1 ≤ off && off < r.2.2) || s.owned.any fun r => r.1 != part && r.2.1 ≤ off && off < r.2.2

/-- Ranges with one more, whose bytes no other holds; it joins one that it touches. -/
def joinRange (part : Byte) (lo hi : Nat) (rs : List (Byte × Nat × Nat)) : List (Byte × Nat × Nat) :=
  let near (r : Byte × Nat × Nat) : Bool := r.1 == part && (r.2.2 == lo || r.2.1 == hi)
  let touching := rs.filter near
  (part, touching.foldl (fun n r => min n r.2.1) lo, touching.foldl (fun n r => max n r.2.2) hi) :: rs.filter (!near ·)

/-- Where the package has keys, a write under a partition's key ties its bytes to it (R422, R430). -/
def tie (s : State) (part : Byte) (off n : Nat) : State :=
  if s.host.keys.isEmpty || n = 0 then s else { s with owned := joinRange part off (off + n) (cutRange s.owned off n) }

/-- A write performed at the byte's home; it is no longer poisoned, and it is under the current key (R207, R213, R430). -/
def putByte (s : State) (sp : Space) (off : Nat) (b : Byte) : State :=
  let s := { s with
    poison := s.poison.filter (· != sp.key off)
    stale := if sp == Space.pool then freshen s.stale off else s.stale
    owned := if sp == Space.pool then freshen s.owned off else s.owned }
  match sp with
  | .pool => { s with l2 := L2.set s.l2 off b }
  | _ => { s with mem := Mem.set s.mem (sp.key off) b }

/-- Bytes at their home. -/
def bytesAt (s : State) (sp : Space) (off n : Nat) : List Byte := (List.range n).map fun i => s.byteAt sp (off + i)

/-- Writes consecutive bytes at their home. -/
def putBytes (s : State) (sp : Space) : Nat → List Byte → State
  | _, [] => s
  | off, b :: bs => (s.putByte sp off b).putBytes sp (off + 1) bs

/-- A little-endian number at its home (R6). -/
def wordAt (s : State) (sp : Space) (off n : Nat) : Nat := leNat (s.bytesAt sp off n)

/-- Writes an `n`-byte little-endian number at its home. -/
def putWord (s : State) (sp : Space) (off n x : Nat) : State := s.putBytes sp off (leBytes n x)

/-- Whether a byte carries an uncorrectable error (R213). -/
def poisoned (s : State) (sp : Space) (off : Nat) : Bool := s.poison.contains (sp.key off)

end State

/-- Whether two ranges of one space overlap. -/
def overlaps (a n b m : Nat) : Bool := a < b + m && b < a + n

/-- The byte a pending write gives a location. -/
def Pending.byteFor (p : Pending) (sp : Space) (off : Nat) : Option Byte :=
  match p.effect with
  | .write d => if p.space == sp && p.off ≤ off then d[off - p.off]? else none
  | .rmw .. | .confirm => none

/-- Whether an accepted write is one that its whole core sees (Table 8-1): a pool write that no release has held back (R233). -/
def Pending.onCore (p : Pending) (core : CoreId) : Bool := p.space == .pool && p.core == core && p.after.isEmpty

/-- Whether a pending access of another agent is visible to a group before it is performed: within the core for the pool,
within the group elsewhere (R208, R230, Table 8-1). No group has number 0, under which engines write and lines are fetched. -/
def Pending.seenBy (p : Pending) (core : CoreId) (gid : Nat) : Bool := gid != 0 && (p.gid == gid || p.onCore core)

namespace State

/-- The newest accepted write of the core that a location's next read must return. -/
def forwarded (s : State) (core : CoreId) (gid : Nat) (sp : Space) (off : Nat) : Option Byte :=
  s.stores.foldl (fun acc p => if p.seenBy core gid then (match p.byteFor sp off with | some b => some b | none => acc) else acc) none

/-- An atomic of the group, accepted and not yet performed, that touches a range: a later read of the group waits for it
(R208). -/
def rmwPending (s : State) (gid : Nat) (sp : Space) (off n : Nat) : Bool :=
  s.stores.any fun p => p.gid == gid && p.space == sp && overlaps p.off p.size off n &&
    (match p.effect with | .rmw .. => true | .write _ | .confirm => false)

/-- The core record; a core not listed is as after reset. -/
def coreAt (s : State) (id : CoreId) : Core := (s.cores.find? (·.id == id)).getD (Core.reset id)

/-- Replaces or lists a core record. -/
def setCore (s : State) (c : Core) : State :=
  if s.cores.any (·.id == c.id) then { s with cores := s.cores.map fun x => if x.id == c.id then c else x }
  else { s with cores := s.cores ++ [c] }

def modCore (s : State) (id : CoreId) (f : Core → Core) : State := s.setCore { f (s.coreAt id) with id := id }

/-- The die record; a die not listed is as after reset. -/
def dieAt (s : State) (n : Nat) : Die := (s.dies.find? (·.num == n)).getD (Die.reset n)

def setDie (s : State) (d : Die) : State :=
  if s.dies.any (·.num == d.num) then { s with dies := s.dies.map fun x => if x.num == d.num then d else x }
  else { s with dies := s.dies ++ [d] }

def modDie (s : State) (n : Nat) (f : Die → Die) : State := s.setDie { f (s.dieAt n) with num := n }

/-- The matrix engine of a quad; one not listed is empty. -/
def engineAt (s : State) (q : QuadId) : Engine := (s.engines.find? (·.quad == q)).getD ⟨q, [], 0, [], [], [], []⟩

def setEngine (s : State) (e : Engine) : State :=
  if s.engines.any (·.quad == e.quad) then { s with engines := s.engines.map fun x => if x.quad == e.quad then e else x }
  else { s with engines := s.engines ++ [e] }

/-- The sector of L1 that holds a pool byte, if valid (R206). -/
def l1Byte (s : State) (core : CoreId) (off : Nat) : Option Byte :=
  match (s.coreAt core).l1.find? (·.1 == off / 64) with
  | some e => e.2[off % 64]?
  | none => none

/-- Invalidates the sectors of a core's L1 that a test selects. -/
def l1Drop (s : State) (core : CoreId) (p : Nat → Bool) : State :=
  s.modCore core fun c => { c with l1 := c.l1.filter fun e => !p e.1 }

/-- Invalidates a whole L1. -/
def l1Clear (s : State) (core : CoreId) : State := s.modCore core fun c => { c with l1 := [] }

/-- A store updates any valid L1 sector that it covers (R207). -/
def l1Update (s : State) (core : CoreId) (off : Nat) (data : List Byte) : State :=
  s.modCore core fun c =>
    { c with l1 := c.l1.map fun e =>
        (e.1, (List.range 64).map fun i =>
          let a := 64 * e.1 + i
          if off ≤ a && a < off + data.length then data.getD (a - off) 0 else e.2.getD i 0) }

/-- What a group's read of one byte returns: its core's accepted writes first, then for the pool a valid L1 sector unless the
read bypasses L1, then the home (R207, R230). An I/O target answers with a value the spec does not give: a free value (log entry 17). -/
def viewByte (s : State) (core : CoreId) (gid : Nat) (bypass : Bool) (sp : Space) (off : Nat) : Byte :=
  match s.forwarded core gid sp off with
  | some b => b
  | none =>
    match sp with
    | .pool => if bypass then s.byteAt .pool off else (s.l1Byte core off).getD (s.byteAt .pool off)
    | .io => (Config.freeBits (s.free + off)).setWidth 8
    | _ => s.byteAt sp off

def viewBytes (s : State) (core : CoreId) (gid : Nat) (bypass : Bool) (sp : Space) (off n : Nat) : List Byte :=
  (List.range n).map fun i => s.viewByte core gid bypass sp (off + i)

/-- Puts a sector into L1: the home bytes with the core's accepted writes over them (R207, R230). -/
def l1Fill (s : State) (core : CoreId) (sector : Nat) : State :=
  let data := (List.range 64).map fun i =>
    (s.stores.foldl (fun acc p => if p.onCore core then (match p.byteFor .pool (64 * sector + i) with | some b => some b | none => acc) else acc)
      none).getD (s.byteAt .pool (64 * sector + i))
  s.modCore core fun c =>
    if c.l1.any (·.1 == sector) then c else { c with l1 := (sector, data) :: c.l1 }

/-- The local DTIME of a core: within 4 ns of the pod's (R102, log entry 4). -/
def localTime (s : State) (core : CoreId) : Nat := s.dtime + 4 - Config.skew (64 * core.die + core.core) % 9

/-- A fresh identifier. -/
def fresh (s : State) : Nat × State := (s.nextId, { s with nextId := s.nextId + 1 })

/-- A fresh free value (log entry 17). -/
def freeValue (s : State) : DWord × State := (Config.freeBits s.free, { s with free := s.free + 1 })

end State

end Sys2Proof.Machine
end

