-- ==== Sys2Proof/Machine/Regs.lean ====
section
/-! DEFINITION. The registers of a group: reading, writing, poison marks and the temporaries (R28, R39, R47, R79, R116 to
R118, R213). -/

namespace Sys2Proof.Machine

/-- The lanes of a group in order. -/
def lanes : List Nat := List.range 96

/-- The lanes of a mask, ascending (R10). -/
def lanesOf (m : Mask) : List Nat := lanes.filter (m.getLsbD ·)

/-- A mask from a test. -/
def maskOf (p : Nat → Bool) : Mask := lanes.foldr (fun l m => m <<< 1 ||| (if p l then 1 else 0)) 0

/-- The register number of Sn in trailer entries and marks (Table 2-9). -/
def sKey (n : Nat) : Nat := 256 + n

namespace Group

/-- Vr in a lane. -/
def vget (g : Group) (r lane : Nat) : Word := (g.v.getD r []).getD lane 0

/-- Vr, or the pair from Vr, in a lane (R6). -/
def vval (g : Group) (wide : Bool) (r lane : Nat) : DWord :=
  if wide then g.vget (r + 1) lane ++ g.vget r lane else (g.vget r lane).setWidth 64

/-- Sn; S60 to S62 are the execution mask, S63 reads zero (R28, R29). -/
def sget (g : Group) (n : Nat) : Word :=
  if n < 60 then g.s.getD n 0
  else if n < 63 then g.em.extractLsb' (32 * (n - 60)) 32
  else 0

/-- Sn, or the pair from Sn. -/
def sval (g : Group) (wide : Bool) (n : Nat) : DWord :=
  if wide then g.sget (n + 1) ++ g.sget n else (g.sget n).setWidth 64

/-- Pn. -/
def pget (g : Group) (n : Nat) : Mask := g.p.getD n 0

/-- Drops the marks of a register in the lanes written (R213). -/
def unmark (g : Group) (reg : Nat) (m : Mask) : Group :=
  { g with marks := g.marks.filter fun k => !(k.reg == reg && m.getLsbD k.lane) }

/-- Writes Vr in the lanes of a mask and clears their marks; other lanes keep their values (R118, R213). -/
def vset (g : Group) (r : Nat) (m : Mask) (f : Nat → Word) : Group :=
  { (g.unmark r m) with v := g.v.set r (lanes.map fun l => if m.getLsbD l then f l else g.vget r l) }

/-- Writes Vr, or the pair from Vr (R116). -/
def vput (g : Group) (wide : Bool) (r : Nat) (m : Mask) (f : Nat → DWord) : Group :=
  let g := g.vset r m fun l => (f l).setWidth 32
  if wide then g.vset (r + 1) m fun l => (f l).extractLsb' 32 32 else g

/-- Writes Sn: S60 to S62 store the value ANDed with LIVE, a write to S63 is discarded (R47, R79). -/
def sset (g : Group) (n : Nat) (x : Word) : Group :=
  if n < 60 then { (g.unmark (sKey n) 1) with s := g.s.set n x }
  else if n < 63 then
    let sh := 32 * (n - 60)
    let keep : Mask := g.em &&& ~~~((0xFFFFFFFF : Mask) <<< sh)
    { (g.unmark (sKey n) 1) with em := (keep ||| ((x.setWidth 96) <<< sh)) &&& g.live }
  else g

/-- Writes Sn, or the pair from Sn. -/
def sput (g : Group) (wide : Bool) (n : Nat) (x : DWord) : Group :=
  let g := g.sset n (x.setWidth 32)
  if wide then g.sset (n + 1) (x.extractLsb' 32 32) else g

/-- Writes Pn in the lanes of a mask. -/
def pset (g : Group) (n : Nat) (m : Mask) (f : Nat → Bool) : Group :=
  { g with p := g.p.set n ((g.pget n &&& ~~~m) ||| (maskOf f &&& m)) }

/-- The temporary Tk of the current stroke (R39). -/
def temp (g : Group) (k : Nat) : Temp :=
  match g.stroke with
  | some st => st.temps.getD k .none
  | none => .none

/-- The value of a temporary in a lane. Two readings the spec does not state: a 32-bit result read by an operand of a 64-bit type is
zero-extended (log entry 30, DESIGN CHOICE), and a scalar instruction that reads a vector result reads lane 0 (log entry 31, DESIGN CHOICE). -/
def Temp.val (t : Temp) (lane : Nat) : DWord :=
  match t with
  | .none => 0
  | .vec ls _ => ls.getD lane 0
  | .scal v _ => v
  | .pred m => if m.getLsbD lane then 1 else 0

/-- The marks of a register, or of the pair from it, that go into a temporary: 0 and 1 tell the low from the high register. -/
def halfMarks (g : Group) (wide : Bool) (r : Nat) : List Mark :=
  (g.marks.filter fun k => k.reg == r || (wide && k.reg == r + 1)).map fun k => { k with reg := k.reg - r }

/-- What Tk reads of a V destination just written (R39). -/
def vTemp (g : Group) (wide : Bool) (r : Nat) : Temp := .vec (lanes.map (g.vval wide r)) (g.halfMarks wide r)

/-- What Tk reads of an S destination just written. -/
def sTemp (g : Group) (wide : Bool) (n : Nat) : Temp := .scal (g.sval wide n) (g.halfMarks wide (sKey n))

/-- What Tk reads after an instruction that writes these registers, numbered as in trailer entries (R39, R447). -/
def resultTemp (g : Group) (writes : List Nat) : Temp :=
  match writes with
  | [] => .none
  | k :: rest =>
    let wide := rest.length == 1
    if k < 256 then g.vTemp wide k else if k < 320 then g.sTemp wide (k - 256) else .pred (g.pget (k - 320))

/-- The instruction at the PC retires: its result becomes T0 and the PC moves to the next slot (R32, R39). -/
def retire (g : Group) (t : Temp) : Group :=
  { g with
    pc := g.pc + 1
    stroke := g.stroke.map fun st => { st with pos := st.pos + 1, temps := (t :: st.temps).take 8 } }

/-- The same with a tail action for the trailer (R38). -/
def retireTail (g : Group) (t : Tail) : Group :=
  let g := g.retire .none
  { g with stroke := g.stroke.map fun st => { st with tail := t } }

/-- The chain position of a lane: GRP × 96 + LANE (R175). -/
def chain (g : Group) (lane : Nat) : Nat := g.grp * 96 + lane

end Group

/-! ## Operands -/

/-- An integer operand in a lane, under a type (R39, R116, R117): an operand of a 32-bit type reads the low half of a temporary. -/
def Group.intOperand (g : Group) (wide : Bool) (o : Operand) (lane : Nat) : DWord :=
  match o with
  | .v n => g.vval wide n.toNat lane
  | .t k =>
    let x := Group.Temp.val (g.temp k.toNat) lane
    if wide then x else (x.setWidth 32).setWidth 64
  | .s n => g.sval wide n.toNat
  | .p n => if (g.pget n.toNat).getLsbD lane then 1 else 0
  | .lane => BitVec.ofNat 64 lane
  | .grp => BitVec.ofNat 64 g.grp
  | .chain => BitVec.ofNat 64 (g.chain lane)
  | .thrd => (g.thrd.getD lane 0).setWidth 64
  | .int n => n.setWidth 64
  | _ => 0

/-- A floating-point operand in a lane, under a type (R50, R51). -/
def Group.fltOperand (g : Group) (t : Ty) (o : Operand) (lane : Nat) : DWord :=
  match o with
  | .int n => intConstAs t n
  | .fp n => fpConstAs t n
  | o => g.intOperand t.is64 o lane

/-- An operand in a lane, under a type. -/
def Group.operand (g : Group) (t : Ty) (o : Operand) (lane : Nat) : DWord :=
  if t.isInt then g.intOperand t.is64 o lane else g.fltOperand t o lane

/-- A predicate operand (R130): a predicate, or the constant 0 or 1 in every lane. -/
def Group.predOperand (g : Group) (o : Operand) : Mask :=
  match o with
  | .p n => g.pget n.toNat
  | .int n => if n = 0 then 0 else BitVec.allOnes 96
  | _ => 0

/-- The marks that a temporary brings for one half of its value in a lane set (R213): for each mark, the lanes and the load's address. -/
def Group.tempMarks (g : Group) (t half : Nat) (q : Mask) : List (Mask × DWord) :=
  match g.temp t with
  | .vec _ ms => ms.filterMap fun m => if m.reg == half && q.getLsbD m.lane then some ((1 : Mask) <<< m.lane, m.va) else none
  | .scal _ ms => ms.filterMap fun m => if m.reg == half then some (q, m.va) else none
  | _ => []

end Sys2Proof.Machine
end

