-- ==== Sys2Proof/Machine/Translate.lean ====
section
/-! DEFINITION. Page tables, the checks of Table 7-4 and the TLB (R199 to R204). -/

namespace Sys2Proof.Machine

/-- Kinds of access (Table 7-5, KIND). -/
inductive AccKind where
  | load | store | atomic | fetch | engineRead | engineWrite
  deriving DecidableEq, Repr

def AccKind.code : AccKind → Nat
  | .load => 0 | .store => 1 | .atomic => 2 | .fetch => 3 | .engineRead => 4 | .engineWrite => 5

def AccKind.isWrite : AccKind → Bool
  | .store | .atomic | .engineWrite => true
  | _ => false

/-- A leaf found for an address: its value, where it lies in the pool, and the page it maps. -/
structure Leaf where
  bits : DWord
  at_ : Nat
  va : Nat
  size : Nat
  deriving DecidableEq, Repr

namespace Leaf
def apt (l : Leaf) : Nat := (l.bits.extractLsb' 10 2).toNat
def part (l : Leaf) : Byte := l.bits.extractLsb' 52 8
def global (l : Leaf) : Bool := l.bits.getLsbD 9
def emit (l : Leaf) : Bool := l.bits.getLsbD 8
def rap (l : Leaf) : Bool := l.bits.getLsbD 7
def dead (l : Leaf) : Bool := l.bits.getLsbD 6
def modified (l : Leaf) : Bool := l.bits.getLsbD 5
def accessed (l : Leaf) : Bool := l.bits.getLsbD 4
def supervisor (l : Leaf) : Bool := l.bits.getLsbD 3
def executable (l : Leaf) : Bool := l.bits.getLsbD 2
def writable (l : Leaf) : Bool := l.bits.getLsbD 1
/-- The peer Vuvosum of an APT 0b01 leaf. -/
def peer (l : Leaf) : Nat := (l.bits.extractLsb' 46 6).toNat
/-- The space of the page (R201). -/
def space (l : Leaf) : Space :=
  match l.apt with
  | 0 => .pool
  | 1 => .peer l.peer
  | _ => .io
/-- The physical address of a virtual address in the page (R201). -/
def phys (l : Leaf) (va : Nat) : Nat :=
  let frame := if l.apt = 1 then (l.bits.extractLsb' 16 30).toNat else (l.bits.extractLsb' 16 36).toNat
  frame * 65536 + va % l.size
end Leaf

/-- The outcome of a walk: a leaf, or the cause and the level at which it failed. -/
inductive WalkRes where
  | ok (l : Leaf)
  | fail (cause : Nat) (level : Nat)
  deriving DecidableEq, Repr

/-- Check 1 of Table 7-4. The address of a line whose PC is too large to name one in 64 bits is taken modulo 2^64 (log entry 86, DESIGN CHOICE). -/
def canonical (va : Nat) : Bool := va % 2 ^ 64 / 2 ^ 56 == 0 || va % 2 ^ 64 / 2 ^ 56 == 2 ^ 8 - 1

/-- Page size of a leaf at a level (Table 7-2). -/
def pageSize (level : Nat) : Nat := [65536, 2097152, 1073741824].getD level 65536

/-- Whether a valid leaf is malformed at its level (R200); `own` is the requester's Vuvosum. -/
def leafMalformed (level : Nat) (own vuvs : Nat) (e : DWord) : Bool :=
  let l : Leaf := ⟨e, 0, 0, 0⟩
  (e.extractLsb' 12 2).toNat != level || l.apt == 3 || e.extractLsb' 14 2 != 0
  || (level == 1 && e.extractLsb' 16 5 != 0) || (level == 2 && e.extractLsb' 16 14 != 0)
  || (l.apt == 1 && (l.peer == own || vuvs ≤ l.peer))

/-- One level of a walk, and those below it (R199, R200). `table` is the table's pool address. -/
def walkFrom (s : State) (own va : Nat) : Nat → Nat → WalkRes
  | level, table =>
    let index := match level with
      | 3 => va / 2 ^ 39 % 262144
      | 2 => va / 2 ^ 30 % 512
      | 1 => va / 2 ^ 21 % 512
      | _ => va / 2 ^ 16 % 32
    let at_ := table + 8 * index
    let e : DWord := BitVec.ofNat 64 (s.wordAt .pool at_ 8)
    if !e.getLsbD 0 then .fail 0x08 level
    else if e.extractLsb' 12 2 == 3 then
      match level with
      | 0 => .fail 0x07 level
      | below + 1 =>
        let next := (e.extractLsb' 16 44).toNat * 256
        if e.extractLsb' 14 2 != 0 || e.extractLsb' 1 11 != 0 || next % (if below = 0 then 256 else 4096) != 0 then .fail 0x07 level
        else walkFrom s own va below next
    else if level = 3 || leafMalformed level own s.vuvs e then .fail 0x07 level
    else .ok ⟨e, at_, va / pageSize level * pageSize level, pageSize level⟩
termination_by structural level => level

/-- The root table that PTBASE names (R199). -/
def rootOf (ptbase : DWord) : Nat := (ptbase.extractLsb' 21 31).toNat * 2 ^ 21

namespace State

/-- The Vuvosum number of the package (R21). -/
def vuv (s : State) : Nat := s.pkg / 64

/-- The TLB entry that translates an address for a context (R204). -/
def tlbHit (s : State) (core : CoreId) (r : CtxRegs) (va : Nat) : Option TlbEntry :=
  (s.coreAt core).tlb.find? fun e =>
    e.part == r.part && (e.ctx == none || e.ctx == some r.ctx) && e.va ≤ va && va < e.va + e.size

/-- Checks 4 to 6 of Table 7-4 on a leaf. -/
def leafCheck (r : CtxRegs) (super : Bool) (kind : AccKind) (l : Leaf) : Option Nat :=
  if l.part != r.part || (l.supervisor && !super) || (kind.isWrite && !l.writable)
      || (kind == .fetch && (!l.executable || l.dead)) then some 0x07
  else if kind == .atomic && l.apt == 1 && !l.rap then some 0x0A
  else if kind.isWrite && l.dead then some 0x09
  else none

/-- Translation of an address with every check of Table 7-4 (R202): the core's TLB first, and a walk where the TLB misses or a
write meets an entry loaded without M (R203, R204). -/
def translate (s : State) (core : CoreId) (r : CtxRegs) (super : Bool) (kind : AccKind) (va : Nat) : WalkRes :=
  if !canonical va then .fail 0x07 3
  else
    let walked := walkFrom s s.vuv va 3 (rootOf r.ptbase)
    let found := match s.tlbHit core r va with
      | some e =>
        let l : Leaf := ⟨e.leaf, e.at_, e.va, e.size⟩
        if kind.isWrite && !l.modified then walked else .ok l
      | none => walked
    match found with
    | .fail c lv => .fail c lv
    | .ok l =>
      match leafCheck r super kind l with
      | some c => .fail c 0
      | none => .ok l

/-- Translation by an engine, which walks without the core's TLB (R275, R308). -/
def engineTranslate (s : State) (r : CtxRegs) (super : Bool) (kind : AccKind) (va : Nat) : WalkRes :=
  if !canonical va then .fail 0x07 3
  else match walkFrom s s.vuv va 3 (rootOf r.ptbase) with
    | .fail c lv => .fail c lv
    | .ok l =>
      match leafCheck r super kind l with
      | some c => .fail c 0
      | none => .ok l

/-- A and M of a leaf, set by an atomic OR in the pool when the translation is used (R203). -/
def markLeaf (s : State) (l : Leaf) (write : Bool) : State :=
  let old := s.byteAt .pool l.at_
  let new := old ||| 0x10 ||| (if write then 0x20 else 0)
  if new = old then s else s.putByte .pool l.at_ new

/-- Whether a translation has to be walked: the TLB has no entry for it, or one loaded without A, or a write meets one loaded without M
(R203, R221). -/
def needsWalk (s : State) (core : CoreId) (r : CtxRegs) (write : Bool) (va : Nat) : Bool :=
  match s.tlbHit core r va with
  | none => true
  | some e =>
    let l : Leaf := ⟨e.leaf, 0, 0, 0⟩
    !l.accessed || (write && !l.modified)

/-- The entry of a leaf, tagged with the partition and, unless it is global, the context (R204). -/
def tlbEntry (r : CtxRegs) (l : Leaf) (bits : DWord) : TlbEntry :=
  ⟨r.part, if l.global then none else some r.ctx, l.va, l.size, bits, l.at_⟩

/-- A TLB of some entries after a leaf has been loaded. -/
def withEntry (n : Nat) (tlb : List TlbEntry) (e : TlbEntry) : List TlbEntry :=
  if tlb.contains e then tlb
  else (e :: tlb.filter fun x => !(x.part == e.part && x.ctx == e.ctx && x.va == e.va && x.size == e.size)).take n

/-- The TLB of a core holds a leaf (R204). -/
def loadTlb (s : State) (core : CoreId) (r : CtxRegs) (l : Leaf) (bits : DWord) : State :=
  s.modCore core fun c => { c with tlb := withEntry 512 c.tlb (tlbEntry r l bits) }

/-- A walked translation is used: A and M are set and the TLB holds the leaf (R203, R204). -/
def fillTlb (s : State) (core : CoreId) (r : CtxRegs) (l : Leaf) (write : Bool) : State :=
  (s.markLeaf l write).loadTlb core r l (l.bits ||| 0x10 ||| (if write then 0x20 else 0))

/-- A walk ahead: A and M are set and the walk-ahead TLB of a tile fetch unit holds the leaf (R203, R275). -/
def fillAhead (s : State) (q : QuadId) (r : CtxRegs) (l : Leaf) (write : Bool) : State :=
  let s := s.markLeaf l write
  let e := s.engineAt q
  s.setEngine { e with tlb := withEntry 256 e.tlb (tlbEntry r l (l.bits ||| 0x10 ||| (if write then 0x20 else 0))) }

/-- A translation is used: what the TLB lacks is walked (R203, R204). -/
def useLeaf (s : State) (core : CoreId) (r : CtxRegs) (l : Leaf) (write : Bool) : State :=
  if s.needsWalk core r write l.va then s.fillTlb core r l write else s

/-- Whether a read through a page meets data that its partition wrote under an earlier key (R430). -/
def keyLost (s : State) (leaf : Option Leaf) (off : Nat) : Bool :=
  match leaf with
  | some l => l.apt == 0 && s.isStale l.part off
  | none => false

/-- What such a read returns: the spec calls it unpredictable, a free value of the byte (R430, log entry 17). -/
def lostByte (s : State) (off : Nat) : Byte := (Config.freeBits (s.free + off)).setWidth 8

/-! ## The walk scheduler (R205) -/

/-- The instruction that the scheduler chooses among those with walks to start: the fewest outstanding, the oldest on a tie. -/
def nextWalker (ws : List WalkReq) : Option Nat :=
  let left (i : Nat) : Nat := (ws.filter (·.instr == i)).length
  (ws.filter fun w => !w.started).foldl (fun best w => match best with
    | none => some w.instr
    | some b => if left w.instr < left b || (left w.instr == left b && w.instr < b) then some w.instr else best) none

/-- Starts the first request that a test selects. -/
def startFirst (p : WalkReq → Bool) : List WalkReq → List WalkReq
  | [] => []
  | w :: ws => if !w.started && p w then { w with started := true, chosen := true } :: ws else w :: startFirst p ws

/-- The walks in flight after up to `n` more have started: all walks of a chosen instruction in turn, then the next choice. -/
def scheduleWalks (ws : List WalkReq) : Nat → List WalkReq
  | 0 => ws
  | n + 1 =>
    if ws.any fun w => w.chosen && !w.started then scheduleWalks (startFirst (·.chosen) ws) n
    else match nextWalker ws with
      | none => ws
      | some i => scheduleWalks (startFirst (·.chosen) (ws.map fun w => if w.instr == i then { w with chosen := true } else w)) n

/-- A die has at most 16 walks in flight. -/
def startWalks (s : State) (die : Nat) : State :=
  s.modDie die fun d => { d with walks := scheduleWalks d.walks (16 - (d.walks.filter (·.started)).length) }

end State

end Sys2Proof.Machine
end

