-- ==== Sys2Proof/Machine/Ops.lean ====
section
/-! DEFINITION. Shared operations of the machine: finding groups, workgroups and their context registers, fault records and
machine checks, taking an exception and returning from one, the reconvergence stack, and instruction fetch (R31 to R35,
R83 to R89, R212, R373 to R376, R386 to R388). -/

namespace Sys2Proof.Machine

namespace State

/-! ## Groups and workgroups -/

/-- Every group record. -/
def groups (s : State) : List Group := s.g :: s.grps

def group? (s : State) (gid : Nat) : Option Group := s.groups.find? (·.gid == gid)

/-- Changes a group record. -/
def modGroup (s : State) (gid : Nat) (f : Group → Group) : State :=
  if s.g.gid = gid then { s with g := f s.g }
  else { s with grps := s.grps.map fun x => if x.gid == gid then f x else x }

/-- Changes every group that a test selects. -/
def modGroups (s : State) (p : Group → Bool) (f : Group → Group) : State :=
  { s with g := if p s.g then f s.g else s.g, grps := s.grps.map fun x => if p x then f x else x }

/-- Changes the issuing group. -/
def modG (s : State) (f : Group → Group) : State := { s with g := f s.g }

/-- Brings a group into `g` (log entry 16). -/
def focus (s : State) (gid : Nat) : State :=
  if s.g.gid = gid then s
  else match s.grps.find? (·.gid == gid) with
    | some g => { s with g := g, grps := s.grps.map fun x => if x.gid == gid then s.g else x }
    | none => s

def workgroups (s : State) : List Workgroup := s.w :: s.wgs

def wg? (s : State) (wid : Nat) : Option Workgroup := s.workgroups.find? (·.wid == wid)

/-- The workgroup of the issuing group. -/
def wgOf (s : State) (wid : Nat) : Workgroup := (s.wg? wid).getD Workgroup.initial

def modWg (s : State) (wid : Nat) (f : Workgroup → Workgroup) : State :=
  if s.w.wid = wid then { s with w := f s.w }
  else { s with wgs := s.wgs.map fun x => if x.wid == wid then f x else x }

/-- Brings a workgroup into `w`. -/
def focusWg (s : State) (wid : Nat) : State :=
  if s.w.wid = wid then s
  else match s.wgs.find? (·.wid == wid) with
    | some w => { s with w := w, wgs := s.wgs.map fun x => if x.wid == wid then s.w else x }
    | none => s

/-- Changes the sequencer of `w`. -/
def modSeq (s : State) (f : Sequencer → Sequencer) : State := { s with w := { s.w with seq := s.w.seq.map f } }

/-- The frame address of a context's core frame, if the die has the context's frame base (R383). -/
def frameOf (s : State) (core : CoreId) (ctx : BitVec 32) : Option Nat :=
  match (s.dieAt core.die).frames.find? (·.1 == ctx) with
  | some f => some (f.2 + core.core * 0x1000000)
  | none => none

/-- The CSRs of a context on a core: the running context's, or those of its frame header (R377, Table 13-4). -/
def ctxRegs (s : State) (core : CoreId) (ctx : BitVec 32) : CtxRegs :=
  let r := (s.coreAt core).regs
  if r.ctx = ctx then r
  else match s.frameOf core ctx with
    | none => r
    | some f =>
      let w (o n : Nat) : DWord := BitVec.ofNat 64 (s.wordAt .pool (f + o) n)
      ⟨ctx, (w 4 1).setWidth 8, w 8 8 &&& 0x000FFFFFFFE00000, w 16 8 &&& ~~~0xFFFF, w 24 8 &&& 0x000FFFFFFFFFF800, r.hops⟩

/-- The CSRs under which the issuing group runs. -/
def regsOf (s : State) (g : Group) : CtxRegs := s.ctxRegs g.core g.ctx

/-! ## Notifications and records -/

/-- Sets a notification bit; a rise sends one message interrupt and one MSI-X message on the bit's vector (R423). -/
def notify (s : State) (bit : Nat) : State :=
  if s.notif.getLsbD bit then s
  else { s with
    notif := s.notif ||| ((1 : BitVec 5) <<< bit)
    fabric := { s.fabric with outbound := s.fabric.outbound ++ [.interrupt bit, .msix bit] } }

/-- Clears a notification bit whose condition has ended. -/
def unnotify (s : State) (bit : Nat) : State := { s with notif := s.notif &&& ~~~((1 : BitVec 5) <<< bit) }

/-- The bytes of a 256-bit record. -/
def recordBytes (r : BitVec 256) : List Byte := leBytes 32 r.toNat

/-- Writes a record into the fault queue and advances the producer index; a full or unconfigured ring keeps it waiting (R386). -/
def postFault (s : State) (r : BitVec 256) : State :=
  let q := s.fq
  if !q.configured || 2 ^ q.log2 ≤ q.prod - q.cons then { s with fq := { q with waiting := q.waiting ++ [r] } }
  else
    let s := s.putBytes .pool (q.base + 32 * (q.prod % 2 ^ q.log2)) (recordBytes r)
    ({ s with fq := { q with prod := q.prod + 1 } }).notify 0

/-- Posts the waiting records for which the ring has room. -/
def drainFaults (s : State) : Nat → State
  | 0 => s
  | n + 1 =>
    match s.fq.waiting with
    | [] => s
    | r :: rest =>
      if !s.fq.configured || 2 ^ s.fq.log2 ≤ s.fq.prod - s.fq.cons then s
      else (({ s with fq := { s.fq with waiting := rest } }).postFault r).drainFaults n

/-- A fault record (Table 7-5). -/
def faultRecord (va : Nat) (ctx : BitVec 32) (tag : BitVec 16) (npg : Nat) (kind : AccKind) (level : Nat) (core : CoreId)
    (lanes : Mask) : BitVec 256 :=
  (BitVec.ofNat 64 va) ++ ctx ++ tag ++ (BitVec.ofNat 8 npg) ++ (BitVec.ofNat 8 kind.code) ++ (BitVec.ofNat 8 level)
    ++ (BitVec.ofNat 8 core.core) ++ (BitVec.ofNat 4 core.die) ++ 0#12 ++ lanes

/-- The tags that are in use on a die: those outstanding, and those that a parked group keeps (R212, R385). -/
def usedTags (s : State) (die : Nat) : List (BitVec 16) :=
  (s.dieAt die).tags.map (·.tag) ++ (s.groups.filter (·.core.die == die)).filterMap fun g => g.park.map (·.tag)

/-- The first tag from one that is not in use. -/
def freeTag (used : List (BitVec 16)) : Nat → BitVec 16 → BitVec 16
  | 0, t => t
  | n + 1, t => if used.contains t then freeTag used n (t + 1) else t

/-- A fresh fault tag of a die, unique among its outstanding ones (Table 7-5, R387). -/
def newTag (s : State) (core : CoreId) (ctx : BitVec 32) (owner : TagOwner) (npg va : Nat) : BitVec 16 × State :=
  let used := s.usedTags core.die
  let tag : BitVec 16 := freeTag used used.length (BitVec.ofNat 16 (s.dieAt core.die).nextTag)
  (tag, s.modDie core.die fun d =>
    { d with nextTag := tag.toNat + 1, tags := d.tags ++ [⟨tag, ctx, core.core, owner, npg, 0, va, 0, false⟩] })

/-- Posts a machine-check record to the die's log (R388). -/
def postMcheck (s : State) (code : Nat) (core : CoreId) (slot : Nat) (ctx : BitVec 32) (pc : DWord) (cause : Nat) : State :=
  let r : BitVec 256 := 0#56 ++ (BitVec.ofNat 8 cause) ++ (BitVec.ofNat 64 s.dtime) ++ pc ++ ctx ++ 0#2 ++ (BitVec.ofNat 6 slot)
    ++ 0#2 ++ (BitVec.ofNat 6 core.core) ++ 0#5 ++ (BitVec.ofNat 3 core.die) ++ (BitVec.ofNat 8 code)
  (s.modDie core.die fun d => { d with mcLog := d.mcLog ++ [r] }).notify 2

/-- The engine error log of a context on a core. -/
def errLog (s : State) (core : CoreId) (ctx : BitVec 32) : ErrLog :=
  ((s.coreAt core).errLogs.find? (·.ctx == ctx)).getD ⟨ctx, [], 0⟩

/-- Appends an entry to a context's engine error log on a core, a ring of 64 (R397). -/
def logError (s : State) (core : CoreId) (ctx : BitVec 32) (sub : Nat) (queue : Nat) (cause : Nat) (slot : Nat) (task : Word) (addr : DWord)
    (pc : DWord) : State :=
  let w0 : DWord := task ++ 0#2 ++ (BitVec.ofNat 6 slot) ++ (BitVec.ofNat 8 cause) ++ (BitVec.ofNat 8 queue) ++ (BitVec.ofNat 8 sub)
  let e : ErrEntry := ⟨w0, addr, pc⟩
  let l := s.errLog core ctx
  let i := l.count % 64
  let new : ErrLog := ⟨ctx, if i < l.entries.length then l.entries.set i e else l.entries ++ [e], l.count + 1⟩
  s.modCore core fun c => { c with errLogs := new :: c.errLogs.filter (·.ctx != ctx) }

/-! ## Issuers -/

/-- Whether a group's context runs on its core and its registers are there. -/
def inCore (s : State) (g : Group) : Bool := g.place == .core && (s.coreAt g.core).regs.ctx == g.ctx && (s.coreAt g.core).status == .live

/-- Whether a group is ready, apart from being held by an issuer (R83). -/
def isReady (s : State) (g : Group) : Bool :=
  g.wait == .ready && s.inCore g && !(s.coreAt g.core).swap.late

/-- Whether an issuer of its core holds a group. -/
def held (s : State) (g : Group) : Bool := (s.coreAt g.core).issuers.any (·.group == some g.gid)

/-- Whether a core of a quad runs groups: it is live, no late swap stops it, and some group of its context has not ended. -/
def runsGroups (s : State) (id : CoreId) : Bool :=
  (s.coreAt id).status == .live && !(s.coreAt id).swap.late && s.groups.any fun g => g.core == id && g.place == .core && g.wait != Wait.ended

/-- The four cores of a core's quad. -/
def quadOf (core : CoreId) : List CoreId := (List.range 4).map fun i => ⟨core.die, core.core / 4 * 4 + i⟩

/-- Whether strict mode keeps a partition off a core for now: another core of its quad runs a different one (R392). -/
def quadTaken (s : State) (core : CoreId) (part : Byte) : Bool :=
  (s.dieAt core.die).strict && (quadOf core).any fun id => id != core && s.runsGroups id && (s.coreAt id).regs.part != part

/-- Whether strict mode stops issue on a core: its quad runs the partition of the lowest position that runs groups, and no other (R392, log
entry 95). -/
def strictStops (s : State) (core : CoreId) : Bool :=
  (s.dieAt core.die).strict && (((quadOf core).find? s.runsGroups).map fun id => (s.coreAt id).regs.part != (s.coreAt core).regs.part) == some true

/-- The ready groups of a core that no issuer holds and that YLD does not hold back (R83, R103). -/
def candidates (s : State) (core : CoreId) : List Group :=
  s.groups.filter fun g => g.core == core && s.isReady g && !s.held g &&
    !(g.behind.any fun b => match s.group? b with
      | some o => s.isReady o && !s.held o
      | none => false)

/-- The next of some groups in rotating slot order after a slot (R83). -/
def nextInOrder (last : Nat) (gs : List Group) : Option Group :=
  let dist (g : Group) : Nat := (g.slot + 63 - last % 64) % 64
  gs.foldl (fun best g => match best with
    | none => some g
    | some b => if dist g < dist b then some g else best) none

/-- Whether some ready groups can wait no longer for an issuer: `n` of them have to be taken in its next `n` selections (R84). -/
def pressing (i : Nat) (gs : List Group) : Bool :=
  (List.range gs.length).any fun k => k < (gs.filter fun g => 63 ≤ g.passed.getD i 0 + k).length

/-- Where the bound of R84 presses, the ready groups that an issuer has passed most often: it takes one of them next, and one that YLD holds
back only if no other is among them (R103). -/
def overdue (s : State) (core : CoreId) (i : Nat) : List Group :=
  let ready := s.groups.filter fun g => g.core == core && s.isReady g && !s.held g
  if pressing i ready then
    let top := ready.foldl (fun m g => max m (g.passed.getD i 0)) 0
    let most := ready.filter fun g => g.passed.getD i 0 == top
    let free := (s.candidates core).filter fun g => g.passed.getD i 0 == top
    if free.isEmpty then most else free
  else []

/-- What a selection of another group by issuer `i` does to a group of the core: one more selection has passed it (R84), and the selected
group no longer holds it back after YLD (R103). -/
def passOver (i gid : Nat) (ready : Bool) (x : Group) : Group :=
  { x with
    behind := x.behind.filter (· != gid)
    passed := if ready then x.passed.set i (x.passed.getD i 0 + 1) else [0, 0] }

/-- An idle issuer of a core takes the next ready group (R83, R84). -/
def issuerFill (core : CoreId) (s : State) (i : Nat) : State :=
  match (s.coreAt core).issuers[i]? with
  | none => s
  | some u =>
    if u.group.isSome then s
    else
      let late := s.overdue core i
      match nextInOrder u.last (if late.isEmpty then s.candidates core else late) with
      | some g =>
        let t := s.modCore core fun c => { c with issuers := c.issuers.set i ⟨some g.gid, g.slot⟩ }
        (t.modGroups (fun x => x.core == core) fun x => passOver i g.gid (s.isReady x && !s.held x) x).modGroup g.gid
          fun x => { x with behind := [], passed := [0, 0] }
      | none => s

/-- Groups that an issuer holds, or that have ceased to be ready, hold no yielded group back any more (R103). -/
def settleBehind (s : State) (core : CoreId) : State :=
  s.modGroups (fun x => x.core == core && !x.behind.isEmpty) fun x => { x with behind := x.behind.filter fun b => match s.group? b with
    | some o => s.isReady o && !s.held o
    | none => false }

/-- Both issuers of a core take groups where they can (R82, R83); where both are idle, issuer 0 is first (log entry 83, DESIGN CHOICE). -/
def issuerSelect (s : State) (core : CoreId) : State := issuerFill core (issuerFill core (s.settleBehind core) 0) 1

/-- A group leaves its issuer. -/
def release (s : State) (g : Group) : State :=
  s.modCore g.core fun c => { c with issuers := c.issuers.map fun i => if i.group == some g.gid then ⟨none, i.last⟩ else i }

/-- The issuing group leaves its issuer and waits (R247). -/
def waitOn (s : State) (w : Wait) : State :=
  ((s.modG fun g => { g with wait := w }).release s.g).issuerSelect s.g.core

/-- A group becomes ready, and an idle issuer may take it. -/
def wake (s : State) (gid : Nat) : State :=
  match s.group? gid with
  | some g => (s.modGroup gid fun x => { x with wait := .ready, passed := [0, 0] }).issuerSelect g.core
  | none => s

/-! ## Taking an exception -/

/-- The deferred results that have everything they need. -/
def completeDivides (g : Group) : Group :=
  let divs := g.deferred.filter (·.kind == .divide)
  let g := divs.foldl (fun g d => d.writes.foldl (fun g w => match w with
    | .s r x _ => g.sset r x
    | .v .. => g) g) g
  { g with deferred := g.deferred.filter (·.kind != .divide) }

/-- The group halts on a double trap and a machine-check record is posted (R374, R388). -/
def doubleTrap (s : State) (code cause : Nat) (pc : DWord) : State :=
  let g := s.g
  (((s.modG fun g => { g with wait := .halted }).release g).postMcheck code g.core g.slot g.ctx pc cause).issuerSelect g.core

/-! ## Fetch -/

/-- The virtual address of a PC's line (R32). -/
def lineVa (pc : DWord) : Nat := pc.toNat / 5 * 64

/-- A byte of code as fetched; one that its partition wrote under an earlier key is unpredictable (R430). -/
def codeByte (s : State) (core : CoreId) (l : Leaf) (off : Nat) : Byte :=
  if s.keyLost (some l) off then s.lostByte off else s.viewByte core 0 false l.space off

/-- The line at an address, as read past L1 (R31, R235). -/
def fetchLine (s : State) (core : CoreId) (l : Leaf) (va : Nat) : Line :=
  Line.ofBytes ((List.range 64).map fun i => s.codeByte core l (l.phys va + i))

/-- The line of a PC: the leaf and the line, or the cause and level of a failing check (R34, R202). Cause 0x17 stands for
parity that fails twice. -/
def fetchAt (s : State) (g : Group) (super : Bool) (pc : DWord) : Except (Nat × Nat) (Leaf × Line) :=
  let va := lineVa pc
  match s.translate g.core (s.regsOf g) super .fetch va with
  | .fail c lv => .error (c, lv)
  | .ok l =>
    let line := s.fetchLine g.core l va
    if line.parityOk then .ok (l, line)
    else
      let again := Line.ofBytes (s.bytesAt l.space (l.phys va) 64)
      if again.parityOk then .ok (l, again) else .error (0x17, 0)

/-- The vector of a cause (R373, R374). -/
def vectorPc (tvb : DWord) (cause : Nat) : DWord := (tvb / 64 + BitVec.ofNat 64 cause) * 5

/-- Trap entry without the fetch of the vector (R373). An operand the spec gives no value for takes a free value (log entry 23). -/
def enterTrap (s : State) (cause : Nat) (tepc : DWord) (tval : Option DWord) (tl : Option Mask) : State :=
  let tvb := (s.regsOf s.g).tvb
  let fv : DWord := Config.freeBits s.free
  let fl : Mask := (Config.freeBits (s.free + 1)).setWidth 32 ++ Config.freeBits (s.free + 2)
  let s := { s with free := if tval.isSome && tl.isSome then s.free else s.free + 3 }
  s.modG fun g0 =>
    let g := completeDivides g0
    let inStroke := g.stroke.isSome
    let t := g.trapState
    let base : DWord := tvb + 0x1000 + BitVec.ofNat 64 (256 * g.slot)
    { g with
      trapState :=
        { tcause := BitVec.ofNat 32 (cause + if inStroke then 256 else 0)
          tepc := tepc
          tval := tval.getD fv
          tlane := tl.getD fl
          mode := true
          pmode := t.mode
          tip := true
          saved := ⟨g.em, g.fmt, (g.s.drop 56).take 4, g.stack.length + g.spilled,
            g.marks.filter (fun k => sKey 56 ≤ k.reg && k.reg ≤ sKey 59), g.stroke, g.pc⟩ }
      fmt := 0
      s := (g.s.set 56 (base.setWidth 32)).set 57 (base.extractLsb' 32 32)
      marks := g.marks.filter fun k => !(k.reg == sKey 56 || k.reg == sKey 57)
      stroke := none
      captured := none
      due := .nothing
      pc := vectorPc tvb cause }

/-- Taking an exception (R373, R374): the trap state is saved and the group enters the cause's vector; a trap condition while
TIP is set, or a vector that cannot be entered, is a double trap. -/
def trap (s : State) (cause : Nat) (tepc : DWord) (tval : Option DWord) (tl : Option Mask) : State :=
  if s.g.trapState.tip then s.doubleTrap 0x01 cause tepc
  else
    let s := (s.enterTrap cause tepc tval tl).modG fun g => { g with wait := .ready }
    let vec := s.g.pc
    match s.fetchAt s.g true vec with
    | .error (0x08, _) => s.modG fun g => { g with due := .entry }
    | .error (c, _) => s.doubleTrap 0x01 c vec
    | .ok (_, line) => if line.tgt (vec.toNat % 5) then s else s.doubleTrap 0x01 0x04 vec

/-- A precise trap at the issuing group's instruction. -/
def trapHere (s : State) (cause : Nat) (tval : Option DWord) (tl : Option Mask) : State := s.trap cause s.g.pc tval tl

/-- A page on which an instruction faults: its number, the lowest faulting address, the level of the absent entry and the
lanes (Table 7-5). -/
structure PageFault where
  page : Nat
  va : Nat
  level : Nat
  lanes : Mask
  deriving DecidableEq, Repr

/-- The addresses that an absent entry of a level covers (Table 7-2): pages that fault together. -/
def pageSpan (level : Nat) : Nat := [2 ^ 16, 2 ^ 21, 2 ^ 30, 2 ^ 39].getD level (2 ^ 39)

/-- A group parks on pages that are not present (R212): one record for each page, all with one tag. A group that parks again
on the same issue keeps its tag, sets REPLAY and posts only for pages with no outstanding record (R385); the replies that have come answer its records in
the order in which they were posted (log entry 35). With TIP clear the saved TEPC is the faulting instruction (R212); with TIP set the trap
state keeps its own (R374), and the park record alone names the instruction. -/
def park (s : State) (kind : AccKind) (pages : List PageFault) : State :=
  let g := s.g
  let lanes : Mask := pages.foldl (fun m p => m ||| p.lanes) 0
  let va : DWord := BitVec.ofNat 64 ((pages.head?.map (·.va)).getD 0)
  let post (s : State) (tag : BitVec 16) (npg : Nat) (new : List PageFault) : State :=
    new.foldl (fun s x => s.postFault (faultRecord x.va g.ctx tag npg kind x.level g.core x.lanes)) s
  let finish (s : State) (p : Park) : State :=
    (((s.modG fun g => { g with
      wait := .parked, park := some p
      trapState := if g.trapState.tip then g.trapState else { g.trapState with tepc := g.pc } }).release g)).issuerSelect g.core
  match g.park.filter fun p => p.pc == g.pc && p.tip == g.trapState.tip with
  | some p =>
    let open_ := p.pages.drop p.replies
    let new := pages.filter fun x => !open_.contains x.page
    let npg := p.npg + new.length
    let mine (t : FaultTag) : Bool := t.tag == p.tag && t.ctx == g.ctx
    let again (ts : List FaultTag) : List FaultTag :=
      if ts.any mine then ts.map (fun t => if mine t then { t with npg := npg } else t)
      else ts ++ [⟨p.tag, g.ctx, g.core.core, .group g.gid, npg, p.replies, va.toNat, 0, false⟩]
    let s := s.modDie g.core.die fun d => { d with tags := again d.tags }
    finish (post s p.tag npg new) { p with
      npg := npg, pages := p.pages ++ new.map (·.page), vas := p.vas ++ new.map (BitVec.ofNat 64 ·.va), replay := true
      lanes := p.lanes ||| lanes, va := if new.isEmpty then p.va else va }
  | none =>
    let t := s.newTag g.core g.ctx (.group g.gid) pages.length va.toNat
    finish (post t.2 t.1 pages.length pages)
      ⟨t.1, pages.length, 0, g.pc, false, lanes, va, g.trapState.tip, pages.map (·.page), pages.map (BitVec.ofNat 64 ·.va), none⟩

/-! ## Control transfers -/

/-- The check of a control transfer's target: 0x04 for a clear TGT bit, otherwise the fetch's cause (R35, R98). -/
def targetCheck (s : State) (target : DWord) : Option (Nat × Nat) :=
  match s.fetchAt s.g s.g.trapState.mode target with
  | .error e => if e.1 = 0x17 then none else some e
  | .ok (_, line) => if line.tgt (target.toNat % 5) then none else some (0x04, 0)

/-- The page fault of a code address whose walk ends at a level (R212). -/
def fetchFault (target : DWord) (level : Nat) (lanes : Mask) : PageFault := ⟨lineVa target / pageSpan level, lineVa target, level, lanes⟩

/-- A line of code is looked at: where its page translates, the translation is used (R203). -/
def touchCode (s : State) (target : DWord) : State :=
  match s.translate s.g.core (s.regsOf s.g) s.g.trapState.mode .fetch (lineVa target) with
  | .ok l => s.useLeaf s.g.core (s.regsOf s.g) l false
  | .fail .. => s

/-- A failed fetch check at a PC: a park on an absent page, otherwise a trap with the target in TVAL (R98, R202, R212). -/
def fetchFails (s : State) (at_ target : DWord) (cause level : Nat) : State :=
  let s := s.touchCode target
  if cause = 0x08 then s.park .fetch [fetchFault target level s.g.em] else s.trap cause at_ (some target) none

/-- A group that has just been placed enters the slot at its PC (R35, R98, R348). Where the page of the entry is absent the group parks,
and the TGT bit stays to be checked when it goes on. -/
def enterSlot (s : State) : State :=
  let pc := s.g.pc
  match s.targetCheck pc with
  | none => s
  | some (c, lv) => (if c = 0x08 then s.modG fun g => { g with due := .entry } else s).fetchFails pc pc c lv

/-- A transferring instruction goes on only if its target passes (R35, R98). -/
def withTarget (s : State) (target : DWord) (k : State → State) : State :=
  match s.targetCheck target with
  | none => k s
  | some (c, lv) => s.fetchFails s.g.pc target c lv

/-! ## Return from an exception -/

/-- The checks of KRET (R375), made while TIP is still set: on success `k` goes on. -/
def kretChecks (s : State) (k : State → State) : State :=
  let t := s.g.trapState
  match s.translate s.g.core (s.regsOf s.g) t.pmode .fetch (lineVa t.tepc) with
  | .fail 0x08 lv => s.park .fetch [fetchFault t.tepc lv s.g.em]
  | .fail c _ => s.doubleTrap 0x01 c s.g.pc
  | .ok _ => if s.g.stack.length + s.g.spilled < t.saved.depth then s.doubleTrap 0x03 0 s.g.pc else k s

/-- The return itself (R375): PC, MODE, TIP, EM, FMT, S56 to S59, the stack and the stroke of the trap. -/
def kretReturn (s : State) : State :=
  s.modG fun g =>
    let t := g.trapState
    let sv := t.saved
    let extra := g.stack.length + g.spilled - sv.depth
    let resume := t.tcause.getLsbD 8 && t.tepc == sv.pc
    { g with
      pc := t.tepc
      trapState := { t with mode := t.pmode, tip := false }
      em := sv.em &&& g.live
      fmt := sv.fmt
      s := g.s.take 56 ++ sv.s56
      marks := (g.marks.filter fun k => !(sKey 56 ≤ k.reg && k.reg ≤ sKey 59)) ++ sv.marks
      stack := g.stack.drop extra
      spilled := min g.spilled sv.depth
      stroke := if resume then sv.stroke else none }

/-! ## The reconvergence stack -/

/-- The bytes of a stack entry (Table 3-3). -/
def entryBytes (e : StackEntry) : List Byte :=
  leBytes 40 ((e.fmt ++ e.rsv ++ e.kind ++ e.ppc ++ e.pmask ++ e.rmask : BitVec 320)).toNat

/-- FMT as it reads: bits 15:11 are zero (R4, Table 3-1). -/
def fmtOf (n : Nat) : BitVec 16 := BitVec.ofNat 16 n &&& 0x07FF

/-- A stack entry from its bytes. -/
def entryOf (bs : List Byte) : StackEntry :=
  let x : BitVec 320 := BitVec.ofNat 320 (leNat bs)
  ⟨fmtOf (x.extractLsb' 304 16).toNat, x.extractLsb' 258 46, x.extractLsb' 256 2, x.extractLsb' 192 64, x.extractLsb' 96 96, x.extractLsb' 0 96⟩

/-- Where a group's spilled entry `k` lies (Table 13-3): in the area of its slot, or of the record that holds its saved state. -/
def spillAt (frame : Nat) (g : Group) (k : Nat) : Nat := frame + 0x240000 + 40960 * g.rec_.getD g.slot + 40 * k

/-- Depth of a group's stack. -/
def depth (g : Group) : Nat := g.stack.length + g.spilled

/-- A push; when all 16 core entries are occupied the oldest 8 go to the context frame (R86). A context without a known frame
keeps them in the core, which changes no architectural value. -/
def push (s : State) (e : StackEntry) : State :=
  let g := s.g
  match (if 16 ≤ g.stack.length then s.frameOf g.core g.ctx else none) with
  | none => s.modG fun g => { g with stack := e :: g.stack }
  | some f =>
    let old := (g.stack.drop 8).reverse
    let s := (List.range old.length).foldl (fun s i =>
      s.putBytes .pool (spillAt f g (g.spilled + i)) (entryBytes (old.getD i ⟨0, 0, 0, 0, 0, 0⟩))) s
    s.modG fun g => { g with stack := e :: g.stack.take 8, spilled := g.spilled + old.length }

/-- Reads back up to 8 entries when no core entry remains (R86). -/
def refill (s : State) : State :=
  let g := s.g
  if g.stack.isEmpty && g.spilled != 0 then
    match s.frameOf g.core g.ctx with
    | none => s
    | some f =>
      let n := min 8 g.spilled
      let es := (List.range n).map fun i => entryOf (s.bytesAt .pool (spillAt f g (g.spilled - 1 - i)) 40)
      s.modG fun g => { g with stack := es, spilled := g.spilled - n }
  else s

/-- An entry that no operation may pop (R87). An entry whose pending lanes a JOIN or an implicit join takes over is not popped. -/
def StackEntry.malformed (e : StackEntry) : Bool := e.kind == 3 || e.rsv != 0

/-- The group ends (R89, R99): its slot is freed. The rest of what ending does is in the meaning of EXIT. -/
def endGroup (s : State) : State :=
  let g := s.g
  ((s.modG fun g => { g with wait := .ended, em := 0, live := 0, stroke := none }).release g).issuerSelect g.core

/-- Outcome of an implicit join; one that fails has changed nothing (R87, R449). -/
inductive JoinRes where
  | running (s : State)
  | ended (s : State)
  | malformed
  /-- The target's TGT bit is clear or its fetch fails (R449, R98). -/
  | badTarget (cause : Nat) (level : Nat) (target : DWord)

/-- ImplicitJoin (R89), with the checks of R87 and R449; `fuel` bounds the entries popped. -/
def implicitJoin (s : State) : Nat → JoinRes
  | 0 => .ended s
  | n + 1 =>
    if s.g.em != 0 then .running s
    else
      let s := s.refill
      match s.g.stack with
      | [] => .ended s
      | e :: rest =>
        if e.kind = 0 && (e.pmask &&& s.g.live) != 0 then
          match s.targetCheck e.ppc with
          | some (c, lv) => .badTarget c lv e.ppc
          | none =>
            .running (s.modG fun g => { g with
              em := e.pmask &&& g.live, pc := e.ppc, fmt := e.fmt, stack := { e with pmask := 0 } :: rest })
        else if StackEntry.malformed e then .malformed
        else
          let em := e.rmask &&& s.g.live
          if em != 0 then
            match s.targetCheck e.ppc with
            | some (c, lv) => .badTarget c lv e.ppc
            | none => .running (s.modG fun g => { g with
                stack := rest, em := em, fmt := if e.kind != 2 then e.fmt else g.fmt, pc := e.ppc })
          else (s.modG fun g => { g with stack := rest, fmt := if e.kind != 2 then e.fmt else g.fmt }).implicitJoin n

end State

end Sys2Proof.Machine
end

