-- ==== Sys2Proof/Machine/Hazards.lean ====
section
/-! DEFINITION. What each instruction reads and writes, its stroke role (Table 2-6), and the structural and hazard checks of
a stroke (R36 to R43, Tables 2-4 and 2-5, R446, R447). Registers are numbered as in trailer entries: V0 to V255, then 256 + n
for Sn and 320 + n for Pn. What is read of a temporary Tk is numbered 512 + 2k for its low half and 513 + 2k for its high one. -/

namespace Sys2Proof

/-- `n` consecutive V registers; none lies past V255. -/
def vRun (first n : Nat) : List Nat := ((List.range n).map (first + ·)).filter (· < 256)

/-- `n` consecutive S registers; none lies past S63. -/
def sRun (first n : Nat) : List Nat := ((List.range n).map (256 + first + ·)).filter (· < 320)

/-- The registers that an operand reads, and the halves of a temporary. -/
def Operand.keys (wide : Bool) : Operand → List Nat
  | .v n => vRun n.toNat (if wide then 2 else 1)
  | .s n => sRun n.toNat (if wide then 2 else 1)
  | .t k => (512 + 2 * k.toNat) :: (if wide then [513 + 2 * k.toNat] else [])
  | .p n => [320 + n.toNat]
  | _ => []

namespace Fields

/-- The guard predicate, if the guard names one. -/
def guardKey (f : Fields) : List Nat := if f.gpr < 12#4 then [320 + f.gpr.toNat] else []
/-- A and B under the instruction's type. -/
def keysAB (f : Fields) : List Nat := f.a.keys f.ty.is64 ++ f.b.keys f.ty.is64
def keysABC (f : Fields) : List Nat := f.keysAB ++ f.c.keys f.ty.is64
/-- C when bits 95:64 hold a specifier (R58). -/
def keysC (f : Fields) : List Nat := if f.immForm then [] else f.c.keys f.ty.is64
/-- D as a V register or pair. -/
def vD (f : Fields) (wide : Bool) : List Nat := vRun f.d.toNat (if wide then 2 else 1)
/-- D as an S register, pair or block. -/
def sD (f : Fields) (n : Nat) : List Nat := sRun f.d.toNat n
/-- D as a predicate. -/
def pD (f : Fields) : List Nat := [320 + f.d.toNat]
def words (wide : Bool) : Nat := if wide then 2 else 1
/-- V registers that a memory instruction names through D (R216). -/
def memD (f : Fields) : List Nat := vRun f.d.toNat (f.count * f.regsPer)
/-- A run of V registers from operand A. -/
def runA (f : Fields) (n : Nat) : List Nat :=
  match f.a with
  | .v k => vRun k.toNat n
  | o => o.keys false
/-- The virtual base and 32-bit index of Table 7-6. -/
def keysVirt (f : Fields) : List Nat := f.a.keys true ++ f.b.keys false
def keysFlat (f : Fields) : List Nat := f.a.keys false ++ f.b.keys false
/-- The compare value of CAS (R240). -/
def casKeys (f : Fields) (scalar : Bool) : List Nat :=
  if f.atomOp == 8 then (if scalar then sRun else vRun) f.d.toNat (words f.ty.is64) else []
/-- The temporaries that A, B and, where bits 95:64 hold one, C name. -/
def tempNames (f : Fields) (hasC : Bool) : List Nat :=
  let t (o : Operand) : List Nat := match o with
    | .t k => [k.toNat]
    | _ => []
  t f.a ++ t f.b ++ (if hasC then t f.c else [])
/-- Conditions 10 and 11 of a compare do not read A and B (R127, R164). -/
def condFixed (f : Fields) : Bool := f.cond == 10 || f.cond == 11
/-- Operand forms of BRX. -/
def brxKeys (f : Fields) : List Nat := f.a.keys (f.sub.getLsbD 2)

end Fields

namespace Instr

/-- The registers that the entry of an instruction reads, without the guard and the execution mask. `fmt` gives QPK and QUP
their actual runs; `none` gives the runs of Table 5-16. -/
def reads (i : Instr) (fmt : Option (BitVec 16)) : List Nat :=
  match i with
  | .vadd f | .vsub f | .vmul f | .vmulh f | .vmin f | .vmax f => f.keysAB
  | .vmad f | .vlop3 f => f.keysABC
  | .vshf f => f.a.keys f.ty.is64 ++ f.b.keys false ++ f.c.keys f.ty.is64
  | .vbfx f => f.keysAB
  | .vbfi f | .vprm f | .vdot4 f => f.a.keys false ++ f.b.keys false ++ f.c.keys false
  | .vbit f => f.keysAB
  | .vsel f => f.keysAB ++ f.c.keys false
  | .vcmp f | .fcmp f => (if f.condFixed then [] else f.keysAB) ++ (if f.combine = 0 then [] else f.pD)
  | .vmov f => f.b.keys f.ty.is64
  | .plop3 f => f.a.keys false ++ f.b.keys false ++ f.c.keys false
  | .fadd f | .fmul f | .fmin f | .fmax f => f.keysAB
  | .ffma f => f.keysABC
  | .fcls f => f.a.keys f.ty.is64 ++ f.b.keys false ++ (if f.combine = 0 then [] else f.pD)
  | .frnd f => f.b.keys f.ty.is64
  | .fscl f => f.a.keys f.ty.is64 ++ f.b.keys false
  | .fsfn f => f.b.keys false
  | .cvt f => f.b.keys f.srcTy.is64
  | .cvtp f => f.a.keys false ++ f.b.keys false ++ f.c.keys false
  | .qpk f => f.runA (match fmt with
      | some m => qpkRun f.ty m
      | none => if f.ty == .f32 then 8 else 4) ++ f.b.keys false
  | .qpkAmax f => f.a.keys false
  | .qup f => f.runA (match fmt with
      | some m => qupSrcRun m
      | none => 16) ++ f.b.keys false
  | .vaddi f | .vmuli f | .vshfi f | .vmini f | .vmaxi f | .faddi f | .fmuli f => f.a.keys f.ty.is64
  | .vlopi f => f.a.keys false ++ f.b.keys false
  | .vcmpi f | .fcmpi f => (if f.condFixed then [] else f.a.keys f.ty.is64) ++ (if f.combine = 0 then [] else f.pD)
  | .vmovi _ => []
  | .vseli f => f.a.keys f.ty.is64 ++ f.b.keys false
  | .ffmai f => f.keysAB
  | .sadd f | .ssub f | .smul f | .smulh f | .smin f | .smax f | .sdiv f => f.keysAB
  | .slop3 f | .sfma f => f.keysABC
  | .sshf f => f.a.keys f.ty.is64 ++ f.b.keys false ++ f.keysC
  | .sbfx f => f.keysAB
  | .sbit f => f.keysAB
  | .scmp f => f.keysAB ++ (if f.combine = 0 then [] else f.sD 1)
  | .ssel f => f.keysAB ++ f.c.keys false
  | .smov f => f.b.keys f.ty.is64
  | .sadd64 f | .slea f => f.a.keys true ++ f.b.keys false
  | .srds _ => []
  | .scvt f => f.b.keys f.srcTy.is64
  | .brp f | .loop f | .exit f | .sfmt f => f.a.keys false
  | .call f | .waitt f => f.a.keys true
  | .brx f => f.brxKeys
  | .ld f => f.keysVirt
  | .st f => f.keysVirt ++ f.memD
  | .lds f | .ldv f | .ldz f => f.keysFlat
  | .sts f | .stv f | .stz f => f.keysFlat ++ f.memD
  | .sld f => f.a.keys (f.spaceCode == 0) ++ f.b.keys false
  | .sst f => f.a.keys (f.spaceCode == 0) ++ f.b.keys false ++ f.sD (Fields.words f.ty.is64)
  | .prf f | .cctl f | .dscd f => f.keysVirt
  | .atom f => f.keysVirt ++ f.c.keys f.ty.is64 ++ f.casKeys false
  | .atoms f | .atomv f => f.keysFlat ++ f.c.keys f.ty.is64 ++ f.casKeys false
  | .satom f => f.keysVirt ++ f.c.keys f.ty.is64 ++ f.casKeys true
  | .fwt f => f.a.keys false
  | .bar f => f.b.keys false
  | .wtct f => f.sD 2 ++ f.keysFlat
  | .nbr f => f.a.keys f.ty.is64 ++ f.b.keys false ++ f.c.keys f.ty.is64
  | .scan f => f.a.keys f.ty.is64 ++ f.c.keys false
  | .red f => f.a.keys f.ty.is64
  | .vote f => f.a.keys false
  | .bcst f => f.a.keys f.ty.is64 ++ f.b.keys false ++ f.c.keys f.ty.is64
  | .srtk f => f.a.keys f.ty.is64 ++ f.b.keys true ++ f.c.keys false
  | .qsubCfgl f | .qsubCfgs f => f.sD 3
  | .qsubSub f | .cpy f | .tspn f | .jtok f => f.sD 6
  | .scpwVault f | .scpwL2way f | .scpwPinq f | .scpwPeer f => f.sD 2
  | .scpwSlot f => f.sD 6
  | .scpwTask f => f.sD 5
  | .scpwFq f => f.sD 3
  | .scpwFqack f | .scpwStrict f | .scpwSpare f => f.sD 1
  | .qret f | .ewt f => f.a.keys false
  | .cpyt f | .slinSet f => f.sD 2
  | .xput f | .xget f => f.sD 5
  | .xred f => f.sD 7
  | .tsus f => if f.sub.extractLsb' 0 2 == 0#2 then [] else f.sD 3
  | .slinRec f => f.vD true ++ f.a.keys false
  | .slps f => (if f.sub == 1#8 then f.vD true else []) ++ f.a.keys false
  | .sldp f | .slfxRd f => f.a.keys false
  | .slfxPin f => f.b.keys true
  | .slst f => f.b.keys false
  | .jrte f => f.sD 8
  | .jtrnCfg f | .jtrnRply f => f.sD 5
  | .jtrnPart f => f.sD 2
  | .jtrnHost f | .jtrnCkpt f | .jtrnTrunc f => f.sD 4
  | .jtrnSync f => f.sD 1
  | .jrd f => match f.a with
      | .s n => sRun n.toNat 3
      | o => o.keys false
  | .csrw f | .scopetabWrite f => f.a.keys f.csrWide
  | .tlbiPage f => f.a.keys true ++ f.b.keys false
  | .tlbiCtx f | .tlbiPart f => f.b.keys false
  | .swcxLoad f => f.sD 3
  | .swcxArm f => f.sD 2
  | .engr f => f.b.keys false
  | .fltr f | .sigt f => f.sD 3
  | _ => []

/-- The registers and predicates that an instruction writes. -/
def writes (i : Instr) : List Nat :=
  match i with
  | .vadd f | .vsub f | .vmul f | .vmulh f | .vmad f | .vmin f | .vmax f | .vlop3 f | .vshf f | .vsel f | .vmov f
  | .fadd f | .fmul f | .ffma f | .fmin f | .fmax f | .frnd f | .cvt f
  | .vaddi f | .vmuli f | .vshfi f | .vmovi f | .vseli f | .vmini f | .vmaxi f | .faddi f | .fmuli f | .ffmai f
  | .nbr f | .scan f | .bcst f => f.vD f.ty.is64
  | .vbfx f | .vbfi f | .vdot4 f | .vprm f | .fsfn f | .cvtp f | .qpk f | .qpkAmax f | .vlopi f => f.vD false
  | .vbit f => f.vD f.bitWide
  | .fscl f => f.vD f.fsclWide
  | .qup f => vRun f.d.toNat (if f.ty == .f32 then 8 else 4)
  | .vcmp f | .vcmpi f | .fcmp f | .fcmpi f | .fcls f | .plop3 f => f.pD
  | .sadd f | .ssub f | .smul f | .smulh f | .smin f | .smax f | .slop3 f | .sshf f | .ssel f | .smov f | .sdiv f
  | .sfma f | .scvt f => f.sD (Fields.words f.ty.is64)
  | .sbfx f | .scmp f => f.sD 1
  | .sbit f => f.sD (Fields.words f.bitWide)
  | .sadd64 f | .slea f => f.sD 2
  | .srds f => f.sD (Fields.words f.srdsWide)
  | .loop f => f.a.keys false
  | .ld f | .lds f | .ldv f | .ldz f => f.memD
  | .sld f => f.sD (Fields.words f.ty.is64)
  | .atom f | .atoms f | .atomv f => if f.atomReturns then f.vD f.ty.is64 else []
  | .satom f => if f.atomReturns then f.sD (Fields.words f.ty.is64) else []
  | .fnc f => f.sD 1
  | .red f => f.sD (Fields.words f.ty.is64)
  | .vote f => f.sD (if f.voteKind == 3 then 3 else 1)
  | .slfxRd f => f.vD true
  | .slst f | .engr f => f.sD 2
  | .jtrnCkpt f => sRun (f.d.toNat + 4) 2
  | .jrd f => f.sD 8
  | .csrr f => f.sD (Fields.words f.csrWide)
  | .csrw f | .scopetabWrite f => if f.d == 63#8 then [319] else f.sD (Fields.words f.csrWide)
  | .hlt f => f.sD 1
  | _ => []

/-- Deferred instructions (Table 2-6). -/
def isDeferred (i : Instr) : Bool :=
  match i with
  | .ld _ | .lds _ | .ldv _ | .sld _ | .ldz _ | .fsfn _ | .sdiv _ | .nbr _ | .scan _ | .red _ | .vote _ | .bcst _ | .jrd _ => true
  | .atom f | .atoms f | .atomv f | .satom f => f.atomReturns
  | _ => false

/-- Tail instructions (Table 2-6). -/
def isTail (i : Instr) : Bool :=
  match i with
  | .bra _ | .brp _ | .brx _ | .join _ | .call _ | .ret _ | .loop _ | .exit _ | .trap _ | .yld _ | .waitt _ | .kret _
  | .rgrp _ | .srtk _ | .tsus _ | .tend _ | .swcxLoad _ | .swcxArm _ | .swcxCancel _ => true
  | _ => false

def isTrl (i : Instr) : Bool :=
  match i with
  | .trl _ => true
  | _ => false

/-- The registers of a run that count under R447. -/
def inLaunch (i : Instr) (vr : Nat) (ks : List Nat) : List Nat :=
  match i with
  | .qpk _ | .qup _ => ks.filter fun k => k < vr || 256 ≤ k
  | _ => ks

/-- What an instruction reads for the checks and the scoreboard: its operands, its guard and, except TRL, the execution mask
(R446). Of a run of QPK or QUP, V registers at or above the launch's count are left out (R447). -/
def checkReads (i : Instr) (vr : Nat) : List Nat :=
  match i.mainView with
  | none => []
  | some (_, f) => i.inLaunch vr (i.reads none) ++ f.guardKey ++ [316, 317, 318]

def checkWrites (i : Instr) (vr : Nat) : List Nat := i.inLaunch vr i.writes

/-- The temporaries that an instruction names. -/
def tempsOf (i : Instr) : List Nat :=
  match i.mainView with
  | none => []
  | some (_, f) => f.tempNames i.hasC

/-- SRDS selectors 12 and 13, which wait for every earlier instruction of the group (R153). -/
def readsFlags (i : Instr) : Bool :=
  match i with
  | .srds f => f.sub == 12#8 || f.sub == 13#8
  | _ => false

end Instr

namespace Machine

/-- What a reserved encoding reads: the execution mask and its guard (R66, R446). That it does not read the V, S and P registers that its A, B
and C fields would name is the model's reading (log entry 84, DESIGN CHOICE). -/
def reservedReads (w : Slot) : List Nat := [316, 317, 318] ++ (Fields.ofSlot w).guardKey

/-- Whether bits 95:64 of a reserved encoding hold a C specifier by its form (Table 2-8). -/
def formHasC (w : Slot) : Bool :=
  let op := w.extractLsb' 0 8
  op < 0x20#8 || (0xA0#8 ≤ op && op < 0xC0#8) || (0x8D#8 ≤ op && op ≤ 0x90#8) || (0x40#8 ≤ op && op < 0x60#8 && !w.getLsbD 63)

/-- A slot of a stroke as the core decodes it: an instruction, or a reserved encoding, which counts as "Other" (R43). -/
inductive Slotted where
  | inst (i : Instr)
  | reserved (w : Slot)
  deriving DecidableEq, Repr

/-- What a slot holds. -/
def slotted (w : Slot) : Slotted :=
  match decode w with
  | .ok i => .inst i
  | .error _ => .reserved w

def Slotted.reads (vr : Nat) : Slotted → List Nat
  | .inst i => i.checkReads vr
  | .reserved w => reservedReads w
def Slotted.writes (vr : Nat) : Slotted → List Nat
  | .inst i => i.checkWrites vr
  | .reserved _ => []
def Slotted.test (p : Instr → Bool) : Slotted → Bool
  | .inst i => p i
  | .reserved _ => false

/-- Whether the slot is a tail instruction (Table 2-6). An SWCX whose SUB is reserved still has the opcode of SWCX; only a reserved opcode
counts as "Other" (R43). -/
def Slotted.isTail : Slotted → Bool
  | .inst i => i.isTail
  | .reserved w => w.extractLsb' 0 8 == 0xE4#8

/-- The temporaries that the slot names. A reserved encoding names one through its operand specifiers too (log entry 29, DEDUCED). -/
def Slotted.temps : Slotted → List Nat
  | .inst i => i.tempsOf
  | .reserved w => (Fields.ofSlot w).tempNames (formHasC w)

/-- The trailer fields, for a slot that decodes to TRL. -/
def Slotted.trailer? : Slotted → Option Trailer
  | .inst (.trl t) => some t
  | _ => none

/-- The trailer header and list checks of Table 2-4. -/
def Trailer.ok (t : Trailer) : Bool :=
  let n := t.n.toNat
  let named := (t.entries.take n).map (·.toNat)
  t.gpr == 15#4 && !t.gng && t.rsv == 0#3 && n ≤ 8
  && named.all (fun e => e < 332)
  && (t.entries.drop n).all (· == 511#9)
  && named.Nodup

/-- The registers that a trailer names. -/
def Trailer.named (t : Trailer) : List Nat := (t.entries.take t.n.toNat).map (·.toNat)

/-- Positions, within a stroke of decoded slots ending with its trailer or with the 24th slot, at which a check of Table 2-4
fails; the line-word check is made apart. -/
def structFails (is : List Slotted) : List Nat :=
  let n := is.length
  let tails := (List.range n).filter fun k => (is.getD k (.reserved 0)).isTail
  let endsWithTrl := (is.getLast?.map (Slotted.test Instr.isTrl)).getD false
  (if endsWithTrl then [] else [n - 1])
  ++ (match tails with
      | [] => []
      | k :: rest =>
        if (is.getD (k + 1) (.reserved 0)).test Instr.isTrl && rest.isEmpty then [] else [k + 1])
  ++ (match is.getLast?.bind Slotted.trailer? with
      | some t => if Trailer.ok t then [] else [n - 1]
      | none => [])

/-- Whether position `k` fails a hazard check of Table 2-5 other than those on the trailer. -/
def hazardAt (vr : Nat) (is : List Slotted) (k : Nat) : Bool :=
  ((is.getD k (.reserved 0)).temps.any fun t =>
    if k < t + 1 then true
    else match is.getD (k - t - 1) (.reserved 0) with
      | .inst src => src.writes.isEmpty || src.isDeferred || src.isTrl
      | .reserved _ => true)
  || earlyUse vr is k
where
  /-- A destination of an earlier deferred instruction is read or written here. -/
  earlyUse (vr : Nat) (is : List Slotted) (k : Nat) : Bool :=
    let here := is.getD k (.reserved 0)
    let mine := if here.test Instr.isTrl then [] else here.reads vr ++ here.writes vr
    (is.take k).any fun e => e.test Instr.isDeferred && (e.writes vr).any mine.contains

/-- Whether the trailer names every deferred destination of the stroke by its first register (R40), and names only registers that a
deferred instruction writes. -/
def namesAgree (vr : Nat) (is : List Slotted) : Bool :=
  match is.getLast?.bind Slotted.trailer? with
  | none => true
  | some t =>
    let deferred := is.filter (Slotted.test Instr.isDeferred)
    (deferred.filterMap fun e => (e.writes vr).head?).all (Trailer.named t).contains
      && (Trailer.named t).all (deferred.flatMap (Slotted.writes vr)).contains

/-- Positions at which a hazard check of Table 2-5 fails. -/
def hazardFails (vr : Nat) (is : List Slotted) : List Nat :=
  ((List.range is.length).filter (hazardAt vr is)) ++ (if namesAgree vr is then [] else [is.length - 1])

end Machine
end Sys2Proof
end

