-- ==== Sys2Proof/Machine/TaskOps.lean ====
section
/-! DEFINITION. The task unit: finding its state, retrying an attempt, and what poison does in a task (R213, R325, R335). -/

namespace Sys2Proof.Machine

namespace State

/-- The task unit state of a context on a die. -/
def taskUnit (s : State) (die : Nat) (ctx : BitVec 32) : TaskUnit :=
  (s.tasks.find? fun t => t.die == die && t.ctx == ctx).getD (TaskUnit.initial die ctx)

def setTaskUnit (s : State) (u : TaskUnit) : State :=
  if s.tasks.any (fun t => t.die == u.die && t.ctx == u.ctx) then
    { s with tasks := s.tasks.map fun t => if t.die == u.die && t.ctx == u.ctx then u else t }
  else { s with tasks := s.tasks ++ [u] }

def modTaskUnit (s : State) (die : Nat) (ctx : BitVec 32) (f : TaskUnit → TaskUnit) : State :=
  s.setTaskUnit { f (s.taskUnit die ctx) with die := die, ctx := ctx }

/-- A Slalom set of a context on a die, if installed. -/
def slalom? (s : State) (die : Nat) (ctx : BitVec 32) (k : Nat) : Option SlalomSet :=
  (s.taskUnit die ctx).sets.find? (·.k == k)

def modSlalom (s : State) (die : Nat) (ctx : BitVec 32) (k : Nat) (f : SlalomSet → SlalomSet) : State :=
  s.modTaskUnit die ctx fun u => { u with sets := u.sets.map fun x => if x.k == k then f x else x }

/-- The next task identifier of a launch (R327). -/
def newTaskId (s : State) (die : Nat) (ctx : BitVec 32) (launch : Nat) : Word × State :=
  let u := s.taskUnit die ctx
  let id := ((u.ids.find? (·.1 == launch)).map (·.2)).getD 0
  (id, s.setTaskUnit { u with ids := (launch, id + 1) :: u.ids.filter (·.1 != launch) })

/-- Puts something into a queue that is kept in the order of `born` (R326). -/
def insertBorn {α : Type} (born : α → Nat) (x : α) : List α → List α
  | [] => [x]
  | y :: ys => if born x < born y then x :: y :: ys else y :: insertBorn born x ys

/-- The cores that a task's attempts have used, with one more (R335). -/
def usedWith (t : Task) (core : CoreId) : List CoreId := if t.used.contains core then t.used else t.used ++ [core]

/-- The task of a group goes back to its place in its queue for the next attempt (R326, R335). -/
def requeueTask (s : State) (g : Group) (t : Task) : State :=
  let used := usedWith t g.core
  match t.stage with
  | none =>
    s.modTaskUnit g.core.die g.ctx fun u =>
      { u with
        spawned := insertBorn (·.born)
          ⟨t.id, t.entry, t.arg, t.lanes, t.spawner, t.counter, t.attempt + 1, used, g.launch, g.part, t.born⟩ u.spawned
        contins := u.contins.filter (·.gid != g.gid) }
  | some r =>
    s.modTaskUnit g.core.die g.ctx fun u =>
      { u with
        batches := insertBorn (·.born) ⟨t.id, r.set, r.stage, r.recs, t.attempt + 1, used, g.launch, g.part, t.born⟩ u.batches
        contins := u.contins.filter (·.gid != g.gid)
        sets := u.sets.map fun x => if x.k == r.set then { x with retried := x.retried + 1 } else x }

/-- The attempt of a group's task ends and the task starts again (R335). -/
def retryTask (s : State) (gid : Nat) : State :=
  match s.group? gid with
  | none => s
  | some g =>
    match g.task with
    | none => s
    | some t =>
      let s := (s.requeueTask g t).modGroup gid fun x => { x with wait := .ended, em := 0, live := 0, stroke := none, task := none }
      (s.release g).issuerSelect g.core

/-- Whether a trigger of R335 retries the group's attempt: it belongs to a task, and is one of its 1 + RC attempts. -/
def retries (g : Group) : Bool :=
  match g.task with
  | some t => t.attempt ≤ t.rc
  | none => false

/-- A marked lane has been read (R213): a task's attempt is retried, any other group takes cause 0x0C. -/
def poisonTaken (s : State) (va : DWord) (marked : Mask) : State :=
  if retries s.g then s.retryTask s.g.gid else s.trapHere 0x0C (some va) (some marked)

/-- A restored group whose saved state holds an uncorrectable word takes cause 0x18 at its saved PC, with a record (Table 13-6). -/
def restoredBad (s : State) (gid : Nat) : State :=
  match s.group? gid with
  | none => s
  | some g =>
    let s := s.postMcheck 0x02 g.core g.slot g.ctx g.pc 0
    let s := (s.modGroup gid fun g => { g with badSave := false }).focus gid
    (s.trap 0x18 s.g.pc (some 0x02) none).issuerSelect g.core

/-- Groups that have been restored take the check of a bad word. -/
def checkRestored (s : State) (gids : List Nat) : State :=
  gids.foldl (fun s gid => if ((s.group? gid).map (·.badSave)).getD false then s.restoredBad gid else s) s

/-- TVAL of cause 0x10 (R298). -/
def engineTval (sub queue : Nat) : DWord := BitVec.ofNat 64 (sub + 256 * queue)

/-- A precise trap of cause 0x10. -/
def engineTrap (s : State) (sub queue : Nat) : State := s.trapHere 0x10 (some (engineTval sub queue)) none

/-- A precise trap of cause 0x15 (Table 11-8). -/
def slalomTrap (s : State) (set code : Nat) : State := s.trapHere 0x15 (some (BitVec.ofNat 64 (code + 256 * set))) none

/-- An asynchronous error of a group's command (R299): delivered at the group's next point, or logged if the group has ended. -/
def asyncError (s : State) (gid : Nat) (core : CoreId) (ctx : BitVec 32) (sub cause : Nat) (addr pc : DWord) : State :=
  let live := match s.group? gid with
    | some g => g.wait != Wait.ended
    | none => false
  let slot := ((s.group? gid).map (·.slot)).getD 0
  let task := ((s.group? gid).bind (·.task)).map (·.id)
  let s := s.logError core ctx sub 0xFF cause slot (task.getD 0) addr pc
  if live then s.modGroup gid fun g => { g with async := g.async ++ [AsyncErr.mk 0x10 (engineTval sub 0xFF) false] } else s

end State
end Sys2Proof.Machine
end

