-- ==== Sys2Proof/Machine/Issue.lean ====
section
/-! DEFINITION. How an instruction of the main stream issues for the group in `g`: qualifying lanes, the legality and
privilege checks, poisoned operands, and retirement (R65 to R67, R118, R213). -/

namespace Sys2Proof.Machine

/-- The outcome of a meaning. -/
abbrev Out := Host.Outcome State Fault Refusal

/-- The lanes that a guard selects (R66). -/
def Group.guardMask (g : Group) (f : Fields) : Mask :=
  if f.gpr = 15#4 then BitVec.allOnes 96
  else if f.gng then ~~~(g.pget f.gpr.toNat) else g.pget f.gpr.toNat

/-- Qualifying lanes (R66). `once` marks the SC, CT, AE and SY forms, whose guard counts for the whole group when it holds in any lane
of EM. -/
def Group.qual (g : Group) (f : Fields) (once : Bool) : Mask :=
  let q := g.em &&& g.guardMask f
  if once && q != 0 then g.em else q

/-- The offset of NBR, with NB applied in 32 bits (R55, R183). -/
def Group.nbrOffset (g : Group) (f : Fields) : Int :=
  let n : Word := (g.intOperand false f.b 0).setWidth 32
  (if f.nb then -n else n).toInt

/-- Where NBR reads: the position, or `none` outside (R183). -/
def nbrSource (mode extent : Nat) (p : Int) : Option Nat :=
  if 0 ≤ p && p < extent then some p.toNat
  else match mode with
    | 0 => some (p % extent).toNat
    | 1 => some (if p < 0 then 0 else extent - 1)
    | _ => none

/-- The source lane of BCST (R189). -/
def Group.bcstSource (g : Group) (f : Fields) (q : Mask) : Nat :=
  if f.sub.getLsbD 0 then ((lanesOf q).head?).getD 96 else ((g.intOperand false f.b 0).setWidth 32).toNat

/-- The lanes of its own group in which an instruction reads operand A: those that qualify, but for NBR and BCST their sources. -/
def Group.lanesA (g : Group) (i : Instr) (q : Mask) : Mask :=
  match i with
  | .nbr f =>
    let wg := f.sub.getLsbD 4
    let src := (lanesOf q).filterMap fun (l : Nat) =>
      if wg then (if 0 ≤ (l : Int) + g.nbrOffset f && (l : Int) + g.nbrOffset f < 96 then some ((l : Int) + g.nbrOffset f).toNat else none)
      else nbrSource (f.sub.extractLsb' 0 2).toNat 96 ((l : Int) + g.nbrOffset f)
    maskOf src.contains &&& g.live
  | .bcst f => maskOf (· == g.bcstSource f q) &&& g.live
  | _ => q

/-- The register run of operand A where it is read in lanes of its own. -/
def ownKeysA (i : Instr) : List Nat :=
  match i with
  | .nbr f | .bcst f => f.a.keys f.ty.is64
  | _ => []

/-- The marks among the registers and the halves of temporaries that an instruction reads in its lanes (R213); every instruction reads the
execution mask (R446). -/
def Group.marksRead (g : Group) (i : Instr) (q : Mask) : List (Mask × DWord) :=
  let keys := i.reads (some g.fmt) ++ [316, 317, 318]
  let qa := g.lanesA i q
  let own (k : Nat) : Mask := if (ownKeysA i).contains k then qa else q
  let direct := g.marks.filterMap fun (k : Mark) =>
    if !keys.contains k.reg then none
    else if 256 ≤ k.reg then some (q, k.va)
    else if (own k.reg).getLsbD k.lane then some ((1 : Mask) <<< k.lane, k.va) else none
  direct ++ (keys.filter (512 ≤ ·)).flatMap fun k => g.tempMarks ((k - 512) / 2) (k % 2) (own k)

namespace State

/-- Retirement of an instruction: its destination becomes T0 and the PC moves on (R39). -/
def retire (s : State) (i : Instr) : State := s.modG fun g => g.retire (g.resultTemp i.writes)

/-- Retirement of a tail instruction, whose action waits for the trailer (R38). -/
def retireTail (s : State) (t : Tail) : State := s.modG fun g => g.retireTail t

/-- Raises sticky flags of the group (R153). -/
def raise (s : State) (f : FlagSet) : State := s.modG fun g => { g with flags := g.flags ||| f }

/-- A trap of cause 0x00 at the instruction (R67). -/
def illegal (s : State) (q : Mask) : State := s.trapHere 0x00 (some s.g.pc) (some q)

/-- Issue of a main-stream instruction (R65 to R67, R213). With no qualifying lane it retires without effect. So it does where
EM itself is marked, since it reads the lane set alone (log entry 93, DESIGN CHOICE). Otherwise a reserved value takes cause 0x00, then an SY instruction in user mode cause 0x01, then a marked operand cause 0x0C; after that
the instruction's own effect follows. A reserved guard counts every lane of EM as qualifying. -/
def issue (i : Instr) (f : Fields) (once priv : Bool) (body : State → Mask → State) (s : State) : State :=
  let g := s.g
  let q := g.qual f once
  if g.em != 0 && f.gpr != 15#4 && 12#4 ≤ f.gpr then s.illegal g.em
  else if q = 0 then s.retire i
  else if !i.legal || !i.legalUnder g.launch.vregs g.fmt then s.illegal q
  else if priv && !g.trapState.mode then s.trapHere 0x01 none (some q)
  else
    match g.marksRead i q with
    | [] => body s q
    | m :: ms => s.poisonTaken m.2 (ms.foldl (fun acc x => acc ||| x.1) m.1)

/-- An instruction whose whole effect is to write a V register, or pair, of the qualifying lanes (R118). -/
def issueLanes (i : Instr) (f : Fields) (wide : Bool) (val : Group → Nat → DWord) (s : State) : State :=
  s.issue i f false false fun s q => (s.modG fun g => g.vput wide f.d.toNat q (val g)).retire i

/-- The same with sticky flags, which the qualifying lanes raise together (R152, R153). -/
def issueFloat (i : Instr) (f : Fields) (wide : Bool) (val : Group → Nat → DWord × FlagSet) (s : State) : State :=
  s.issue i f false false fun s q =>
    let g := s.g
    ((s.modG fun h => h.vput wide f.d.toNat q fun l => (val g l).1).raise
      ((lanesOf q).foldl (fun acc l => acc ||| (val g l).2) (0 : FlagSet))).retire i

/-- An instruction that writes a predicate by a combine mode (R56, R127). -/
def issuePred (i : Instr) (f : Fields) (val : Group → Nat → Bool × FlagSet) (s : State) : State :=
  s.issue i f false false fun s q =>
    let g := s.g
    let old := g.pget f.d.toNat
    ((s.modG fun h => h.pset f.d.toNat q fun l => combineBit f.combine (old.getLsbD l) (val g l).1).raise
      ((lanesOf q).foldl (fun acc l => acc ||| (val g l).2) (0 : FlagSet))).retire i

/-- The writes of a V register or pair that a deferred result makes (R40, R116). -/
def vWrites (wide : Bool) (r : Nat) (q : Mask) (val : Nat → DWord) (marks : List Mark) : List RegWrite :=
  let part (k lo : Nat) : RegWrite :=
    .v (r + k) q (lanes.map fun l => if q.getLsbD l then (val l).extractLsb' lo 32 else 0)
      (marks.map fun m => { m with reg := r + k })
  part 0 0 :: (if wide then [part 1 32] else [])

/-- The writes of an S register or pair. -/
def sWrites (wide : Bool) (n : Nat) (x : DWord) (marks : List Mark) : List RegWrite :=
  .s n (x.setWidth 32) (marks.map fun m => { m with reg := sKey n })
    :: (if wide then [.s (n + 1) (x.extractLsb' 32 32) (marks.map fun m => { m with reg := sKey (n + 1) })] else [])

/-- Puts a deferred result in flight: its registers stay busy until it completes (R40). -/
def defer (s : State) (i : Instr) (kind : DeferKind) (writes : List RegWrite) (flags : FlagSet) (waits : List Nat)
    (step : Option Nat) (miss : Nat := 0) (far : List (Nat × Mark) := []) : State :=
  let (id, s) := s.fresh
  s.modG fun g => { g with deferred := g.deferred ++ [⟨id, kind, i.writes, writes, flags, waits, step, miss, far⟩] }

/-- An instruction whose whole effect is to write an S register, or pair, and sticky flags (R104). -/
def issueScalar (i : Instr) (f : Fields) (wide : Bool) (val : Group → DWord × FlagSet) (s : State) : State :=
  s.issue i f true false fun s _ =>
    let r := val s.g
    ((s.modG fun g => g.sput wide f.d.toNat r.1).raise r.2).retire i

end State
end Sys2Proof.Machine
end

