-- ==== Sys2Proof/Machine/Quant.lean ====
section
/-! DEFINITION. Blocks, scales and narrow codes: decoding of Q4X, INT4, FP4, E4M3 and E5M2 blocks and the packing of QPK
(R137 to R144, R168 to R171). -/

namespace Sys2Proof.Machine

/-- The exponent of a scale byte, `none` for a NaN scale (R139). -/
def scaleExp (b : Byte) : Option Int := if b.toNat < 63 then some ((b.toNat : Int) - 40) else none

/-- MF for a scale byte whose bits 7:6 are not zero (R139). -/
def scaleFlag (b : Byte) : FlagSet := Flag.when (64 ≤ b.toNat) Flag.mf

/-- Largest code magnitude by NFMT (Table 5-4). -/
def codeMax (nfmt : Nat) : Nat := [448, 57344, 7, 6, 7].getD nfmt 7

/-- `m × 2^e` at most `n × 2^k`. -/
def leScaled (m : Nat) (e : Int) (n : Nat) (k : Int) : Bool :=
  let q := if e ≤ k then e else k
  m * 2 ^ (e - q).toNat ≤ n * 2 ^ (k - q).toNat

/-- ceil(log2(m × 2^e / f)) for positive m and f. -/
def ceilLog2Div (m : Nat) (e : Int) (f : Nat) : Int :=
  let base := (Nat.log2 m : Int) + e - Nat.log2 f
  if leScaled m e f (base - 1) then base - 1 else if leScaled m e f base then base else base + 1

/-- The scale code of an absolute maximum (R143), as QPK.amax and every unit that derives a scale computes it. -/
def scaleOf (nfmt : Nat) (amax : Num) : Byte × FlagSet :=
  match amax with
  | .nan s => (63, Flag.when s Flag.nv)
  | .inf _ => (62, Flag.of)
  | .fin _ m e =>
    if m = 0 then (0, 0)
    else
      let x := 40 + ceilLog2Div m e (codeMax nfmt)
      if x < 0 then (0, Flag.sl) else if 62 < x then (62, Flag.of) else (BitVec.ofNat 8 x.toNat, 0)

/-- Nibble `k` of a byte. -/
def nibble (b : Byte) (k : Nat) : Nat := b.toNat / 16 ^ k % 16

/-- Markers in a byte (R140). -/
def markers (b : Byte) : Nat := (if nibble b 0 = 8 then 1 else 0) + (if nibble b 1 = 8 then 1 else 0)

/-- What the scan of R140 found for each byte of a block. -/
structure Q4Scan where
  /-- The byte has been given up. -/
  g : List Bool
  /-- The byte is malformed and decodes as zero. -/
  z : List Bool
  /-- The byte that holds the byte's outlier. -/
  o : List Nat
  deriving DecidableEq, Repr

/-- One step of the scan (R140). -/
def q4Step (by_ : List Byte) (s : Q4Scan) (i : Nat) : Q4Scan :=
  let n := by_.length
  if s.g.getD i false then s
  else match markers (by_.getD i 0) with
    | 0 => s
    | 1 =>
      let j := if i + 1 < n then i + 1 else i - 1
      if s.g.getD j false || markers (by_.getD j 0) != 0 then { s with z := s.z.set i true }
      else { s with g := s.g.set j true, o := s.o.set i j }
    | _ => { s with z := s.z.set i true }

/-- The scan of R140 over a whole block. -/
def q4Scan (by_ : List Byte) : Q4Scan :=
  let n := by_.length
  (List.range n).foldl (q4Step by_) ⟨List.replicate n false, List.replicate n false, List.replicate n 0⟩

/-- A number times 2^k. -/
def Num.scale (x : Num) (k : Int) : Num :=
  match x with
  | .fin n m e => .fin n m (e + k)
  | y => y

/-- A 4-bit two's complement code as a number. -/
def intCode (c : Nat) : Num := if 8 ≤ c then .fin true (16 - c) 0 else .fin false c 0

/-- The value of element `i` of a block by NFMT, under a scale byte (R140, R141); `scan` is the block's Q4X scan. -/
def blockElem (nfmt : Nat) (by_ : List Byte) (scan : Q4Scan) (scale : Byte) (i : Nat) : Num :=
  match scaleExp scale with
  | none => .nan false
  | some k =>
    let byte (j : Nat) : Byte := by_.getD j 0
    match nfmt with
    | 0 => (FloatFmt.e4m3.unpack (byte i).toNat).scale k
    | 1 => (FloatFmt.e5m2.unpack (byte i).toNat).scale k
    | 2 => (intCode (nibble (byte (i / 2)) (i % 2))).scale k
    | 3 => (FloatFmt.fp4.unpack (nibble (byte (i / 2)) (i % 2))).scale k
    | _ =>
      let j := i / 2
      let c := nibble (byte j) (i % 2)
      if scan.g.getD j false || scan.z.getD j false then .fin false 0 0
      else if c = 8 then (FloatFmt.e4m3.unpack (byte (scan.o.getD j 0)).toNat).scale k
      else (intCode c).scale k

/-- QUP (R171): the words of the block, the word decoded, and the values of its elements; MF by R139 and R140. -/
def qupWord (nfmt : Nat) (words : List Word) (j : Nat) (scale : Byte) : List Num × FlagSet :=
  let by_ := words.flatMap fun w => leBytes 4 w.toNat
  let scan := if nfmt = 4 then q4Scan by_ else ⟨[], [], []⟩
  let per := if nfmt < 2 then 4 else 8
  let elems := (List.range per).map fun i => blockElem nfmt by_ scan scale (j * per + i)
  let bad := nfmt == 4 && ((scan.z.drop (4 * j)).take 4).any id
  (elems, scaleFlag scale ||| Flag.when bad Flag.mf)

/-- One register of a QUP result: an f32, or two bf16 (R171). -/
def qupReg (ty : Ty) (elems : List Num) (k : Nat) : Word :=
  let bits (x : Num) : Nat := (ty.elem.pack .rn false x).bits
  if ty == .f32 then BitVec.ofNat 32 (bits (elems.getD k (.fin false 0 0)))
  else BitVec.ofNat 32 (bits (elems.getD (2 * k) (.fin false 0 0)) + 2 ^ 16 * bits (elems.getD (2 * k + 1) (.fin false 0 0)))

/-- Clamps a code; an out-of-range one sets OF and NX (R168, R169). -/
def clampCode (lo hi v : Int) (exact : Bool) : Int × FlagSet :=
  if v < lo then (lo, Flag.of ||| Flag.nx) else if hi < v then (hi, Flag.of ||| Flag.nx) else (v, Flag.when (!exact) Flag.nx)

/-- A code of a 4-bit integer format (R168, R169); `lo` is −8 for INT4 and −7 for Q4X. -/
def intNarrow (lo : Int) (mode : Rnd) (q : Num) : Int × FlagSet :=
  match q with
  | .nan _ => (0, Flag.nv)
  | .inf n => (if n then lo else 7, Flag.of ||| Flag.nx)
  | .fin n m e =>
    let (v, exact) := roundInt mode n m e
    clampCode lo 7 v exact

/-- A nibble of a signed code. -/
def codeBits (v : Int) : Nat := (v % 16).toNat

/-- An FP4 code (R168). -/
def fp4Narrow (mode : Rnd) (q : Num) : FRes :=
  match q with
  | .nan _ => ⟨0, Flag.nv⟩
  | .inf n => ⟨FloatFmt.fp4.signBit n + 7, Flag.of ||| Flag.nx⟩
  | .fin n m e => FloatFmt.fp4.round mode true n m e

/-- An E4M3 or E5M2 code under R145 and R147. -/
def fp8Narrow (t : FloatFmt) (mode : Rnd) (sat ntz : Bool) (q : Num) : FRes :=
  let r := t.pack mode sat q
  let isNan := match t.unpack r.bits with
    | .nan _ => true
    | _ => false
  if ntz && isNan then ⟨0, r.flags⟩ else r

/-- Rank of an element for the choice of the outlier (R169): NaN above infinity above every finite magnitude. -/
def outRank (x : Num) : Nat :=
  match x with
  | .nan _ => 2 ^ 700
  | .inf _ => 2 ^ 600
  | .fin _ m e => m * 2 ^ (e + 200).toNat

/-- Whether an element qualifies as the outlier (R169). -/
def qualifiesOut (ntz : Bool) (mode : Rnd) (q : Num) : Bool :=
  match q with
  | .nan _ => !ntz
  | .inf _ => true
  | .fin n m e => 7 < (roundInt mode n m e).1.natAbs

/-- The outlier among elements 0 to 5, lowest index on a tie (R169). -/
def pickOutlier (ntz : Bool) (mode : Rnd) (xs qs : List Num) : Option Nat :=
  (List.range 6).foldl (fun best i =>
    if qualifiesOut ntz mode (qs.getD i (.fin false 0 0)) then
      match best with
      | none => some i
      | some b => if outRank (xs.getD b (.fin false 0 0)) < outRank (xs.getD i (.fin false 0 0)) then some i else best
    else best) none

/-- The given-up byte of an outlier (R169). -/
def outlierByte (mode : Rnd) (q : Num) : Nat × FlagSet :=
  match q with
  | .nan s => (0x7F, Flag.when s Flag.nv)
  | .inf n => (FloatFmt.e4m3.signBit n + 0x7E, Flag.of ||| Flag.nx)
  | .fin n m e =>
    let r := FloatFmt.e4m3.round mode true n m e
    if r.bits % 16 = 8 then (r.bits - 1, r.flags ||| Flag.nx) else (r.bits, r.flags)

/-- The Q4X word of eight elements and their quotients (R169). Every NaN that is not the outlier sets NV, one in the given-up byte too (log
entry 33, DEDUCED). -/
def q4xWord (ntz : Bool) (mode : Rnd) (xs qs : List Num) : Nat × FlagSet :=
  let out := pickOutlier ntz mode xs qs
  let zero : Num := .fin false 0 0
  let elem (i : Nat) : Nat × FlagSet :=
    let r := intNarrow (-7) mode (qs.getD i zero)
    (codeBits r.1, r.2)
  let isZero (x : Num) : Bool := match x with
    | .fin _ m _ => m == 0
    | _ => false
  let isNan (x : Num) : Bool := match x with
    | .nan _ => true
    | _ => false
  (List.range 4).foldr (fun b acc =>
    let (w, fl) := acc
    let lo := elem (2 * b)
    let hi := elem (2 * b + 1)
    match out with
    | none => (w * 256 + lo.1 + 16 * hi.1, fl ||| lo.2 ||| hi.2)
    | some e =>
      if b = e / 2 then
        if e % 2 = 0 then (w * 256 + 8 + 16 * hi.1, fl ||| hi.2) else (w * 256 + lo.1 + 16 * 8, fl ||| lo.2)
      else if b = e / 2 + 1 then
        let r := outlierByte mode (qs.getD e zero)
        let x0 := xs.getD (2 * b) zero
        let x1 := xs.getD (2 * b + 1) zero
        (w * 256 + r.1, fl ||| r.2 ||| Flag.when (!isZero x0 || !isZero x1) Flag.nx ||| Flag.when (isNan x0 || isNan x1) Flag.nv)
      else (w * 256 + lo.1 + 16 * hi.1, fl ||| lo.2 ||| hi.2)) (0, 0)

/-- QPK mode 0 (R168, R169): the word of narrow codes of the elements `xs` under a scale byte. -/
def qpkWord (fmt : BitVec 16) (mode : Rnd) (sat : Bool) (xs : List Num) (scale : Byte) : Word × FlagSet :=
  match scaleExp scale with
  | none => (0, Flag.nv ||| scaleFlag scale)
  | some k =>
    let qs := xs.map (·.scale (-k))
    let satN := sat || fmt.getLsbD 9
    let ntz := fmt.getLsbD 10
    let join (w : Nat) (rs : List (Nat × FlagSet)) : Word × FlagSet :=
      (BitVec.ofNat 32 (rs.foldr (fun r acc => acc * 2 ^ w + r.1) 0), rs.foldl (fun f r => f ||| r.2) 0)
    match fmtNfmt fmt with
    | 0 => join 8 (qs.map fun q => let r := fp8Narrow .e4m3 mode satN ntz q; (r.bits, r.flags))
    | 1 => join 8 (qs.map fun q => let r := fp8Narrow .e5m2 mode satN ntz q; (r.bits, r.flags))
    | 2 => join 4 (qs.map fun q => let r := intNarrow (-8) mode q; (codeBits r.1, r.2))
    | 3 => join 4 (qs.map fun q => let r := fp4Narrow mode q; (r.bits, r.flags))
    | _ => let r := q4xWord ntz mode xs qs; (BitVec.ofNat 32 r.1, r.2)

end Sys2Proof.Machine
end

