-- ==== Sys2Proof/Machine/Special.lean ====
section
/-! DEFINITION. The special functions of FSFN (R172, R173). The square root is exact; of the other functions the spec
gives a bound, so the result is `Config.special` wherever that lies inside the bound (log entry 6). -/

namespace Sys2Proof.Machine

/-- Integer square root of a number below 4^k, from the highest bit down. -/
def isqrt (n : Nat) : Nat → Nat → Nat
  | 0, r => r
  | k + 1, r => isqrt n k (if (r + 2 ^ k) * (r + 2 ^ k) ≤ n then r + 2 ^ k else r)

/-- Square root of a positive value, with a last bit that is one when the root is inexact. -/
def sqrtFin (m : Nat) (e : Int) : Nat × Int :=
  let up := 140 - Nat.log2 m
  let up := if (e - up) % 2 = 0 then up else up + 1
  let m := m * 2 ^ up
  let r := isqrt m 72 0
  (2 * r + (if r * r = m then 0 else 1), (e - up) / 2 - 1)

/-- Quotient of two positive numbers at exponent `e`, with a sticky last bit. -/
def divFin (a b : Nat) (e : Int) : Nat × Int :=
  let up := 100 + Nat.log2 b
  let x := a * 2 ^ up
  (2 * (x / b) + (if x % b = 0 then 0 else 1), e - up - 1)

/-- Fraction bits of the fixed-point approximations. -/
abbrev fixBits : Nat := 96

/-- 2^f for a fraction f of 64 bits, in units of 2^-96: the bits of f select factors 2^(2^-i). -/
def exp2Frac (f : Nat) : Nat :=
  ((List.range 64).foldl (fun (acc : Nat × Nat) i =>
    let c := isqrt (acc.2 * 2 ^ fixBits) (fixBits + 1) 0
    (if f.testBit (63 - i) then acc.1 * c / 2 ^ fixBits else acc.1, c)) (2 ^ fixBits, 2 * 2 ^ fixBits)).1

/-- 2^z for z in units of 2^-64, as a significand in units of 2^(k-96) and k. -/
def exp2Fix (z : Int) : Nat × Int := (exp2Frac (z % (2 ^ 64 : Nat)).toNat, z / (2 ^ 64 : Nat))

/-- A value in units of 2^-n, toward −∞, limited to magnitude 4096. -/
def toFix (neg : Bool) (m : Nat) (e : Int) (n : Nat) : Int :=
  let lim : Int := 4096 * 2 ^ n
  let s := e + n
  let x : Int := if 0 ≤ s then (m * 2 ^ (if s ≤ 400 then s.toNat else 400) : Nat) else (m / 2 ^ (-s).toNat : Nat)
  let x := if lim < x then lim else x
  if neg then (if 0 ≤ s || m % 2 ^ (-s).toNat = 0 then -x else -x - 1) else x

/-- log2 e in units of 2^-100. -/
def log2e100 : Nat := 1828833234529184422442202814989
/-- 2π in units of 2^-96. -/
def twoPi96 : Nat := 497805226624462170461043889244

/-- Fraction bits of log2 of a number in [1, 2) in units of 2^-100, by repeated squaring. -/
def log2Frac (y : Nat) : Nat :=
  ((List.range 70).foldl (fun (acc : Nat × Nat) _ =>
    let sq := acc.1 * acc.1 / 2 ^ 100
    if 2 ^ 101 ≤ sq then (sq / 2, 2 * acc.2 + 1) else (sq, 2 * acc.2)) (y, 0)).2

/-- log2 of a positive value, in units of 2^-70. -/
def log2Fix (m : Nat) (e : Int) : Int :=
  let l := Nat.log2 m
  ((l : Int) + e) * (2 ^ 70 : Nat) + log2Frac (m * 2 ^ 100 / 2 ^ l)

/-- sin of an angle in units of 2^-96 of a radian, magnitude below 1. -/
def sinFix (t : Int) : Int :=
  let t2 := t * t / (2 ^ 96 : Nat)
  ((List.range 9).foldl (fun (acc : Int × Int) i =>
    let next := -(acc.2 * t2) / ((2 ^ 96 : Nat) * ((2 * i + 2) * (2 * i + 3) : Nat))
    (acc.1 + next, next)) (t, t)).1

/-- cos of such an angle. -/
def cosFix (t : Int) : Int :=
  let t2 := t * t / (2 ^ 96 : Nat)
  ((List.range 9).foldl (fun (acc : Int × Int) i =>
    let next := -(acc.2 * t2) / ((2 ^ 96 : Nat) * ((2 * i + 1) * (2 * i + 2) : Nat))
    (acc.1 + next, next)) ((2 ^ 96 : Nat), (2 ^ 96 : Nat))).1

/-- sin(2πx) for a finite x, in units of 2^-96, and whether it is exact; `quarter` 1 gives cos. -/
def sinRev (neg : Bool) (m : Nat) (e : Int) (quarter : Nat) : Int × Bool :=
  let den : Nat := if 0 ≤ e then 1 else 2 ^ (-e).toNat
  let num : Int := if 0 ≤ e then 0 else (signed neg m) % (den : Int)
  -- eighths of a turn, then the nearest quarter and the rest
  let q : Int := (8 * num + den) / (2 * den)
  let rest : Int := num * 4 - q * den
  let theta : Int := rest * (twoPi96 : Int) / (4 * den : Nat)
  let exact := rest == 0
  let s := sinFix theta
  let c := cosFix theta
  let one : Int := (2 ^ 96 : Nat)
  (match ((q + quarter) % 4).toNat with
    | 0 => if exact then 0 else s
    | 1 => if exact then one else c
    | 2 => if exact then 0 else -s
    | _ => if exact then -one else -c, exact)

/-- e^-y for y = m × 2^e > 0, as a significand in units of 2^(k-96) and k; never above 1. -/
def expNeg (m : Nat) (e : Int) : Nat × Int :=
  let y := toFix false m e 80
  exp2Fix (-(y * (log2e100 : Int) / (2 ^ 116 : Nat)) - 1)

/-- A bound from above for such a value, in units of 2^-96. -/
def aboveFix (t : Nat) (k : Int) : Nat :=
  let x := t / 2 ^ (-k).toNat
  x + x / 2 ^ 60 + 1

/-- An approximation (−1)^neg × m × 2^e of a function's value, in the binade of the exact result. -/
structure Approx where
  neg : Bool
  m : Nat
  e : Int
  deriving DecidableEq, Repr

/-- An approximation of an irrational value: its last bit says that it is not exact. -/
def Approx.inexact (neg : Bool) (m : Nat) (e : Int) : Approx := ⟨neg, 2 * m + 1, e - 1⟩

/-- tanh of a positive finite value. -/
def tanhApprox (m : Nat) (e : Int) : Nat × Int :=
  if (Nat.log2 m : Int) + e < -8 then
    let u : Int := toFix false (m * m) (2 * e) 96
    let one : Int := (2 ^ 96 : Nat)
    let f := one - u / 3 + 2 * (u * u / one) / 15 - 17 * (u * u / one * u / one) / 315
    (m * f.toNat, e - 96)
  else
    let (t, k) := expNeg (2 * m) e
    let tf := aboveFix t k
    divFin (2 ^ 96 - tf) (2 ^ 96 + tf) 0

/-- 1 / (1 + e^-x) for a nonzero finite value. -/
def sigmApprox (neg : Bool) (m : Nat) (e : Int) : Nat × Int :=
  let (t, k) := expNeg m e
  if neg then divFin t (2 ^ 96 + t / 2 ^ (-k).toNat) k else divFin (2 ^ 96) (2 ^ 96 + aboveFix t k) 0

/-- A sine or a cosine in units of 2^-96 that is not ±1 lies between them, so that an ulp beside it is one below 1. -/
def insideOne (v : Int) : Nat := min v.natAbs (2 ^ 96 - 1)

/-- What Table 5-14 fixes of a function's value: the value itself with its flags, or an approximation with its bound. -/
inductive Special where
  | exact (x : Num) (flags : FlagSet)
  /-- Within `n` ulp of the exact result. -/
  | ulps (a : Approx) (n : Nat)
  /-- Within 2^-22 of the exact result. -/
  | abs (a : Approx)
  deriving DecidableEq, Repr

/-- Table 5-14 for every function but .sqrt. -/
def specialOf (fn : Nat) (x : Num) : Special :=
  let zero := Num.fin false 0 0
  let one := Num.fin false 1 0
  match x with
  | .nan s => .exact (.nan false) (Flag.when s Flag.nv)
  | .inf n =>
    match fn with
    | 0 => .exact (.fin n 0 0) 0
    | 1 | 4 => if n then .exact (.nan false) Flag.nv else if fn = 1 then .exact zero 0 else .exact (.inf false) 0
    | 3 => if n then .exact zero 0 else .exact (.inf false) 0
    | 5 | 6 => .exact (.nan false) Flag.nv
    | 7 => .exact (.fin n 1 0) 0
    | _ => if n then .exact zero 0 else .exact one 0
  | .fin n 0 _ =>
    match fn with
    | 0 | 1 => .exact (.inf n) Flag.dz
    | 3 | 6 => .exact one 0
    | 4 => .exact (.inf true) Flag.dz
    | 5 | 7 => .exact (.fin n 0 0) 0
    | _ => .exact (.fin false 1 (-1)) 0
  | .fin n m e =>
    match fn with
    | 0 => let r := divFin 1 m (-e); .ulps ⟨n, r.1, r.2⟩ 1
    | 1 =>
      if n then .exact (.nan false) Flag.nv
      else let s := sqrtFin m e; let r := divFin 1 s.1 (-s.2); .ulps ⟨false, r.1, r.2⟩ 1
    | 3 =>
      let z := toFix n m e 64
      let r := exp2Fix z
      if 0 ≤ e || m % 2 ^ (-e).toNat = 0 then .exact (.fin false 1 r.2) 0
      else .ulps ⟨false, 2 * r.1 + 1, r.2 - fixBits - 1⟩ 2
    | 4 =>
      if n then .exact (.nan false) Flag.nv
      else
        let v := log2Fix m e
        let a := if m = 2 ^ Nat.log2 m then Approx.mk (v < 0) v.natAbs (-70) else Approx.inexact (v < 0) v.natAbs (-70)
        if v = 0 && m = 2 ^ Nat.log2 m then .exact zero 0
        else if leScaled m e 2 0 && leScaled 1 (-1) m e then .abs a else .ulps a 2
    | 5 | 6 =>
      let v := sinRev n m e (if fn = 5 then 0 else 1)
      -- a small angle keeps its relative precision: sin(2πx) lies next to 2πx
      if fn = 5 && (Nat.log2 m : Int) + e < -40 then .abs (Approx.inexact n (m * twoPi96) (e - 96))
      else if v.2 then .exact (.fin (v.1 < 0) v.1.natAbs (-96)) 0 else .abs (Approx.inexact (v.1 < 0) (insideOne v.1) (-96))
    | 7 => let r := tanhApprox m e; .ulps (Approx.inexact n r.1 r.2) 2
    | _ => let r := sigmApprox n m e; .ulps (Approx.inexact false r.1 r.2) 2

/-- Whether a bit pattern of a format is a finite number within `num × 2^exp` of an approximation. -/
def withinBound (t : FloatFmt) (cand : Nat) (a : Approx) (num : Nat) (exp : Int) : Bool :=
  match t.unpack cand with
  | .fin n m e =>
    let q := if e ≤ a.e then e else a.e
    let q := if q ≤ exp then q else exp
    let d := signed n (m * 2 ^ (e - q).toNat) - signed a.neg (a.m * 2 ^ (a.e - q).toNat)
    d.natAbs ≤ num * 2 ^ (exp - q).toNat
  | _ => false

/-- The exponent of one ulp of a format at an approximation. -/
def ulpExp (t : FloatFmt) (a : Approx) : Int :=
  let top := (Nat.log2 a.m : Int) + a.e
  let low : Int := 1 - (t.bias : Int)
  (if top < low then low else top) - (t.frac : Int)

/-- The f32 result of a function: the free value where it meets the bound, else the rounded approximation (log entry 6). A result that differs
from the rounded one is not exact. -/
def specialF32 (fn : Nat) (x : Nat) : FRes :=
  let pick (a : Approx) (num : Nat) (exp : Int) : FRes :=
    let near := FloatFmt.f32.round .rn false a.neg a.m a.e
    let cand := (Config.special fn (BitVec.ofNat 32 x)).toNat
    if cand ≠ near.bits && withinBound .f32 cand a num exp then ⟨cand, near.flags ||| Flag.nx⟩ else near
  match specialOf fn (FloatFmt.f32.unpack x) with
  | .exact v f => finish .f32 .rn false (v, f)
  | .ulps a n => pick a n (ulpExp .f32 a)
  | .abs a => pick a 1 (-22)

/-- An internal f32 result narrowed to a 16-bit type with nearest-even; an inexact one below the smallest normal value sets UF (R148, R172). -/
def narrowSpecial (t : FloatFmt) (sat : Bool) (r : FRes) : FRes :=
  let y := finish t .rn sat (FloatFmt.f32.unpack r.bits, r.flags)
  ⟨y.bits, y.flags ||| Flag.when (y.flags &&& Flag.nx != 0 && y.bits % 2 ^ (t.width - 1) < 2 ^ t.frac) Flag.uf⟩

/-- The result of a function for a 16-bit type: the free value where it lies within 1 ulp of that type, else the approximation narrowed to f32
to odd and then to nearest-even (R150, R172, R173; log entry 6). -/
def special16 (fn : Nat) (t : FloatFmt) (sat : Bool) (x : Nat) : FRes :=
  let pick (a : Approx) : FRes :=
    let near := narrowSpecial t sat (FloatFmt.f32.round .ro false a.neg a.m a.e)
    let cand := narrowSpecial t sat ⟨(Config.special fn (BitVec.ofNat 32 x)).toNat, Flag.nx⟩
    if cand.bits ≠ near.bits && withinBound t cand.bits a 1 (ulpExp t a) then cand else near
  match specialOf fn (FloatFmt.f32.unpack x) with
  | .exact v f => narrowSpecial t sat (finish .f32 .ro false (v, f))
  | .ulps a _ | .abs a => pick a

/-- FSFN on one element (R172, R173). -/
def specialElem (fn : Nat) (t : FloatFmt) (mode : Rnd) (sat : Bool) (x : Nat) : FRes :=
  let v := t.unpack x
  if fn = 2 then
    match v with
    | .nan s => ⟨t.qnan, Flag.when s Flag.nv⟩
    | .inf n => if n then ⟨t.qnan, Flag.nv⟩ else t.pack mode sat (.inf false)
    | .fin n m e =>
      if m = 0 then ⟨x, 0⟩
      else if n then ⟨t.qnan, Flag.nv⟩
      else let r := sqrtFin m e; t.round mode sat false r.1 r.2
  else
    let wide := (FloatFmt.f32.pack .rn false v).bits
    let sig := Flag.when v.isSig Flag.nv
    if t == .f32 then
      let r := specialF32 fn wide
      finish t .rn sat (FloatFmt.f32.unpack r.bits, r.flags ||| sig)
    else let r := special16 fn t sat wide; ⟨r.bits, r.flags ||| sig⟩

/-- FSFN (R172). -/
def special (fn : Nat) (t : Ty) (mode : Rnd) (sat : Bool) (b : DWord) : DWord × FlagSet :=
  mapElems t fun i => specialElem fn t.elem mode sat (elemOf t b i)

end Sys2Proof.Machine
end

