-- ==== Sys2Proof/Machine/Operands.lean ====
section
/-! DEFINITION. Operand forms: register, temporary, constant and immediate operands with their modifiers (R49 to R55, R58,
R117), and addresses from base, index and displacement (R60). -/

namespace Sys2Proof.Machine.Group

/-- Integer A of a vector or scalar instruction, with AA and NA (R55). -/
def intA (g : Group) (f : Fields) (l : Nat) : DWord := modInt f.ty f.aa f.na (g.intOperand f.ty.is64 f.a l)
/-- Integer B, with NB. -/
def intB (g : Group) (f : Fields) (l : Nat) : DWord := modInt f.ty false f.nb (g.intOperand f.ty.is64 f.b l)
/-- Integer C, with NC. -/
def intC (g : Group) (f : Fields) (l : Nat) : DWord := modInt f.ty false f.nc (g.intOperand f.ty.is64 f.c l)
/-- Floating-point A, with AA and NA (R55). -/
def fltA (g : Group) (f : Fields) (l : Nat) : DWord := modFloat f.ty f.aa f.na (g.fltOperand f.ty f.a l)
/-- Floating-point B, with NB. -/
def fltB (g : Group) (f : Fields) (l : Nat) : DWord := modFloat f.ty false f.nb (g.fltOperand f.ty f.b l)
/-- Floating-point C, with NC. -/
def fltC (g : Group) (f : Fields) (l : Nat) : DWord := modFloat f.ty false f.nc (g.fltOperand f.ty f.c l)

/-- An operand as a 32-bit value. -/
def word (g : Group) (o : Operand) (l : Nat) : Word := (g.intOperand false o l).setWidth 32

/-- B of an SC instruction, immediate or operand, under a type (R54, R58). -/
def scalB (g : Group) (f : Fields) (t : Ty) : DWord :=
  if f.immForm then (if t.isInt then immInt t f.x else immAs t f.x) else g.operand t f.b 0

/-- B of an SC instruction as a 32-bit value. -/
def scalB32 (g : Group) (f : Fields) : Word := if f.immForm then f.x else g.word f.b 0

/-- The rounding mode of an instruction (R53). -/
def rnd (g : Group) (f : Fields) : Rnd := Rnd.ofField f.rm g.fmt

/-! ## Addresses (R60) -/

/-- The shifted index: SUB bits 2:0 shift, bit 3 sign. -/
def index (g : Group) (f : Fields) (l : Nat) : DWord :=
  let x := g.word f.b l
  (if f.sub.getLsbD 3 then x.signExtend 64 else x.setWidth 64) <<< f.kind3

/-- The signed displacement: 32 bits, or 22 bits in an atomic. -/
def disp (f : Fields) (atomic : Bool) : DWord := if atomic then f.hi22.signExtend 64 else f.x.signExtend 64

/-- The address of a lane, modulo 2^64, with a 64-bit or a 32-bit base (R60). -/
def address (g : Group) (f : Fields) (wideBase atomic : Bool) (l : Nat) : DWord :=
  g.intOperand wideBase f.a l + g.index f l + disp f atomic

end Sys2Proof.Machine.Group
end

