-- ==== Sys2Proof/Machine/StorePath.lean ====
section
/-! DEFINITION. The store path: accepting writes and atomics, what holds them back, and performing them (R207 to R209, R225 to
R233, R240 to R242, R360). -/

namespace Sys2Proof.Machine

/-- Bit of a space in a storage mask (R61). -/
def Space.bit : Space → Nat
  | .scr _ => 0 | .acc _ => 1 | .vlt _ _ => 2 | .pool => 3 | .peer _ => 4 | .io => 5

/-- A space inside the core or the die, whose accesses are performed where they are taken (Table 8-1). -/
def Space.isLocal : Space → Bool
  | .scr _ | .acc _ | .vlt _ _ => true
  | _ => false

/-- The new value of an atomic operation (Table 8-5); codes 0 to 8. -/
def atomNew (op : Nat) (ty : Ty) (old data cmp : DWord) : DWord :=
  let w := ty.width
  match op with
  | 0 => if ty.isInt then arith .add ty false old data 0 else (farith .add ty .rn false old data 0).1
  | 1 => arith .min ty false old data 0
  | 2 => arith .max ty false old data 0
  | 3 => old &&& data
  | 4 => old ||| data
  | 5 => old ^^^ data
  | 6 => if data.toNat % 2 ^ w ≤ old.toNat % 2 ^ w then 0 else old + 1
  | 7 => data
  | _ => if old.toNat % 2 ^ w = cmp.toNat % 2 ^ w then data else old

namespace State

/-- Whether an access has not been performed. An I/O write that has reached the ordering point has been, for every scope but `.sys`
(Table 8-1). -/
def outstanding (s : State) (id : Nat) : Bool := s.stores.any fun p => p.id == id && p.effect != .confirm

/-- A fence is open while an access that it orders is not performed (R233); a `.sys` fence waits for I/O writes to be confirmed. -/
def fenceOpen (s : State) (f : Fence) : Bool :=
  f.needs.any fun id => if f.scope = 9 then s.stores.any (·.id == id) else s.outstanding id

/-- The package that homes a location (R23, R232). -/
def homePackage (s : State) (sp : Space) (off : Nat) : Nat :=
  match sp with
  | .pool => 64 * s.vuv + (s.homeOf (off / 65536)).1.val
  | .peer v => 64 * v + (s.homeOf (off / 65536)).1.val
  | _ => s.pkg

/-- Whether a fence orders operations on a location: a hop scope leaves out what is homed beyond its packages (R232). -/
def fenceReaches (s : State) (f : Fence) (sp : Space) (off : Nat) : Bool :=
  match f.hops, sp with
  | some h, .pool | some h, .peer _ => h.getLsbD (s.homePackage sp off)
  | _, _ => true

/-- The release fences that hold back a group's later commands, and its later writes where they reach (R232, R233). -/
def openReleases (s : State) (g : Group) : List Fence := g.fences.filter fun f => f.kind != 1 && s.fenceOpen f

/-- The release fences that hold back a group's later write to a location (R232, R233). -/
def holdTokens (s : State) (g : Group) (sp : Space) (off : Nat) : List Word :=
  ((s.openReleases g).filter fun f => s.fenceReaches f sp off).map (·.token)

/-- Whether an acquire fence keeps a memory instruction on these locations from issuing (R232, R233). -/
def fenceHolds (s : State) (g : Group) (locs : List (Space × Nat)) : Bool :=
  g.fences.any fun f => f.kind != 0 && s.fenceOpen f && locs.any fun l => f.mask.testBit l.1.bit && s.fenceReaches f l.1 l.2

/-- Whether an acquire fence keeps an instruction that acts on the pool lines at some addresses from issuing (R232, R233). -/
def poolHeld (s : State) (g : Group) (offs : List Nat) : Bool := s.fenceHolds g (offs.map fun a => (.pool, a))

/-- Whether an acquire fence keeps an instruction that acts on a whole page from issuing (R232, R233). -/
def pageHeld (s : State) (g : Group) (l : Leaf) : Bool :=
  s.fenceHolds g ((List.range (l.size / 65536)).map fun i => (l.space, l.phys l.va + 65536 * i))

/-- The journal stream of a context on a die (R356). -/
def stream? (s : State) (die : Nat) (ctx : BitVec 32) : Option Stream := s.streams.find? fun x => x.die == die && x.ctx == ctx

def modStream (s : State) (die : Nat) (ctx : BitVec 32) (f : Stream → Stream) : State :=
  { s with streams := s.streams.map fun x => if x.die == die && x.ctx == ctx then f x else x }

/-- G of a write to an EMIT page that enters the store path on a die (R360, R361). -/
def gateOf (s : State) (die : Nat) (ctx : BitVec 32) : Nat := ((s.stream? die ctx).map (·.ji)).getD 0

/-- Whether the journal gate lets a held write go (R360, R361). -/
def gateOpen (s : State) (p : Pending) : Bool :=
  match p.gate with
  | none => true
  | some (ctx, g) => match s.stream? p.core.die ctx with
    | some x => g ≤ x.ja
    | none => false

/-- Puts an access into the store path; the answer is its identifier. -/
def enqueue (s : State) (core : CoreId) (gid : Nat) (sp : Space) (off size : Nat) (e : Effect) (after : List Word)
    (gate : Option (BitVec 32 × Nat)) (entry : Option (Nat × Nat × Nat) := none) : Nat × State :=
  let (id, s) := s.fresh
  (id, { s with stores := s.stores ++ [⟨id, core, gid, sp, off, size, e, after, gate, entry⟩] })

/-- The old value of an atomic reaches its group's deferred result (R241, R242). -/
def returnOld (s : State) (id : Nat) (r : AtomRet) (old : DWord) (bad : Bool) : State :=
  s.modGroup r.gid fun g => { g with deferred := g.deferred.map fun d =>
    if d.id == r.deferId then
      { d with
        waits := d.waits.filter (· != id)
        writes := d.writes ++
          (if r.scalar then sWrites r.wide r.reg old (if bad then [⟨0, 0, r.va⟩] else [])
           else vWrites r.wide r.reg ((1 : Mask) <<< r.lane) (fun _ => old) (if bad then [⟨0, r.lane, r.va⟩] else [])) }
    else d }

/-- Split fields of a frame header (Table 13-4). -/
def frameSplit (s : State) (frame : Nat) : Split :=
  let w := s.wordAt .pool (frame + 0x20) 4
  ⟨w % 16, w / 16 % 32, w / 512 % 32⟩

/-- STATE of a frame header. -/
def frameState (s : State) (frame : Nat) : Nat := s.wordAt .pool (frame + 0x24) 4

/-- Where a byte of a context's scratchpad lies: in the core, or in the frame's image (R313, R381). -/
def scratchAt (s : State) (core : CoreId) (ctx : BitVec 32) (off : Nat) : Space × Nat :=
  let c := s.coreAt core
  let waiting := c.swap.exchange.contains (false, off / 65536)
  let inCore := if c.regs.ctx = ctx then !waiting else c.swap.outgoing == ctx && waiting
  match (if inCore then none else s.frameOf core ctx) with
  | some f => (.pool, f + 0x4C0000 + (s.frameSplit f).regs * 262144 + off)
  | none => (.scr core, off)

/-- Where a byte of a context's accumulator tiles lies (R381). -/
def tileAt (s : State) (core : CoreId) (ctx : BitVec 32) (off : Nat) : Space × Nat :=
  let c := s.coreAt core
  let waiting := c.swap.exchange.contains (true, off / 65536)
  let inCore := if c.regs.ctx = ctx then !waiting else c.swap.outgoing == ctx && waiting
  match (if inCore then none else s.frameOf core ctx) with
  | some f => (.pool, f + 0xC40000 + off)
  | none => (.acc core, off)

/-- Where an access of a group to its core's scratchpad or tiles lies now (R381). -/
def homeOfPending (s : State) (p : Pending) : Space × Nat :=
  match s.group? p.gid with
  | none => (p.space, p.off)
  | some g => match p.space with
    | .scr c => s.scratchAt c g.ctx p.off
    | .acc c => s.tileAt c g.ctx p.off
    | sp => (sp, p.off)

/-- A transaction leaves for an I/O target (R206, R242; log entry 2). -/
def sendIo (s : State) (t : Outbound) : State := { s with fabric := { s.fabric with outbound := s.fabric.outbound ++ [t] } }

/-- Whether an I/O address names a host target while the PCIe link is down or absent: below the launch windows (R420, R421). -/
def hostGone (s : State) (off : Nat) : Bool := s.host.pcieDown && off < 0x000F000000000000

/-- What an RMW reads of its location: data under an earlier key of its group's partition are unpredictable, a free value (R228, R430, log
entry 17). -/
def oldValue (s : State) (p : Pending) (sp : Space) (off n : Nat) : DWord :=
  let part := ((s.group? p.gid).map (·.part)).getD (s.coreAt p.core).regs.part
  if sp == .pool && (List.range n).any fun i => s.isStale part (off + i) then Config.freeBits (s.free + off)
  else BitVec.ofNat 64 (s.wordAt sp off n)

/-- The cores whose L1 may hold older bytes of a location once an access of a group is performed: its own core's, for a write that a release
held back, and the core to which the group has gone since (R227, R233). -/
def staleCores (s : State) (p : Pending) : List CoreId :=
  if p.space != .pool || 64 ≤ p.core.core then []
  else (if p.after.isEmpty then [] else [p.core]) ++
    (match s.group? p.gid with
      | some g => if g.core == p.core then [] else [g.core]
      | none => [])

/-- Their sectors of the location are dropped. -/
def dropStale (s : State) (p : Pending) : State :=
  (s.staleCores p).foldl (fun s c => s.l1Drop c fun sec => overlaps (64 * sec) 64 p.off p.size) s

/-- The partition under whose key an access of the store path is made; the engines' writes name none (R422, R430). -/
def tieOf (s : State) (p : Pending) (sp : Space) (off : Nat) : State :=
  if sp != .pool || 64 ≤ p.core.core then s
  else s.tie (((s.group? p.gid).map (·.part)).getD (s.coreAt p.core).regs.part) off p.size

/-- An access is performed where it lies (R228, R230, R242). A pool write that a release held back leaves no copy in its core's L1. An I/O
write leaves as one transaction, and its confirmation stays to come (R206, Table 8-1); one to a host target while the link is down is lost and
counted (R420, R242). An I/O target's answer to an atomic is a free value, and whether it
rejects the operation is free (log entry 17). -/
def applyEffect (s : State) (p : Pending) : State :=
  match p.effect with
  | .write d =>
    if p.space == .io && s.hostGone p.off then { s with host := { s.host with pcieErrors := s.host.pcieErrors + 1 } }
    else if p.space == .io then
      let s := s.sendIo (.ioWrite p.off d)
      { s with stores := s.stores ++ [{ p with effect := .confirm, after := [], gate := none, entry := none }] }
    else
      let l := s.homeOfPending p
      ((s.dropStale p).putBytes l.1 l.2 d).tieOf p l.1 l.2
  | .confirm => s
  | .rmw op ty data cmp ret =>
    let n := ty.bytes
    if p.space == .io then
      let s := if s.hostGone p.off then s else s.sendIo (.ioAtomic p.off op ty data cmp)
      let (v, s) := s.freeValue
      let (r, s) := s.freeValue
      let rejected := r.getLsbD 0 || s.hostGone p.off
      match ret with
      | some a => s.returnOld p.id a (if ty.is64 then v else (v.setWidth 32).setWidth 64) rejected
      | none => if rejected then { s with host := { s.host with pcieErrors := s.host.pcieErrors + 1 } } else s
    else
      let l := s.homeOfPending p
      let bad := (List.range n).any fun i => s.poisoned l.1 (l.2 + i)
      let old := s.oldValue p l.1 l.2 n
      let s := if bad then s else (s.putWord l.1 l.2 n (atomNew op ty old data cmp).toNat).tieOf p l.1 l.2
      let s := if p.space == .pool && p.core.core < 64 then (s.dropStale p).l1Drop p.core fun sec => sec / 4 == p.off / 256 else s
      match ret with
      | some a => s.returnOld p.id a old bad
      | none => s

/-- Acquire fences that were open before and are complete now invalidate the L1 of their group's core (R233, R234). -/
def acquired (before s : State) : State :=
  before.groups.foldl (fun s g =>
    if g.fences.any fun f => f.clears && before.fenceOpen f && !s.fenceOpen f then s.l1Clear g.core else s) s

/-- An access leaves the store path and is performed. -/
def perform (s : State) (p : Pending) : State :=
  s.acquired (({ s with stores := s.stores.filter (·.id != p.id) }).applyEffect p)

/-- Whether two accesses must be performed in their order of acceptance: the same core's or the same group's on one location, and one
group's to I/O (R227, R231). The writes of a die's engines, which carry core number 64, are unordered (R308). -/
def mustPrecede (q p : Pending) : Bool :=
  q.space == p.space && q.effect != .confirm
    && (((q.core == p.core && q.core.core != 64 || q.gid == p.gid && q.gid != 0) && overlaps q.off q.size p.off p.size)
      || (q.space == .io && q.gid == p.gid))

/-- The accesses accepted before one. -/
def acceptedBefore (p : Pending) : List Pending → List Pending
  | [] => []
  | q :: qs => if q.id == p.id then [] else q :: acceptedBefore p qs

/-- Whether an access may be performed now. -/
def canPerform (s : State) (p : Pending) : Bool :=
  s.gateOpen p
  && !((acceptedBefore p s.stores).any fun q => mustPrecede q p)
  && (match s.group? p.gid with
      | some g => !(g.fences.any fun f => p.after.contains f.token && s.fenceOpen f)
      | none => true)

/-- A group's write or atomic enters the store path (R207, R209, R230). In a space of the core or the die it is performed at once,
unless a release fence or an earlier access of the group in that space holds it. A `.cg` store invalidates the L1 sectors that it covers,
any other updates them (R207), but for one that a release holds back, which the core does not see yet (R233). The answer names the access if
it stays. -/
def accept (s : State) (sp : Space) (off size : Nat) (e : Effect) (emit : Bool) (cg : Bool := false)
    (entry : Option (Nat × Nat × Nat) := none) : Option Nat × State :=
  let g := s.g
  let after := s.holdTokens g sp off
  if sp.isLocal && after.isEmpty && !(s.stores.any fun q => q.gid == g.gid && q.space == sp) then
    let (id, s) := s.fresh
    (none, s.applyEffect ⟨id, g.core, g.gid, sp, off, size, e, [], none, none⟩)
  else
    let gate := if emit then some (g.ctx, s.gateOf g.core.die g.ctx) else none
    let (id, s) := s.enqueue g.core g.gid sp off size e after gate entry
    let s := match sp, e with
      | .pool, .write d => if cg then s.l1Drop g.core fun sec => overlaps (64 * sec) 64 off d.length
          else if after.isEmpty then s.l1Update g.core off d else s
      | .pool, .rmw .. => s.l1Drop g.core fun sec => sec / 4 == off / 256
      | _, _ => s
    (some id, s)

end State

end Sys2Proof.Machine
end

