-- ==== Sys2Proof/Machine/Access.lean ====
section
/-! DEFINITION. Checked accesses of a group: alignment, range, translation, the report of failing lanes, reading with the
caches and a task's write buffer, and buffering in a task (R195 to R197, R202, R206 to R213, R329 to R331, R344, R381). -/

namespace Sys2Proof.Machine

/-- The address spaces of Table 7-1. -/
inductive MemSpace where
  | virt | scr | vlt | acc
  deriving DecidableEq, Repr

/-- A checked location. -/
structure Loc where
  space : Space
  off : Nat
  leaf : Option Leaf
  deriving DecidableEq, Repr

def Loc.emit (l : Loc) : Bool := (l.leaf.map (·.emit)).getD false
def Loc.dead (l : Loc) : Bool := (l.leaf.map (·.dead)).getD false

/-- A failing check: the lanes it stands for, the address, the cause and the level of an absent entry. -/
structure Fail where
  lanes : Mask
  addr : DWord
  code : Nat
  level : Nat
  deriving DecidableEq, Repr

namespace State

/-- Bytes of a core's scratchpad (R17). -/
def scratchSize (s : State) (core : CoreId) : Nat := (s.coreAt core).split.scr * 262144

/-- Check 5 of Table 7-4 for an atomic that I/O pages do not take (R242). -/
def ioAtomicFails (s : State) (g : Group) (a : Nat) : Bool :=
  match s.translate g.core (s.regsOf g) g.trapState.mode .load a with
  | .ok l => l.apt == 2
  | .fail .. => false

/-- The checks of one access of `size` bytes in order (R195, R196, Table 7-4, R361): its location, or the cause and level. `ioOk`
says that an I/O page takes the operation. -/
def checkAccess (s : State) (g : Group) (m : MemSpace) (kind : AccKind) (ioOk : Bool) (size : Nat) (a : DWord) :
    Except (Nat × Nat) Loc :=
  let x := a.toNat
  if x % size ≠ 0 then .error (0x05, 0)
  else match m with
    | .scr => if 2 ^ 23 ≤ x || s.scratchSize g.core < x + size then .error (0x06, 0) else .ok ⟨.scr g.core, x, none⟩
    | .acc => if 2 ^ 22 ≤ x || 48 ≤ x / 65536 then .error (0x06, 0) else .ok ⟨.acc g.core, x, none⟩
    | .vlt =>
      let v := x / 2 ^ 26
      let off := x % 2 ^ 26
      if 2 ^ 30 ≤ x || 12 ≤ v || 0x03000000 < off + size then .error (0x06, 0)
      else if (s.dieAt g.core.die).vaults.getD v none != some (s.regsOf g).part then .error (0x07, 0)
      else .ok ⟨.vlt g.core.die v, off, none⟩
    | .virt =>
      match s.translate g.core (s.regsOf g) g.trapState.mode kind x with
      | .fail c lv => .error (if c = 0x09 && !ioOk && s.ioAtomicFails g x then (0x0A, 0) else (c, lv))
      | .ok l =>
        if l.apt == 2 && !ioOk then .error (0x0A, 0)
        else if kind.isWrite && l.emit && (s.stream? g.core.die g.ctx).isNone then .error (0x16, 0)
        else .ok ⟨l.space, l.phys x, some l⟩

/-- Every check of every qualifying lane (R211): the locations, or the failures in lane order. -/
def checkLanes (s : State) (g : Group) (m : MemSpace) (kind : AccKind) (ioOk : Bool) (size : Nat) (q : Mask) (addr : Nat → DWord) :
    Except (List Fail) (List (Nat × Loc)) :=
  let r := (lanesOf q).map fun l => (l, s.checkAccess g m kind ioOk size (addr l))
  let bad := r.filterMap fun x => match x.2 with
    | .error (c, lv) => some (Fail.mk ((1 : Mask) <<< x.1) (addr x.1) c lv)
    | .ok _ => none
  if bad.isEmpty then .ok (r.filterMap fun x => match x.2 with
    | .ok loc => some (x.1, loc)
    | .error _ => none)
  else .error bad

/-- Order in which the causes of an instruction's lanes are reported (R211, R361). -/
def causeOrder : List Nat := [0x05, 0x06, 0x07, 0x0A, 0x09, 0x16, 0x08]

/-- Adds a failing lane to the pages found so far (Table 7-5). -/
def addPage (ps : List PageFault) (f : Fail) : List PageFault :=
  let page := f.addr.toNat / pageSpan f.level
  if ps.any fun p => p.page == page && p.level == f.level then
    ps.map fun p => if p.page == page && p.level == f.level then { p with va := min p.va f.addr.toNat, lanes := p.lanes ||| f.lanes } else p
  else ps ++ [⟨page, f.addr.toNat, f.level, f.lanes⟩]

/-- Report (R211, R212): the highest cause parks or traps the group; the other lanes' causes are discarded. -/
def report (s : State) (kind : AccKind) (bad : List Fail) : State :=
  match causeOrder.find? fun c => bad.any (·.code == c) with
  | none => s
  | some c =>
    let sel := bad.filter (·.code == c)
    let mask : Mask := sel.foldl (fun m f => m ||| f.lanes) 0
    let first : DWord := (sel.head?.map (·.addr)).getD 0
    if c = 0x08 then s.park kind (sel.foldl addPage [])
    else s.trapHere c (some (if c = 0x16 then 1 else first)) (some mask)

/-- A failing scalar access reports the group's lanes in EM (R220, R244). -/
def reportOnce (s : State) (kind : AccKind) (a : DWord) (c lv : Nat) : State := s.report kind [⟨s.g.em, a, c, lv⟩]

/-- The 64 KiB page through which a location is reached. -/
def locPage (x : Loc) : Option Nat := x.leaf.map fun l => (l.va + (x.off - l.phys l.va)) / 65536

/-- What an instruction's pages that miss in the TLB ask of the walk scheduler: one request for each (R205). -/
def askWalks (s : State) (write mark : Bool) (pages : List Nat) : State :=
  if pages.isEmpty then s
  else
    let g := s.g
    let r := s.regsOf g
    let (n, s) := s.fresh
    (s.modDie g.core.die fun d => { d with
      walks := d.walks ++ pages.map fun p => ⟨.core g.core, r.part, r.ctx, r.ptbase, g.trapState.mode, n, p, write, mark, false, false⟩
      }).startWalks g.core.die

/-- The translations of an access are used: what the TLB lacks is queued to the walk scheduler, and its A, and M for a write, is set
(R203, R205). -/
def useLocs (s : State) (kind : AccKind) (locs : List Loc) : State :=
  let missed := locs.filter fun x => match x.leaf with
    | some l => s.needsWalk s.g.core (s.regsOf s.g) kind.isWrite l.va
    | none => false
  let s := ((missed.filterMap (·.leaf)).eraseDups).foldl (fun s l => s.markLeaf l kind.isWrite) s
  s.askWalks kind.isWrite true ((missed.filterMap locPage).eraseDups)

/-- Whether the walk scheduler has no free entry for a core, which stops the instructions that need translation (R205). -/
def walksFull (s : State) (core : CoreId) : Bool :=
  64 ≤ ((s.dieAt core.die).walks.filter (·.who == Walker.core core)).length

/-- The addresses of an instruction's lanes that reach translation: a misaligned one does not (R196, R202). -/
def translated (m : MemSpace) (size : Nat) (q : Mask) (addr : Nat → DWord) : List Nat :=
  if m == .virt then ((lanesOf q).map fun l => (addr l).toNat).filter fun a => a % size == 0 && canonical a else []

/-- The lanes that miss in the TLB are queued to the walk scheduler, whatever the checks make of them (R205): their walks load the TLB alone. -/
def askLanes (s : State) (kind : AccKind) (as_ : List Nat) : State :=
  s.askWalks kind.isWrite false
    (((as_.filter fun a => (s.tlbHit s.g.core (s.regsOf s.g) a).isNone).map (· / 65536)).eraseDups)

/-- An access of some lanes that fails its checks (R205, R211): it waits for a full walk scheduler, and the lanes that miss ask for their walks. -/
def failLanes (s : State) (m : MemSpace) (kind : AccKind) (size : Nat) (q : Mask) (addr : Nat → DWord) (bad : List Fail) : State :=
  let as_ := translated m size q addr
  if !as_.isEmpty && s.walksFull s.g.core then s else (s.askLanes kind as_).report kind bad

/-- A scalar access that fails (R220, R244). -/
def failOnce (s : State) (m : MemSpace) (kind : AccKind) (size : Nat) (a : DWord) (c lv : Nat) : State :=
  s.failLanes m kind size 1 (fun _ => a) [⟨s.g.em, a, c, lv⟩]

/-- Whether a scratchpad granule or tile of the location still waits to be exchanged after a switch (R381). -/
def unexchanged (s : State) (core : CoreId) (sp : Space) (off size : Nat) : Bool :=
  let ex := (s.coreAt core).swap.exchange
  match sp with
  | .scr c => c == core && ex.any fun e => !e.1 && overlaps off size (65536 * e.2) 65536
  | .acc c => c == core && ex.any fun e => e.1 && e.2 == off / 65536
  | _ => false

/-- Whether an access of a core waits for a clear: of the core itself, of the vault that it goes to, or, for the pool, of a way of its
partition in the die that homes it (R391). -/
def uncleared (s : State) (core : CoreId) (sp : Space) (off : Nat) : Bool :=
  s.clears.contains (.core core) || (match sp with
    | .vlt d v => s.clears.contains (.vault d v)
    | .pool => s.clears.any fun u => match u with
      | .way d p _ => p == (s.coreAt core).regs.part && s.homePackage .pool off == s.pkg && (s.homeOf (off / 65536)).2.1.val == d
      | _ => false
    | _ => false)

/-- Whether an engine's work for a core waits for a clear: of the core, of a vault of its die, or of a way of its partition (R391). -/
def engineUncleared (s : State) (core : CoreId) (part : Byte) : Bool :=
  s.clears.any fun u => match u with
    | .core c => c == core
    | .vault d _ => d == core.die
    | .way _ p _ => p == part

/-- Why an access on these locations cannot issue yet: a full walk scheduler, an acquire fence, a granule not exchanged, what is not cleared for its partition, and, for a read, an atomic of the
group on the location or an earlier I/O write that have not been performed (R205, R208, R231, R233, R381, R391). -/
def stalls (s : State) (read : Bool) (size : Nat) (locs : List Loc) : Bool :=
  let g := s.g
  (locs.any (·.leaf.isSome) && s.walksFull g.core)
  || s.fenceHolds g (locs.map fun l => (l.space, l.off))
  || locs.any (fun l => s.unexchanged g.core l.space l.off size || s.uncleared g.core l.space l.off
      || (read && (s.rmwPending g.gid l.space l.off size || (l.space == .io && s.stores.any fun p => p.gid == g.gid && p.space == .io && p.effect != .confirm))))

/-! ## The coalescer (R210) -/

/-- The sectors that the lanes of an access ask for, by beat: one request for each line, with a mask of its sectors; an I/O access asks for
each lane. Vault, scratchpad and tile accesses ask for nothing. -/
def sectorsAsked (size : Nat) (locs : List (Nat × Loc)) : List (Nat × Space × Nat) :=
  (locs.flatMap fun x =>
    let beat := x.1 / 32
    match x.2.space with
    | .io => [(beat, .io, x.1)]
    | .pool => [(beat, .pool, x.2.off / 64), (beat, .pool, (x.2.off + size - 1) / 64)]
    | .peer v => [(beat, .peer v, x.2.off / 64), (beat, .peer v, (x.2.off + size - 1) / 64)]
    | _ => []).eraseDups

/-- The entries that an access needs (R210): a read none for the sectors that its L1 holds, unless it bypasses L1, nor for a dead page
(R209). -/
def missNeed (s : State) (read bypass : Bool) (size : Nat) (locs : List (Nat × Loc)) : Nat :=
  let g := s.g
  ((sectorsAsked size (locs.filter fun x => !(read && x.2.dead))).filter fun x =>
    !(read && !bypass && x.2.1 == .pool && (s.coreAt g.core).l1.any fun e => e.1 == x.2.2)).length

/-- The miss-status entries of a core that are taken: by loads whose data has not returned, and by stores that the home has not accepted. -/
def missUsed (s : State) (core : CoreId) : Nat :=
  (((s.stores.filter (·.core == core)).filterMap (·.entry)).eraseDups).length
    + ((s.groups.filter (·.core == core)).flatMap fun g => g.deferred.map (·.miss)).sum

/-- Whether an access has to wait for free miss-status entries, of which a core has 512 (R210). -/
def missFull (s : State) (need : Nat) : Bool := need != 0 && decide (512 < s.missUsed s.g.core + need)

/-! ## Reading -/

/-- The byte of the group's write buffer at a location that a lane sees (R331); `none` for the lane in SLD. -/
def bufferedByte (g : Group) (lane : Option Nat) (sp : Space) (off : Nat) : Option Byte :=
  match g.task with
  | none => none
  | some t =>
    t.buffer.foldl (fun acc e =>
      if e.kind ≤ 1 && e.space == sp && e.off == off / 64 * 64 && (t.stage.isNone || some e.lane == lane) then
        (match e.bytes.getD (off % 64) none with
          | some b => some b
          | none => acc)
      else acc) none

/-- A read of one element by a lane, byte by byte: the write buffer first, then zero from a dead page, otherwise memory (R207 to R209, R331).
An I/O page answers each lane with a value of its own, which is free. -/
def readElem (s : State) (g : Group) (lane : Option Nat) (bypass : Bool) (l : Loc) (off n : Nat) : DWord :=
  let answer := Config.freeBits (s.free + 1024 * lane.getD 0 + off % 1024)
  BitVec.ofNat 64 (leNat ((List.range n).map fun i =>
    (bufferedByte g lane l.space (off + i)).getD
      (if l.dead then 0
       else if l.space == .io then answer.extractLsb' (8 * i) 8
       else if s.keyLost l.leaf (off + i) then s.lostByte (off + i)
       else s.viewByte g.core g.gid bypass l.space (off + i))))

/-- Whether a lane's read reaches memory: its page is not dead, and the task's buffer does not give every byte (R209, R331). -/
def reachesMemory (g : Group) (lane : Option Nat) (l : Loc) (off n : Nat) : Bool :=
  !l.dead && (List.range n).any fun i => (bufferedByte g lane l.space (off + i)).isNone

/-- Whether the bytes of an element that memory gives carry an uncorrectable error, or come with a rejected completion (R213, R242, R331,
R420). -/
def elemPoisoned (s : State) (g : Group) (lane : Option Nat) (l : Loc) (off n : Nat) : Bool :=
  !l.dead && (List.range n).any fun i =>
    (bufferedByte g lane l.space (off + i)).isNone && ((l.space == .io && s.hostGone off)
      || ((s.forwarded g.core g.gid l.space (off + i)).isNone && s.poisoned l.space (off + i)))

/-- The lanes of a load that another Vuvosum's packages answer, with the mark each takes where its package is lost (R321). -/
def farLanes (s : State) (va : Nat → DWord) (locs : List (Nat × Loc)) : List (Nat × Mark) :=
  locs.filterMap fun x => match x.2.space with
    | .peer _ => some (s.homePackage x.2.space x.2.off, ⟨0, x.1, va x.1⟩)
    | _ => none

/-- L1 after a read of pool locations: `.ca` and `.cs` allocate the sectors, `.cg` invalidates them (R207). -/
def cacheRead (s : State) (hint size : Nat) (locs : List Loc) : State :=
  let secs := ((locs.filter fun l => l.space == .pool && !l.dead).flatMap fun l => [l.off / 64, (l.off + size - 1) / 64]).eraseDups
  if hint = 2 then s.l1Drop s.g.core secs.contains else secs.foldl (fun s k => s.l1Fill s.g.core k) s

/-- The I/O reads of one instruction: each leaves as one transaction of its own size, in ascending lane order (R206), and draws free
values; none leaves for a host target that is not there (R420). -/
def readIo (s : State) (size : Nat) (locs : List Loc) : State :=
  if locs.any (·.space == .io) then
    { (locs.filter fun l => l.space == .io && !s.hostGone l.off).foldl (fun s l => s.sendIo (.ioRead l.off size)) s with free := s.free + 98304 }
  else s

/-! ## The write buffer of a task -/

/-- Puts bytes of one sector into the buffer, merging with the latest entry of that sector (R330). Where an atomic on some of these bytes
has been buffered since, they go into an entry of their own that carries the sector on, so that a commit performs the writes of a location
in the order of their instructions (R332). -/
def bufferBytes (buf : List BufEntry) (lane stage set : Nat) (loc : Loc) (off : Nat) (data : List Byte) : List BufEntry :=
  let base := off / 64 * 64
  let lay (old : List (Option Byte)) : List (Option Byte) :=
    (List.range 64).map fun i => if off ≤ base + i && base + i < off + data.length then data[base + i - off]? else old.getD i none
  let same (e : BufEntry) : Bool := e.kind ≤ 1 && e.space == loc.space && e.off == base && e.lane == lane
  let atomic (e : BufEntry) : Bool := e.kind == 2 && e.space == loc.space && e.lane == lane
    && e.off < off + data.length && off < e.off + e.ty.bytes
  let last := ((buf.zipIdx).filter fun e => same e.1).getLast?.map (·.2)
  let since := match last with
    | some k => (buf.drop k).any atomic
    | none => false
  match (if since then none else last) with
  | some k => buf.zipIdx.map fun e => if e.2 = k then { e.1 with bytes := lay e.1.bytes } else e.1
  | none =>
    let kind := match loc.space with
      | .vlt .. => 1
      | _ => 0
    buf ++ [⟨kind, lane, stage, set, loc.space, base, loc.emit, lay (List.replicate 64 none), 0, .n8, 0, [], false, since, none⟩]

/-- Owner lane, stage and set that the entries of a task carry (Table 11-2). -/
def bufferOwner (t : Task) (lane : Nat) : Nat × Nat × Nat :=
  match t.stage with
  | some r => (lane, r.stage, r.set)
  | none => (0xFF, 0, 0)

/-- Installs a grown buffer, or takes the trap of a full one (R330). -/
def growBuffer (s : State) (buf : List BufEntry) (k : State → State) : State :=
  if 128 < BufEntry.count buf then s.engineTrap 0x32 0xFF
  else k (s.modG fun g => { g with task := g.task.map fun t => { t with buffer := buf } })

/-- What R344 forbids a stage task to write from these lanes; `k` goes on. -/
def stageMay (s : State) (t : Task) (lanes : List Nat) (k : State → State) : State :=
  match t.stage with
  | none => k s
  | some r =>
    let cls := ((s.slalom? s.g.core.die s.g.ctx r.set).bind fun x => x.stages[r.stage]?.map (·.sec)).getD 0
    if cls = 0 || lanes.any (r.recs.length ≤ ·) then s.slalomTrap r.set 0x06 else k s

/-- What a stage task may never do (R344); `k` goes on in any other group. -/
def notInStage (s : State) (k : State → State) : State :=
  match s.g.task.bind (·.stage) with
  | some r => s.slalomTrap r.set 0x06
  | none => k s

end State
end Sys2Proof.Machine
end

