-- ==== Sys2Proof/Machine/AtomicOps.lean ====
section
/-! DEFINITION. Atomic instructions and the completion of deferred results (R40, R99, R239 to R244, R329). -/

namespace Sys2Proof.Machine

/-- The operations that an I/O page takes as PCIe AtomicOps (R242). -/
def ioAtomicOk (f : Fields) : Bool :=
  (f.ty.width == 32 || f.ty.width == 64) &&
  ((f.atomKind == 0 && f.ty.isInt) || f.atomOp == 7 || f.atomOp == 8)

/-- The data of an atomic, C with NC applied (R239). -/
def atomData (g : Group) (f : Fields) (l : Nat) : DWord := if f.ty.isInt then g.intC f l else g.fltC f l

namespace State

/-- ATOM, ATOMS and ATOMV (R241). -/
def atomLanes (i : Instr) (f : Fields) (m : MemSpace) (s : State) : State :=
  s.issue i f false false fun s q =>
    let g := s.g
    let e := f.ty.bytes
    let addr := g.address f (m == .virt) true
    match s.checkLanes g m .atomic (m != .virt || ioAtomicOk f) e q addr with
    | .error bad => s.failLanes m .atomic e q addr bad
    | .ok locs =>
      let ls := locs.map (·.2)
      if s.stalls false e ls then s
      else
        match (if f.atomReturns || m == .scr then none else g.task) with
        | some t =>
          s.stageMay t (locs.map (·.1)) fun s =>
            s.growBuffer (t.buffer ++ locs.map fun x =>
              let o := bufferOwner t x.1
              ⟨2, o.1, o.2.1, o.2.2, x.2.space, x.2.off, x.2.emit, [], f.atomKind, f.ty, atomData g f x.1, [], false, false, none⟩)
              fun s => (s.useLocs .atomic ls).retire i
        | none =>
          let s := s.useLocs .atomic ls
          let id := s.nextId
          let s := if f.atomReturns then s.defer i .atomic [] 0 [] none else s
          let r := locs.foldl (fun (acc : List Nat × State) x =>
            let ret := if f.atomReturns then some (AtomRet.mk g.gid id f.d.toNat x.1 f.ty.is64 false (addr x.1)) else none
            let a := acc.2.accept x.2.space x.2.off e
              (.rmw f.atomKind f.ty (atomData g f x.1) (g.vval f.ty.is64 f.d.toNat x.1) ret) x.2.emit
            (acc.1 ++ a.1.toList, a.2)) ([], s)
          (r.2.modG fun g => { g with deferred := g.deferred.map fun d => if d.id == id then { d with waits := r.1 } else d }).retire i

end State

/-- ATOM (R241). -/
def execAtom (f : Fields) (s : State) : Out := .next (s.atomLanes (.atom f) f .virt)
/-- ATOMS (R241). -/
def execAtoms (f : Fields) (s : State) : Out := .next (s.atomLanes (.atoms f) f .scr)
/-- ATOMV (R241). -/
def execAtomv (f : Fields) (s : State) : Out := .next (s.atomLanes (.atomv f) f .vlt)

/-- SATOM (R244). -/
def execSatom (f : Fields) (s : State) : Out :=
  .next (s.issue (.satom f) f false false fun s _ => s.notInStage fun s =>
    let g := s.g
    let a := g.address f true true 0
    let e := f.ty.bytes
    match s.checkAccess g .virt .atomic (ioAtomicOk f) e a with
    | .error (c, lv) => s.failOnce .virt .atomic e a c lv
    | .ok loc =>
      if s.stalls false e [loc] then s
      else
        let data := atomData g f 0
        match (if f.atomReturns then none else g.task) with
        | some t =>
          s.growBuffer (t.buffer ++ [⟨2, 0xFF, 0, 0, loc.space, loc.off, loc.emit, [], f.atomKind, f.ty, data, [], false, false, none⟩])
            fun s => (s.useLocs .atomic [loc]).retire (.satom f)
        | none =>
          let s := s.useLocs .atomic [loc]
          let id := s.nextId
          let s := if f.atomReturns then s.defer (.satom f) .atomic [] 0 [] none else s
          let ret := if f.atomReturns then some (AtomRet.mk g.gid id f.d.toNat 0 f.ty.is64 true a) else none
          let r := s.accept loc.space loc.off e (.rmw f.atomKind f.ty data (g.sval f.ty.is64 f.d.toNat) ret) loc.emit
          (r.2.modG fun g => { g with deferred := g.deferred.map fun d =>
            if d.id == id then { d with waits := r.1.toList } else d }).retire (.satom f))

/-! ## Deferred results -/

/-- One register write of a deferred result; a lane that has exited keeps its value (R99), and poison marks come with the data
(R213). -/
def Group.applyWrite (g : Group) (w : RegWrite) : Group :=
  match w with
  | .v r lanes vals marks =>
    let m := lanes &&& g.live
    let g := g.vset r m fun l => vals.getD l 0
    { g with marks := g.marks ++ marks.filter fun k => m.getLsbD k.lane }
  | .s n x marks =>
    let g := g.sset n x
    { g with marks := g.marks ++ marks.filter fun k => k.reg != sKey 63 }

/-- A deferred result with nothing left to wait for is written, its flags are raised and its registers are free (R40, R153). -/
def Group.complete (g : Group) (d : Deferred) : Group :=
  let g := d.writes.foldl Group.applyWrite g
  { g with flags := g.flags ||| d.flags, deferred := g.deferred.filter (·.id != d.id) }

/-- DEFERRED_RESULT (R40, R211): the deferred result of an identifier completes, wherever its group is. -/
def execDeferredResult (gid k : Nat) (s : State) : Out :=
  .next (match (s.group? gid).bind fun g => g.deferred.find? (·.id == k) with
    | some d => if d.waits.isEmpty && d.step.isNone then s.modGroup gid fun g => g.complete d else s
    | none => s)

end Sys2Proof.Machine
end

