-- ==== Sys2Proof/Machine/Sync.lean ====
section
/-! DEFINITION. Fences, barriers and waits (R231 to R238, R245 to R255). -/

namespace Sys2Proof.Machine

namespace State

/-- Whether a scope's extent, taken from a group, lies within one core (Table 8-1). -/
def withinCore (s : State) (g : Group) (scope : Nat) : Bool :=
  scope == 0 || scope == 2 || (scope == 1 && !(s.wgOf g.wid).quadwg)

/-- Whether an access in the store path is one that a fence or barrier of a scope has to wait for (Table 8-1, R232): within one core a pool
write has been performed when it is accepted, unless a release holds it back, an RMW has not; an I/O write at its ordering point is still waited for by `.sys` alone. -/
def counts (s : State) (g : Group) (scope : Nat) (p : Pending) : Bool :=
  let isWrite := match p.effect with
    | .write _ => true
    | _ => false
  if p.effect == .confirm then scope == 9
  else if p.space == .pool && isWrite && p.after.isEmpty && s.withinCore g scope then false
  else if 10 ≤ scope then
    match p.space with
    | .pool | .peer _ => ((s.regsOf g).hops.getD (scope - 10) 0).getLsbD (s.homePackage p.space p.off)
    | _ => true
  else true

/-- The accesses in the store path that a group's release orders, as a scope and a storage mask select them: its own, and those of its core
that an acquire has ordered before them (R233, R235). -/
def ownPending (s : State) (g : Group) (scope mask : Nat) : List Nat :=
  (s.stores.filter fun p => (p.gid == g.gid || g.seen.contains p.id) && mask.testBit p.space.bit && s.counts g scope p).map (·.id)

/-- The group's atomics in the store path, whose reads an acquire orders (Table 8-2): a hop scope orders none that is homed beyond its
packages (R232). -/
def ownAtomics (s : State) (g : Group) (scope : Nat) : List Nat :=
  (s.stores.filter fun p => p.gid == g.gid && s.counts g scope p && (match p.effect with
    | .rmw .. => true
    | .write _ | .confirm => false)).map (·.id)

/-- What an acquire lets a group observe before it is performed (R234, R235): the other groups' accesses to the pool that its core has
accepted. A later release of the group carries them. -/
def acceptedHere (s : State) (g : Group) : List Nat :=
  (s.stores.filter fun p => p.core == g.core && p.gid != g.gid && p.space == .pool).map (·.id)

/-- A group after it has acquired (R235). -/
def afterAcquire (s : State) (g : Group) : Group := { g with seen := (s.acceptedHere g ++ g.seen.filter s.outstanding).eraseDups }

/-- The issuing group acquires (R235). -/
def acquire (s : State) : State := s.modG s.afterAcquire

/-- What a fence of a kind waits for (R233): a release for earlier accesses in M, an acquire for earlier reads in any space. -/
def fenceNeeds (s : State) (g : Group) (scope kind mask : Nat) : List Nat :=
  (if kind = 1 then [] else s.ownPending g scope mask) ++ (if kind = 0 then [] else s.ownAtomics g scope)

/-! ## Barriers -/

/-- The groups of this package that are members of a group's barrier of a scope (Table 8-7). A task that started after the grid was placed
is no member beyond its own workgroup (R250). -/
def barMember (g : Group) (scope : Nat) (x : Group) : Bool :=
  let same := x.launch.launch == g.launch.launch && x.ctx == g.ctx && x.task.isNone
  match scope with
  | 1 => x.wid == g.wid
  | 2 => same && x.placed == g.placed
  | 3 => same && x.placed.die == g.placed.die && x.placed.core / 4 == g.placed.core / 4
  | 4 => same && x.placed.die == g.placed.die
  | 8 => g.launch.linked.isSome && x.launch.linked == g.launch.linked && x.task.isNone
  | _ => same

def bar (g : Group) (scope : Nat) : BarArrival := g.bars.getD (scope - 1) ⟨false, 0, [], [], none⟩

def setBar (g : Group) (scope : Nat) (b : BarArrival) : Group := { g with bars := g.bars.set (scope - 1) b }

/-- Whether every member in this package has arrived in the current phase or has ended (R252). -/
def barFull (s : State) (g : Group) (scope : Nat) : Bool :=
  (s.groups.filter (barMember g scope)).all fun x => x.wait == Wait.ended || (bar x scope).arrived

/-- A phase completes: what the members' arrivals have to wait for becomes the release (R252, R253). -/
def completeBar (s : State) (g : Group) (scope : Nat) : State :=
  let release := ((s.groups.filter (barMember g scope)).flatMap fun x => (bar x scope).needs).eraseDups
  s.modGroups (barMember g scope) fun x =>
    let b := bar x scope
    setBar x scope { b with arrived := false, phase := b.phase + 1, needs := [], release := release }

/-- A phase that is logically complete, and whose members are all in the package, is completed before the next arrival. -/
def settleBar (s : State) (scope : Nat) : State :=
  if scope ≤ 5 && (bar s.g scope).arrived && s.barFull s.g scope then s.completeBar s.g scope else s

/-- The acquire half of a barrier's wait (R253): the group goes on once the arrivals' accesses are performed, and L1 is
invalidated for a scope wider than the core. -/
def barPass (s : State) (i : Instr) (scope : Nat) (ctl : Bool) : State :=
  let s := if ctl then s else if s.withinCore s.g scope then s.acquire else (s.l1Clear s.g.core).acquire
  (s.modG fun g => setBar g scope { bar g scope with at_ := none }).retire i

/-- Whether the wait of an unnumbered barrier is over. -/
def barDone (s : State) (g : Group) (scope : Nat) (ctl : Bool) : Bool :=
  let b := bar g scope
  !b.arrived && (ctl || !(b.release.any s.outstanding))

/-- A trap of cause 0x14 (Table 8-8). -/
def barTrap (s : State) (tval : Nat) : State := s.trapHere 0x14 (some (BitVec.ofNat 64 tval)) none

/-- An unnumbered BAR (R251 to R253). -/
def barUnnumbered (s : State) (i : Instr) (scope kind : Nat) (ctl : Bool) : State :=
  let g0 := s.g
  if scope != 1 && (!g0.launch.coresident || (scope == 8 && g0.launch.linked.isNone)) then s.barTrap 0x31
  else
    let s := s.settleBar scope
    let g := s.g
    let b := bar g scope
    let waiting (s : State) : State :=
      if s.barDone s.g scope ctl then s.barPass i scope ctl else s.waitOn (.bar scope)
    if kind = 2 || b.at_ == some g.pc then waiting s
    else if b.arrived then s.barTrap 0x33
    else
      let needs := if ctl then [] else s.ownPending g scope 63
      let s := s.modG fun g => setBar g scope { b with arrived := true, needs := needs, at_ := if kind = 0 then some g.pc else none }
      if kind = 1 then s.retire i else waiting s

/-! ### Numbered barriers -/

def nbar (w : Workgroup) (b : Nat) : NumBar := w.nbars.getD b ⟨0, 0, none, 0, [], [], []⟩

/-- A numbered phase completes when its count reaches E (R254). -/
def nbarFull (n : NumBar) : Bool := 0 < n.count && n.count == n.expect

/-- What the release of a completed phase waits for (R253, R254). -/
def nbarRelease (n : NumBar) (phase : Nat) : List Nat := (n.releases.filter (·.1 == phase)).flatMap (·.2)

/-- A phase completes (R254). -/
def NumBar.complete (n : NumBar) : NumBar :=
  { n with
    count := 0, expect := 0, seq := none, phase := n.phase + 1, needs := []
    releases := if n.needs.isEmpty then n.releases else (n.phase, n.needs) :: n.releases
    seqPhases := match n.seq with
      | some m => (n.phase, m) :: n.seqPhases
      | none => n.seqPhases }

/-- Completes a numbered phase that has reached its count. -/
def settleNbar (s : State) (wid b : Nat) : State :=
  if nbarFull (nbar (s.wgOf wid) b) then s.modWg wid fun w => { w with nbars := w.nbars.set b (NumBar.complete (nbar w b)) } else s

/-- Whether the wait of a group for its latest arrival is over. -/
def nbarDone (s : State) (g : Group) (b : Nat) (ctl : Bool) : Bool :=
  let n := nbar (s.wgOf g.wid) b
  match (g.nbars.getD b ⟨none, none⟩).phase with
  | none => true
  | some p => p < n.phase && (ctl || !((nbarRelease n p).any s.outstanding))

/-- What the completed wait of a group brings from the sequencer that arrived in the phase (R263, R264): its flags, and after an MWT an
acquire at the quad, which invalidates L1. -/
def seqRelease (s : State) (b : Nat) (ph : Option Nat) : State :=
  let w := s.wgOf s.g.wid
  match ph.bind fun p => (nbar w b).seqPhases.find? (·.1 == p) with
  | some x =>
    let s := if x.2 then s.l1Clear s.g.core else s
    s.raise ((w.seq.map (·.sflg)).getD 0)
  | none => s

/-- The completion of a group's wait on a numbered barrier (R253, R254, R263, R264). -/
def nbarPass (s : State) (i : Instr) (b : Nat) (ctl : Bool) : State :=
  let me := s.g.nbars.getD b ⟨none, none⟩
  let s := if ctl then s else if s.withinCore s.g 1 then s.acquire else (s.l1Clear s.g.core).acquire
  let s := s.seqRelease b me.phase
  (s.modG fun g => { g with nbars := g.nbars.set b { me with at_ := none } }).retire i

/-- A numbered BAR (R254). -/
def barNumbered (s : State) (i : Instr) (b kind e : Nat) (ctl : Bool) : State :=
  let s := s.settleNbar s.g.wid b
  let g := s.g
  let me := g.nbars.getD b ⟨none, none⟩
  let waiting (s : State) : State := if s.nbarDone s.g b ctl then s.nbarPass i b ctl else s.waitOn (.nbar b)
  if kind = 2 || me.at_ == some g.pc then waiting s
  else
    let n := nbar (s.wgOf g.wid) b
    if e = 0 || 65 < e || (0 < n.count && n.expect != e) then s.barTrap 0x32
    else
      let needs := if ctl then [] else s.ownPending g 5 63
      let s := s.modWg g.wid fun w =>
        { w with nbars := w.nbars.set b { n with count := n.count + 1, expect := e, needs := n.needs ++ needs } }
      let s := s.modG fun g => { g with nbars := g.nbars.set b ⟨some n.phase, if kind = 0 then some g.pc else none⟩ }
      if kind = 1 then s.retire i else waiting s

/-! ## WTCT -/

/-- The comparison of R255. -/
def reached (x t : DWord) : Bool := !(x - t).getLsbD 63

/-- A queue of a context on a core (R300). -/
def queueOf (s : State) (core : CoreId) (ctx : BitVec 32) (q : Nat) : Queue :=
  (s.fabric.queues.find? fun x => x.core == core && x.ctx == ctx && x.q == q).getD (Queue.initial core ctx q)

/-- The condition of WTCT.q on a queue: an error, or whether WP has reached the target. -/
def queueReached (x : Queue) (t : DWord) : Bool := reached (BitVec.ofNat 64 x.wp) t

/-- The counter that WTCT.scr reads. -/
def counterAt (s : State) (g : Group) (off : Nat) : DWord :=
  BitVec.ofNat 64 (leNat (s.viewBytes g.core g.gid true (.scr g.core) off 8))

end State

/-- FNC (R233, R248). -/
def execFnc (f : Fields) (s : State) : Out :=
  .next (s.issue (.fnc f) f false false fun s q =>
    let g := s.g
    if 10 ≤ f.scope && !g.trapState.mode then s.trapHere 0x01 none (some q)
    else if g.fc - g.fd = 16 then s.waitOn .fnc
    else
      let mask := match f.b with
        | .int n => n.toNat
        | _ => 0
      let acq := f.syncKind != 0
      let clears := acq && mask.testBit 3 && !s.withinCore g f.scope
      let hops := if 10 ≤ f.scope then some ((s.regsOf g).hops.getD (f.scope - 10) 0) else none
      let fence : Fence := ⟨g.fc + 1, f.scope, f.syncKind, mask, s.fenceNeeds g f.scope f.syncKind mask, hops, clears⟩
      let s := if clears then s.l1Clear g.core else s
      let s := if acq then s.acquire else s
      (s.modG fun g => ({ g with fc := g.fc + 1, fences := g.fences ++ [fence] }).sset f.d.toNat (g.fc + 1)).retire (.fnc f))

/-- Whether the condition of FWT holds (R249). -/
def fwtDone (g : Group) (t : Option Word) : Bool :=
  match t with
  | none => g.fd == g.fc
  | some t => t == 0 || !(g.fd - t).getLsbD 31

/-- FWT (R249). -/
def execFwt (f : Fields) (s : State) : Out :=
  .next (s.issue (.fwt f) f false false fun s _ =>
    let g := s.g
    let t := if f.sub.getLsbD 0 then none else some (g.word f.a 0)
    let future := match t with
      | some t => t != 0 && (g.fc - t).getLsbD 31
      | none => false
    if future then s.barTrap 0x30
    else if fwtDone g t then s.retire (.fwt f)
    else s.waitOn (.fwt t))

/-- BAR (R251 to R254). -/
def execBar (f : Fields) (s : State) : Out :=
  .next (s.issue (.bar f) f false false fun s _ =>
    let ctl := f.sub.getLsbD 7
    if f.barNumbered then
      let b := match f.a with
        | .int n => n.toNat
        | _ => 0
      s.barNumbered (.bar f) b f.syncKind (s.g.word f.b 0).toNat ctl
    else s.barUnnumbered (.bar f) f.scope f.syncKind ctl)

/-- WTCT (R255, R306); it acquires at the core (R237). -/
def execWtct (f : Fields) (s : State) : Out :=
  .next (s.issue (.wtct f) f false false fun s _ =>
    let g := s.g
    let t := g.sval true f.d.toNat
    if f.syncKind = 1 then
      let q := (g.word f.a 0).toNat
      let x := s.queueOf g.core g.ctx q
      match x.state with
      | .unconfigured => s.barTrap 0x34
      | .error => s.engineTrap x.err q
      | _ => if State.queueReached x t then s.acquire.retire (.wtct f) else s.waitOn (.wtctQ q t)
    else
      let a := g.address f false false 0
      match s.checkAccess g .scr .load true 8 a with
      | .error (c, lv) => s.reportOnce .load a c lv
      | .ok loc =>
        if s.stalls true 8 [loc] then s
        else if State.reached (s.counterAt g loc.off) t then s.acquire.retire (.wtct f)
        else s.waitOn (.wtctScr loc.off t))

/-! ## Completions -/

/-- FENCE_COMPLETE (R248): the oldest fence of a group, once every ordering it gives is discharged. An acquire also orders what an earlier
atomic of the group read while the fence was open (R234, R235). -/
def execFenceComplete (gid : Nat) (s : State) : Out :=
  .next (match (s.group? gid).bind fun g => g.fences.head? with
    | some f => if s.fenceOpen f then s
      else s.modGroup gid fun g =>
        let g := if f.kind = 0 then g else s.afterAcquire g
        { g with fd := f.token, fences := g.fences.drop 1 }
    | none => s)

/-- BARRIER_PHASE_COMPLETE (R252): a phase of the barrier of a scope whose members have all arrived or ended. At scopes wider than
the package it says that the members in other packages have too (log entry 2). -/
def execBarrierPhaseComplete (gid scope : Nat) (s : State) : Out :=
  .next (match s.group? gid with
    | some g =>
      if 1 ≤ scope && scope ≤ 8 && (s.groups.any fun x => State.barMember g scope x && (State.bar x scope).arrived) && s.barFull g scope
      then s.completeBar g scope else s
    | none => s)

/-- NUMBERED_BARRIER_COMPLETE (R254). -/
def execNumberedBarrierComplete (wid b : Nat) (s : State) : Out := .next (s.settleNbar wid b)

end Sys2Proof.Machine
end

