-- ==== Sys2Proof/Machine/EngineOps.lean ====
section
/-! DEFINITION. What the engines share: command-issue ordering, their translations and faults, the scratchpad of a context
wherever it is, and counters (R233, R236, R237, R298, R308, R311, R313, R315, R381, Tables 13-3 and 13-4). -/

namespace Sys2Proof.Machine

/-- The core number under which a die's engines use the store path. -/
def engineCore (die : Nat) : CoreId := ⟨die, 64⟩

namespace State

/-- An engine command follows its group's release fences and its earlier writes to scr and acc (R233, R236). -/
def commandHeld (s : State) (g : Group) : Bool :=
  !(s.openReleases g).isEmpty || s.stores.any fun p => p.gid == g.gid && (match p.space with
    | .scr _ | .acc _ => true
    | _ => false)

/-- Translation by an engine with the privilege of whoever gave it the work, with the rule for EMIT left to the gate (R308, R361). I/O pages
are refused. -/
def engineLoc (s : State) (r : CtxRegs) (super : Bool) (kind : AccKind) (va : Nat) : Except (Nat × Nat) Loc :=
  match s.engineTranslate r super kind va with
  | .fail c lv => .error (c, lv)
  | .ok l => if l.apt == 2 then .error (0x07, 0) else .ok ⟨l.space, l.phys va, some l⟩

/-- An engine stalls on an absent page: a tag and one record (R306, R310, R339). -/
def engineFault (s : State) (core : CoreId) (ctx : BitVec 32) (owner : TagOwner) (kind : AccKind) (va level : Nat) :
    BitVec 16 × State :=
  let t := s.newTag core ctx owner 1 va
  (t.1, t.2.postFault (faultRecord va ctx t.1 1 kind level core 0))

/-- An engine write enters the store path of the die's engines (R209, R360). -/
def engineWrite (s : State) (die : Nat) (ctx : BitVec 32) (gid : Nat) (l : Loc) (off : Nat) (data : List Byte) : Nat × State :=
  let gate := if l.emit then some (ctx, s.gateOf die ctx) else none
  s.enqueue (engineCore die) gid l.space off data.length (.write data) [] gate

/-- Bytes that an engine reads at their home; a dead page reads as zero (R209, R308). -/
def engineRead (s : State) (l : Loc) (off n : Nat) : List Byte :=
  if l.dead then List.replicate n 0
  else (List.range n).map fun i => if s.keyLost l.leaf (off + i) then s.lostByte (off + i) else s.byteAt l.space (off + i)

/-- Whether any of some bytes at their home is poisoned. -/
def engineBad (s : State) (l : Loc) (off n : Nat) : Bool := !l.dead && (List.range n).any fun i => s.poisoned l.space (off + i)

/-! ## Scratchpads of contexts -/

/-- Scratchpad size and partition of a context on a core, if it has one there. -/
def scratchInfo (s : State) (core : CoreId) (ctx : BitVec 32) : Option (Nat × Byte) :=
  let c := s.coreAt core
  if c.regs.ctx = ctx then some (c.split.scr * 262144, c.regs.part)
  else match s.frameOf core ctx with
    | some f =>
      let st := s.frameState f
      if st == 2 || st == 3 then some ((s.frameSplit f).scr * 262144, BitVec.ofNat 8 (s.wordAt .pool (f + 4) 1)) else none
    | none => none

/-- Writes bytes into a context's scratchpad wherever it is. -/
def putScratch (s : State) (core : CoreId) (ctx : BitVec 32) : Nat → List Byte → State
  | _, [] => s
  | off, b :: bs =>
    let l := s.scratchAt core ctx off
    (s.putByte l.1 l.2 b).putScratch core ctx (off + 1) bs

/-- Reads bytes of a context's scratchpad. -/
def getScratch (s : State) (core : CoreId) (ctx : BitVec 32) (off n : Nat) : List Byte :=
  (List.range n).map fun i =>
    let l := s.scratchAt core ctx (off + i)
    s.byteAt l.1 l.2

/-- Adds to a 64-bit counter of a context's scratchpad (R237, R315); 0xFFFF_FFFF names none. -/
def addCounter (s : State) (core : CoreId) (ctx : BitVec 32) (cnt : BitVec 32) (n : Nat) : State :=
  if cnt = 0xFFFFFFFF then s
  else s.putScratch core ctx cnt.toNat (leBytes 8 (leNat (s.getScratch core ctx cnt.toNat 8) + n))

/-- Whether a range lies inside a core's configured scratchpad (R195). -/
def inScratch (s : State) (core : CoreId) (off n : Nat) : Bool := off + n ≤ s.scratchSize core

/-- Whether an optional counter offset is acceptable: aligned to 8 and inside the scratchpad, or 0xFFFF_FFFF. -/
def counterOk (s : State) (core : CoreId) (cnt : Word) : Bool :=
  cnt == 0xFFFFFFFF || (cnt.toNat % 8 == 0 && s.inScratch core cnt.toNat 8)

/-! ## Commands -/

def command? (s : State) (id : Nat) : Option Command := s.fabric.commands.find? (·.id == id)

def modCommand (s : State) (id : Nat) (f : Command → Command) : State :=
  { s with fabric := { s.fabric with commands := s.fabric.commands.map fun c => if c.id == id then f c else c } }

/-- A command ends: its record goes. -/
def dropCommand (s : State) (id : Nat) : State :=
  { s with fabric := { s.fabric with commands := s.fabric.commands.filter (·.id != id) } }

/-- Local completion lowers EC of the group that issued the command (R311). -/
def lowerEc (s : State) (gid : Nat) : State := s.modGroup gid fun g => { g with ec := g.ec - 1 }

/-- Issue of a command (R311): it waits while EC = 32, and while fences and earlier writes hold it; then EC rises and the command is
outstanding. -/
def issueCommand (s : State) (i : Instr) (kind : CommandKind) (counter : Word) : State :=
  let g := s.g
  if 32 ≤ g.ec then s.waitOn .ec
  else if s.commandHeld g then s
  else
    let (id, s) := s.fresh
    let c : Command := ⟨id, g.gid, g.ctx, g.part, g.core, g.trapState.mode, g.pc, kind, counter, 0, 0, false, [], none, [], false⟩
    (({ s with fabric := { s.fabric with commands := s.fabric.commands ++ [c] } }).modG fun g => { g with ec := g.ec + 1 }).retire i

end State
end Sys2Proof.Machine
end

