-- ==== Sys2Proof/Machine/Stroke.lean ====
section
/-! DEFINITION. How a group begins a stroke and issues its next instruction: delivery of signals and asynchronous errors,
fetch and the checks of a whole stroke, reserved encodings, and the scoreboard (R31 to R43, R66, R67, R82, R83, R299, R376). -/

namespace Sys2Proof.Machine

/-- A slot of a stroke as fetched. -/
structure Fetched where
  slot : Slot
  /-- It is the stroke's first slot in a line whose line word fails its check (Table 2-4). -/
  badWord : Bool

namespace State

/-- The slots of the stroke from a PC, up to its trailer or its 24th slot, and the leaves that translated them; or the cause,
the level and the PC of the first slot whose line cannot be had, with the leaves used before it (R34, R36, R202). -/
def gather (s : State) (g : Group) : Nat → DWord → Option Line → Except (Nat × Nat × DWord × List Leaf) (List Fetched × List Leaf)
  | 0, _, _ => .ok ([], [])
  | n + 1, pc, cur =>
    let k := pc.toNat % 5
    let got : Except (Nat × Nat × DWord × List Leaf) (Line × List Leaf × Bool) :=
      match (if k = 0 then none else cur) with
      | some l => .ok (l, [], false)
      | none =>
        match s.fetchAt g g.trapState.mode pc with
        | .error (c, lv) => .error (c, lv, pc, [])
        | .ok (leaf, l) => .ok (l, [leaf], !l.wordOk)
    match got with
    | .error e => .error e
    | .ok (l, lv, bad) =>
      let w := l.slots.getD k 0
      let x : Fetched := ⟨w, bad⟩
      if (slotted w).test Instr.isTrl then .ok ([x], lv)
      else match gather s g n (pc + 1) (some l) with
        | .error (c, l, at_, ls) => .error (c, l, at_, lv ++ ls)
        | .ok (xs, ls) => .ok (x :: xs, lv ++ ls)

/-- The translations of a stroke's lines are used (R203). -/
def useCode (s : State) (ls : List Leaf) : State := ls.foldl (fun s l => s.useLeaf s.g.core (s.regsOf s.g) l false) s

/-- The smallest of some positions. -/
def lowest : List Nat → Option Nat
  | [] => none
  | k :: ks => match lowest ks with
    | none => some k
    | some m => some (min k m)

/-- The cause and the position of a stroke's failing check (R37). -/
def strokeFault (vr : Nat) (fs : List Fetched) : Option (Nat × Nat) :=
  let is := fs.map fun x => slotted x.slot
  let bad := (List.range fs.length).filter fun k => (fs[k]?.map (·.badWord)).getD false
  match lowest (structFails is ++ bad) with
  | some k => some (0x02, k)
  | none => (lowest (hazardFails vr is)).map fun k => (0x03, k)

/-- Whether a group has still to check the slot that it enters, and that slot's TGT bit is clear (R35, R374). -/
def badEntry (s : State) : Bool :=
  s.g.due == .entry && (match s.targetCheck s.g.pc with
    | some (0x04, _) => true
    | _ => false)

/-- A group begins the stroke at its PC (R36, R37). The flag says whether the stroke issues. Where a later line of the stroke cannot be
fetched, that failure comes before the checks of the slots already fetched, which the spec does not order (log entry 28, DESIGN CHOICE). -/
def beginStroke (s : State) : State × Bool :=
  let pc := s.g.pc
  if s.badEntry then (s.trap 0x04 pc (some pc) none, false)
  else match s.gather s.g 24 pc none with
  | .error (c, lv, at_, ls) =>
    let s := s.useCode ls
    (if c = 0x17 then (s.touchCode at_).trap 0x17 pc (some at_) none else s.fetchFails pc at_ c lv, false)
  | .ok (fs, ls) =>
    let s := s.useCode ls
    match strokeFault s.g.launch.vregs fs with
    | some (c, k) => (s.trap c pc (some (pc + BitVec.ofNat 64 k)) none, false)
    | none =>
      (s.modG fun g => { g with stroke := some ⟨pc, fs.map (·.slot), 0, [], .none, []⟩, due := .nothing }, true)

/-! ## Points -/

/-- Whether a group stands at a stroke start (R299, R376). -/
def atStart (g : Group) : Bool := g.wait == .ready && g.stroke.isNone

/-- The instructions at which a group waits are points too (R247). -/
def Wait.isPoint : Wait → Bool
  | .bar _ | .nbar _ | .fwt _ | .fnc | .wtctScr .. | .wtctQ .. | .waitt _ | .ewt _ | .ec | .drain _ | .room | .journal => true
  | _ => false

/-- Delivery of the oldest asynchronous error to the issuing group (R299); the wait ends. -/
def deliverError (s : State) (e : AsyncErr) (rest : List AsyncErr) : State :=
  ((s.modG fun g => { g with async := rest }).trap e.cause s.g.pc (some e.tval) none)

/-- Whether a group waits or sleeps at an instruction, where an error or a signal may reach it (R70, R247, R376). -/
def atWait (g : Group) : Bool :=
  Wait.isPoint g.wait || g.wait == .hlt || (g.wait == .step && g.stroke.isSome)

/-- Whether an error stands for a group that waits or sleeps in the core. -/
def errorWaits (s : State) (g : Group) : Bool := atWait g && s.inCore g && !g.async.isEmpty

/-- A waiting or sleeping group takes the oldest error that stands for it, at once (R70, R299). -/
def deliverWaiting (s : State) (gid : Nat) : State :=
  match s.group? gid with
  | some g =>
    match (if s.errorWaits g then g.async else []) with
    | e :: rest => (((s.focus gid).deliverError e rest).issuerSelect g.core).focus s.g.gid
    | [] => s
  | none => s

/-- Delivery of the pending signal (R376). -/
def deliverSignal (s : State) (v : Word) : State :=
  ((s.modG fun g => { g with signal := none }).trap 0x12 s.g.pc (some (v.setWidth 64)) none)

/-- What the point itself brings: an asynchronous error, then a signal when TIP is clear. -/
def deliver (s : State) : Option State :=
  match s.g.async with
  | e :: rest => some (s.deliverError e rest)
  | [] =>
    match s.g.signal with
    | some v => if s.g.trapState.tip then none else some (s.deliverSignal v)
    | none => none

/-! ## Implicit joins -/

/-- A group whose stroke has ended with EM = 0 (R89, R449): it resumes, parks, traps, or ends. The flag says that the group
has no entry left and ends. A join that fails leaves the stack, FMT and EM as the stroke left them, and one that parks is made again. -/
def settleJoin (s : State) : State × Bool :=
  if s.g.em != 0 then (s, false)
  else
    let s := s.modG fun g => { g with due := .join }
    match s.implicitJoin (depth s.g + 1) with
    | .running s => (s.modG fun g => { g with due := .nothing }, false)
    | .ended s => (s, true)
    | .malformed => (s.trap 0x0E s.g.pc (some 3) none, false)
    | .badTarget cause level target => (s.fetchFails s.g.pc target cause level, false)

/-! ## Issue -/

/-- The instruction at the group's position. -/
def currentSlot (g : Group) : Slot :=
  match g.stroke with
  | some st => st.slots.getD st.pos 0
  | none => 0

/-- Whether a deferred result in flight will write one of some registers. -/
def busy (g : Group) (mine : List Nat) : Bool := g.deferred.any fun d => d.regs.any mine.contains

/-- Whether the scoreboard holds an instruction back (R40, R82). SRDS of the sticky flags waits for every deferred result (R153). -/
def scoreboardHolds (g : Group) (i : Instr) : Bool :=
  busy g (i.checkReads g.launch.vregs ++ i.checkWrites g.launch.vregs) ||
  (i.readsFlags && !g.deferred.isEmpty)

/-- A slot that is no instruction (R43, R66, R67). -/
def reserved (s : State) (w : Slot) : State :=
  let f := Fields.ofSlot w
  let op := (w.extractLsb' 0 8).toNat
  let once := (0x40 ≤ op && op < 0x80) || 0xC0 ≤ op
  let q := s.g.qual f once
  if s.g.em != 0 && f.gpr != 15#4 && 12#4 ≤ f.gpr then s.illegal s.g.em
  else if q = 0 then s.modG fun g => g.retire .none
  else s.illegal q

/-- A park ends when its instruction has issued again without parking (R212, R385). -/
def settlePark (s : State) : State := if s.g.wait == .parked then s else s.modG fun g => { g with park := none }

/-- The issuing group's next instruction, by a given meaning of instructions. A register that the scoreboard holds stalls it. -/
def issueNext (meaning : Instr → State → Out) (s : State) : Out :=
  match decode (currentSlot s.g) with
  | .error _ =>
    if busy s.g (reservedReads (currentSlot s.g)) then .next s
    else .next (s.reserved (currentSlot s.g)).settlePark
  | .ok i =>
    if scoreboardHolds s.g i then .next s
    else match meaning i s with
      | .next t => .next t.settlePark
      | other => other

/-- A group that an issuer holds moves: at a point it first takes what is pending; at a stroke start it begins its stroke. `finish`
ends a group whose implicit join finds no entry. Strict mode may stop its core (R392). -/
def groupTurn (meaning : Instr → State → Out) (finish : State → State) (gid : Nat) (s : State) : Out :=
  match s.group? gid with
  | none => .next s
  | some g =>
    if !(s.held g && s.isReady g) || s.strictStops g.core then .next s
    else
      let s := s.focus gid
      if s.g.stroke.isSome then issueNext meaning s
      else match s.deliver with
        | some s => .next s
        | none =>
          if s.g.due = .join then (match s.settleJoin with
            | (s, true) => .next (finish s)
            | (s, false) => .next s)
          else match s.beginStroke with
            | (s, true) => issueNext meaning s
            | (s, false) => .next s

end State
end Sys2Proof.Machine
end

