-- ==== Sys2Proof/Machine/Tensor.lean ====
section
/-! DEFINITION. Tensor shape-and-stride records, their windows, and the arithmetic of a matrix pass (R155, R258, R259, R265 to
R269, R288, R289). -/

namespace Sys2Proof.Machine

/-- A tensor shape-and-stride record (Table 9-4). -/
abbrev Tsr := BitVec 1024

namespace Tsr

def nat (t : Tsr) (lo n : Nat) : Nat := (t.extractLsb' lo n).toNat
def int (t : Tsr) (lo n : Nat) : Int := (t.extractLsb' lo n).toInt
def blkCode (t : Tsr) : Nat := t.nat 683 2
/-- Elements of a scale block. -/
def blk (t : Tsr) : Nat := 32 * 2 ^ t.blkCode
def fill (t : Tsr) : Nat := t.nat 681 2
def dir (t : Tsr) : Bool := t.getLsbD 680
def space (t : Tsr) : Nat := t.nat 678 2
def rank (t : Tsr) : Nat := t.nat 676 2
def elem (t : Tsr) : Nat := t.nat 672 4
def boxR (t : Tsr) : Nat := t.nat 656 16
def boxC (t : Tsr) : Nat := t.nat 640 16
def org (t : Tsr) (d : Nat) : Int := t.int (if d = 3 then 608 else 576) 32
def row0 (t : Tsr) : Int := t.int 512 32
def col0 (t : Tsr) : Int := t.int 544 32
def sstride (t : Tsr) : Int := t.int 448 64
/-- STRIDE1 to STRIDE3. -/
def stride (t : Tsr) (d : Nat) : Int := t.int (256 + 64 * (d - 1)) 64
/-- The extent of a dimension; 1 at or above the rank (R266). -/
def size (t : Tsr) (d : Nat) : Nat := if t.rank < d then 1 else t.nat (128 + 32 * d) 32
def scaleBase (t : Tsr) : Nat := t.nat 64 64
def base (t : Tsr) : Nat := t.nat 0 64

/-- ELEM 1 to 3: Q4X, FP4 and INT4. -/
def is4bit (t : Tsr) : Bool := 1 ≤ t.elem && t.elem ≤ 3

/-- Bytes of an element; 1 for the 4-bit formats (R267). -/
def elemBytes (t : Tsr) : Nat := if t.elem = 0 then 2 else if t.elem = 4 then 4 else 1

/-- The checks of R267 on a whole record. -/
def valid (t : Tsr) : Bool :=
  let e := t.elemBytes
  t.nat 685 339 == 0 && t.blkCode != 3 && t.fill != 3 && t.space ≤ 1 && t.elem ≤ 5
  && 1 ≤ t.boxR && t.boxR ≤ 2048 && 1 ≤ t.boxC && t.boxC ≤ 2048
  && (t.org 2 == 0 || 2 ≤ t.rank) && (t.org 3 == 0 || 3 ≤ t.rank)
  && t.base % e == 0 && ([1, 2, 3].all fun d => t.stride d % e == 0)
  && (t.space == 0 || t.base < 2 ^ 23)
  && (!t.is4bit || (t.rank ≤ 1 && t.fill == 0 && !t.dir && t.nat 128 32 % t.blk == 0))

/-- First and second extent of the window in its orientation (R268). -/
def ext1 (t : Tsr) : Nat := if t.dir then t.boxC else t.boxR
def ext2 (t : Tsr) : Nat := if t.dir then t.boxR else t.boxC

/-- Row and column of window element (i, j) (R268). -/
def pos (t : Tsr) (i j : Nat) : Int × Int := if t.dir then (t.row0 + j, t.col0 + i) else (t.row0 + i, t.col0 + j)

/-- Whether a coordinate is in bounds. -/
def inDim (t : Tsr) (d : Nat) (x : Int) : Bool := 0 ≤ x && x < t.size d

/-- Whether an element is in bounds (R266). -/
def inb (t : Tsr) (p : Int × Int) : Bool := t.inDim 0 p.2 && t.inDim 1 p.1 && t.inDim 2 (t.org 2) && t.inDim 3 (t.org 3)

/-- A coordinate clamped into its range. -/
def clampDim (t : Tsr) (d : Nat) (x : Int) : Int := if x < 0 then 0 else if (t.size d : Int) ≤ x then (t.size d : Int) - 1 else x

/-- Byte address of an element, modulo 2^64 (R266). -/
def addrAt (t : Tsr) (r c o2 o3 : Int) : Nat :=
  let off := r * t.stride 1 + o2 * t.stride 2 + o3 * t.stride 3
  ((t.base : Int) + off + (if t.is4bit then c / 2 else c * t.elemBytes)) % 2 ^ 64 |>.toNat

/-- Address of the scale byte of an element (R266). -/
def scaleAt (t : Tsr) (p : Int × Int) : Nat := ((t.scaleBase : Int) + p.1 * t.sstride + p.2 / t.blk) % 2 ^ 64 |>.toNat

/-- The key of a byte of the window's space: a virtual address, or 2^64 and a scratchpad offset. -/
def key (t : Tsr) (a : Nat) : Nat := if t.space = 1 then 2 ^ 64 + a % 2 ^ 64 else a % 2 ^ 64

/-- What an element of the window reads: memory, or its fill (R266). -/
inductive Src where
  | mem (addr : Nat) (row col : Int)
  | zero
  | nan

/-- The source of the element at a position. -/
def src (t : Tsr) (p : Int × Int) : Src :=
  if t.inb p then .mem (t.addrAt p.1 p.2 (t.org 2) (t.org 3)) p.1 p.2
  else match t.fill with
    | 1 => .nan
    | 2 =>
      if [0, 1, 2, 3].any fun d => t.size d == 0 then .zero
      else
        let r := t.clampDim 1 p.1
        let c := t.clampDim 0 p.2
        .mem (t.addrAt r c (t.clampDim 2 (t.org 2)) (t.clampDim 3 (t.org 3))) r c
    | _ => .zero

/-- The format of a floating-point ELEM. -/
def floatFmt (t : Tsr) : FloatFmt := if t.elem = 0 then .bf16 else if t.elem = 4 then .f32 else .e4m3

/-- The keys of the bytes that an element needs: its own, or its whole block's and its scale's (R138). -/
def needs (t : Tsr) (p : Int × Int) : List Nat :=
  match t.src p with
  | .mem a r c =>
    if t.is4bit then
      let first := t.addrAt r (c / t.blk * t.blk) (t.org 2) (t.org 3)
      t.scaleAt (r, c) :: (List.range (t.blk / 2)).map fun i => t.key (first + i)
    else (List.range t.elemBytes).map fun i => t.key (a + i)
  | _ => []

/-- The value of a window element from fetched bytes, with MF (R258, R266). -/
def value (t : Tsr) (byte : Nat → Byte) (p : Int × Int) : Num × FlagSet :=
  match t.src p with
  | .zero => (.fin false 0 0, 0)
  | .nan => (.nan false, 0)
  | .mem a r c =>
    if t.is4bit then
      let first := t.addrAt r (c / t.blk * t.blk) (t.org 2) (t.org 3)
      let by_ := (List.range (t.blk / 2)).map fun i => byte (t.key (first + i))
      let k := (c % t.blk).toNat
      let nfmt := if t.elem = 1 then 4 else if t.elem = 2 then 3 else 2
      let scan := if t.elem = 1 then q4Scan by_ else ⟨[], [], []⟩
      let scale := byte (t.scaleAt (r, c))
      (blockElem nfmt by_ scan scale k, scaleFlag scale ||| Flag.when (scan.z.any id) Flag.mf)
    else
      (t.floatFmt.unpack (leNat ((List.range t.elemBytes).map fun i => byte (t.key (a + i)))), 0)

end Tsr

/-! ## A chunk step (R155, R259, R269) -/

/-- Exact sum of finite values. -/
def sumNums : List Num → Num
  | [] => .fin false 0 0
  | [x] => x
  | x :: xs => (addNum .rn x (sumNums xs)).1

/-- One chunk of products: its value rounded to f32, with NV and OF. -/
def chunkValue (ps : List (Num × Num)) : Num × FlagSet :=
  let rs := ps.map fun p => mulNum p.1 p.2
  let flags := rs.foldl (fun f r => f ||| r.2) (0 : FlagSet)
  let vals := rs.map (·.1)
  let pos := vals.any fun x => match x with
    | .inf n => !n
    | _ => false
  let neg := vals.any fun x => match x with
    | .inf n => n
    | _ => false
  let both := Flag.when (pos && neg) Flag.nv
  if vals.any Num.isNan || (pos && neg) then (.nan false, flags ||| both)
  else if pos || neg then (.inf neg, flags)
  else
    let r := FloatFmt.f32.pack .rn false (sumNums vals)
    (FloatFmt.f32.unpack r.bits, flags ||| (r.flags &&& Flag.of))

/-- The accumulator after a chunk (R155): the sum rounded to f32; NV for infinities of opposite sign. -/
def chunkStep (acc : Word) (ps : List (Num × Num)) : Word × FlagSet :=
  let c := chunkValue ps
  let a := FloatFmt.f32.unpack acc.toNat
  let clash := match c.1, a with
    | .inf n, .inf m => n != m
    | _, _ => false
  let r := FloatFmt.f32.pack .rn false (addNum .rn c.1 a).1
  (BitVec.ofNat 32 r.bits, c.2 ||| (r.flags &&& Flag.of) ||| Flag.when clash Flag.nv)

/-! ## ZIN and ZOUT elements -/

/-- An element as ZIN writes it (R288). -/
def zinElem (x : Num) : Word × FlagSet :=
  match x with
  | .nan s => (BitVec.ofNat 32 FloatFmt.f32.qnan, Flag.when s Flag.nv)
  | y => (BitVec.ofNat 32 (FloatFmt.f32.pack .rn false y).bits, 0)

/-- An element as ZOUT writes it (R145 to R148, R289): the scale code is `some E` with SCE. -/
def zoutElem (fmt : FloatFmt) (mode : Rnd) (satn ntz : Bool) (sce : Option Nat) (z : Word) : Nat × FlagSet :=
  let x := FloatFmt.f32.unpack z.toNat
  let x := match sce with
    | some 63 => Num.nan x.isSig
    | some e => x.scale (40 - e)
    | none => x
  let r := fp8Narrow fmt mode satn ntz x
  (r.bits, r.flags)

end Sys2Proof.Machine
end

