-- ==== Sys2Proof/Machine/Engine.lean ====
section
/-! DEFINITION. The matrix engine of a quad: its reservation table, the arbiter, the tile fetch unit, and the completion,
suspension and abort of its operations (R257 to R259, R269 to R283). -/

namespace Sys2Proof.Machine

/-- Whether an operation has ended (R274, R281). -/
def EngEntry.finished (e : EngEntry) : Bool := e.state == .done || e.state == .aborted

/-- Values of k in a chunk (Table 9-1). -/
def EngEntry.chunk (e : EngEntry) : Nat := if e.mode == .bb then 4 else 8

/-- A pass, as opposed to ZIN and ZOUT. -/
def EngEntry.isPass (e : EngEntry) : Bool := e.op ≤ 1

/-- The core of a workgroup that a ZC field names (R271). -/
def Workgroup.zcCore (w : Workgroup) (zc : Nat) : Option CoreId :=
  if w.quadwg then w.cores.find? (·.core % 4 == zc) else if zc = 0 then w.cores.head? else none

/-- The quad of a workgroup. -/
def Workgroup.quad (w : Workgroup) : QuadId := ⟨w.first.die, w.first.core / 4⟩

/-- The keys of the operand bytes of one chunk of a pass, from value k0 of k. -/
def EngEntry.chunkNeeds (e : EngEntry) (k0 : Nat) : List Nat :=
  let ks := (List.range e.chunk).map (k0 + ·)
  ((List.range e.m).flatMap fun m => ks.flatMap fun k => Tsr.needs e.tsrA (Tsr.pos e.tsrA m k))
    ++ (List.range e.n).flatMap fun n => ks.flatMap fun k => Tsr.needs e.tsrB (Tsr.pos e.tsrB n k)

/-- The keys of the bytes that one row of ZIN reads. -/
def EngEntry.rowNeeds (e : EngEntry) (i : Nat) : List Nat :=
  (List.range e.n).flatMap fun j => Tsr.needs e.tsrA (Tsr.pos e.tsrA i j)

/-- The rows that a ZIN has not written. -/
def EngEntry.rowsLeft (e : EngEntry) : List Nat := (List.range e.m).filter (e.kdone ≤ ·)

/-- Starts of the chunks that are not summed yet. -/
def EngEntry.chunksLeft (e : EngEntry) : List Nat :=
  ((List.range (e.k / e.chunk)).map (e.chunk * ·)).filter (e.kdone ≤ ·)

/-- The keys that an operation still needs. -/
def EngEntry.needs (e : EngEntry) : List Nat :=
  if e.isPass then e.chunksLeft.flatMap e.chunkNeeds else if e.op = 2 then e.rowsLeft.flatMap e.rowNeeds else []

def EngEntry.has (e : EngEntry) (key : Nat) : Bool := e.fetched.any (·.1 == key)

/-- A fetched byte. -/
def EngEntry.byte (e : EngEntry) (key : Nat) : Byte := ((e.fetched.find? (·.1 == key)).map (·.2)).getD 0

/-- One element of a pass over the chunks from `k0` that start in `ks` (R155, R269). -/
def EngEntry.accumulate (e : EngEntry) (ks : List Nat) (m n : Nat) (acc : Word) : Word × FlagSet :=
  ks.foldl (fun a k0 =>
    let ps := (List.range e.chunk).map fun i =>
      (Tsr.value e.tsrA e.byte (Tsr.pos e.tsrA m (k0 + i)), Tsr.value e.tsrB e.byte (Tsr.pos e.tsrB n (k0 + i)))
    let r := chunkStep a.1 (ps.map fun p => (p.1.1, p.2.1))
    (r.1, a.2 ||| r.2 ||| ps.foldl (fun f p => f ||| p.1.2 ||| p.2.2) 0)) (acc, 0)

namespace State

/-! ## The table -/

def modEntry (s : State) (q : QuadId) (age : Nat) (f : EngEntry → EngEntry) : State :=
  let e := s.engineAt q
  let g (x : EngEntry) : EngEntry := if x.age == age then f x else x
  s.setEngine { e with entries := e.entries.map g, saved := e.saved.map g }

/-- The entries of a sequencer. -/
def entriesOf (s : State) (w : Workgroup) : List EngEntry := (s.engineAt w.quad).entries.filter (·.wid == w.wid)

/-- The entries of a sequencer, those of a context that is out included. -/
def allEntries (s : State) (q : QuadId) (wid : Nat) : List EngEntry :=
  ((s.engineAt q).entries ++ (s.engineAt q).saved).filter (·.wid == wid)

/-- Whether an entry has to wait for an earlier one of its sequencer on the same tile (R270). -/
def blocked (es : List EngEntry) (e : EngEntry) : Bool :=
  es.any fun x => x.wid == e.wid && x.age < e.age && x.zc == e.zc && x.zt == e.zt && !x.finished

/-- Whether the operation that a line was fetched for is running. -/
def heldBy (es : List EngEntry) (p : Pin) : Bool := es.any fun x => x.age == p.age && x.state == .running

/-- The table after an operation has ended: done entries free in AGE order within their sequencer (R274), the pins of ended and suspended
operations are released (R276), and waiting entries may become eligible. -/
def settleTable (s : State) (q : QuadId) : State :=
  let e := s.engineAt q
  let kept := e.entries.filter fun x =>
    !(x.state == .done && !(e.entries.any fun y => y.wid == x.wid && y.age < x.age && y.state != .done && y.state != .aborted))
  let es := kept.map fun x => if x.state == .waiting && !blocked kept x then { x with state := .eligible } else x
  s.setEngine { e with entries := es, pins := e.pins.filter (heldBy es), loose := e.loose.filter (heldBy es) }

/-- Posts an entry in the table (R261, R272). -/
def postEntry (s : State) (q : QuadId) (e : EngEntry) : State :=
  let t := s.engineAt q
  let e := { e with age := t.age }
  s.setEngine { t with
    age := t.age + 1
    entries := t.entries ++ [{ e with state := if blocked t.entries e then .waiting else .eligible }] }

/-! ## Faults of the sequencer (R70, R262) -/

/-- TVAL of a sequencer fault. -/
def seqTval (sub : Nat) (pc : DWord) : DWord := (pc <<< 8) ||| BitVec.ofNat 64 sub

/-- The sequencer of a workgroup stops and its groups take cause 0x10 (R70, R262): those that wait or sleep at once, the others at their
next point. -/
def seqFault (s : State) (wid sub : Nat) (pc : DWord) : State :=
  let members := (s.wgOf wid).members
  let s := (s.modWg wid fun w => { w with seq := w.seq.map fun q => { q with wait := .faulted } }).modGroups
    (fun g => members.contains g.gid && g.wait != Wait.ended)
    fun g => { g with async := g.async ++ [⟨0x10, seqTval sub pc, true⟩] }
  members.foldl (fun s gid => s.deliverWaiting gid) s

/-- An operation aborts (R281): its progress record keeps the sub-code, the cause and the address. -/
def abortEntry (s : State) (q : QuadId) (e : EngEntry) (sub cause addr : Nat) : State :=
  ((s.modEntry q e.age fun x => { x with state := .aborted, err := some (sub, cause, addr), fetched := [] }).settleTable q).seqFault e.wid sub e.pc

/-! ## Tiles -/

def tileOff (zt i j : Nat) : Nat := 65536 * zt + 512 * i + 4 * j

/-- An element of a tile of a context. -/
def tileElem (s : State) (core : CoreId) (ctx : BitVec 32) (zt i j : Nat) : Word :=
  let l := s.tileAt core ctx (tileOff zt i j)
  BitVec.ofNat 32 (s.wordAt l.1 l.2 4)

def putTile (s : State) (core : CoreId) (ctx : BitVec 32) (zt i j : Nat) (x : Word) : State :=
  let l := s.tileAt core ctx (tileOff zt i j)
  s.putWord l.1 l.2 4 x.toNat

/-- Writes rows of a tile region from row `i0`. -/
def putRows (s : State) (core : CoreId) (ctx : BitVec 32) (zt i0 : Nat) (rows : List (List Word)) : State :=
  (List.range rows.length).foldl (fun s i =>
    let row := rows.getD i []
    (List.range row.length).foldl (fun s j => s.putTile core ctx zt (i0 + i) j (row.getD j 0)) s) s

/-! ## Passes -/

/-- The accumulators of a pass over some chunks, and the flags (R269); they go on from the tile, but for the first chunk of MMZ. -/
def passRows (s : State) (core : CoreId) (e : EngEntry) (ks : List Nat) : List (List Word) × FlagSet :=
  let start (m n : Nat) : Word :=
    if e.op = 1 && e.kdone = 0 then 0 else s.tileElem core e.ctx e.zt m n
  let rows := (List.range e.m).map fun m => (List.range e.n).map fun n => e.accumulate ks m n (start m n)
  (rows.map fun r => r.map (·.1), rows.foldl (fun f r => r.foldl (fun f x => f ||| x.2) f) 0)

/-- The core that holds the tile of an entry. -/
def entryCore (s : State) (e : EngEntry) : CoreId := ((s.wgOf e.wid).zcCore e.zc).getD (s.wgOf e.wid).first

/-- The rows of a ZIN, each with what it writes, and the flags (R288). -/
def zinRows (e : EngEntry) (is : List Nat) : List (List Word) × FlagSet :=
  let rows := is.map fun i => (List.range e.n).map fun j => zinElem (Tsr.value e.tsrA e.byte (Tsr.pos e.tsrA i j)).1
  (rows.map fun r => r.map (·.1), rows.foldl (fun f r => r.foldl (fun f x => f ||| x.2) f) 0)

/-- A ZIN writes the rows from its KDONE whose bytes are there, and stops (R281). -/
def stopZin (s : State) (q : QuadId) (e : EngEntry) : State :=
  let ready := e.rowsLeft.takeWhile fun i => (e.rowNeeds i).all e.has
  let r := zinRows e ready
  (s.putRows (s.entryCore e) e.ctx e.zt e.kdone r.1).modEntry q e.age fun x =>
    { x with kdone := e.kdone + ready.length, flags := x.flags ||| r.2 }

/-- A pass sums the chunks from its KDONE whose operands are there, writes its tile and stops (R281). -/
def stopPass (s : State) (q : QuadId) (e : EngEntry) : State :=
  let ready := e.chunksLeft.takeWhile fun k0 => (e.chunkNeeds k0).all e.has
  if ready.isEmpty then s
  else
    let core := s.entryCore e
    let r := s.passRows core e ready
    (s.putRows core e.ctx e.zt 0 r.1).modEntry q e.age fun x =>
      { x with kdone := e.kdone + e.chunk * ready.length, flags := x.flags ||| r.2 }

/-- An operation stops at its next boundary, a chunk or a row (R281, R282). ZOUT notes its own row as it goes. -/
def stopEntry (s : State) (q : QuadId) (e : EngEntry) : State :=
  if e.isPass then s.stopPass q e else if e.op = 2 then s.stopZin q e else s

/-- A page with V = 0 suspends an operation (R281): it stops, and a record with a fresh tag is posted. -/
def suspendEntry (s : State) (q : QuadId) (e : EngEntry) (kind : AccKind) (va level : Nat) : State :=
  let s := s.stopEntry q e
  let t := s.engineFault (s.entryCore e) e.ctx (.engine q e.age) kind va level
  (t.2.modEntry q e.age fun x => { x with state := .faulted, ftag := t.1 }).settleTable q

/-- The flags of an ended operation reach SFLG (R263). -/
def raiseSeq (s : State) (wid : Nat) (f : FlagSet) : State :=
  s.modWg wid fun w => { w with seq := w.seq.map fun q => { q with sflg := q.sflg ||| f } }

/-! ## The tile fetch unit (R275 to R277) -/

/-- The streaming counter of a context on a die rises (R276). -/
def countStreaming (s : State) (die : Nat) (ctx : BitVec 32) : State :=
  s.modDie die fun d =>
    let n := ((d.streaming.find? (·.1 == ctx)).map (·.2)).getD 0
    { d with streaming := (ctx, n + 1) :: d.streaming.filter (·.1 != ctx) }

/-- The slice that homes a pool line (R23). -/
def sliceOf (s : State) (line : Nat) : Fin 64 × Fin 8 × Fin 24 := s.homeOf (line / 256)

/-- The ways of a line's set that hold other pinned lines are 14: a fetch of it has to wait (R276). -/
def setFull (s : State) (line : Nat) : Bool :=
  let there := (s.engines.flatMap (·.pins)).filter fun p => s.sliceOf p.line == s.sliceOf line && Config.l2set p.line == Config.l2set line
  let ways := (there.map (·.line)).eraseDups
  14 ≤ ways.length && !ways.contains line

/-- A line that a pass fetches is pinned, unless the quota of its context in that slice is used up, which is counted. With 14 ways of the line's set
pinned the fetch has to wait, `none`, or, where it has waited too long, goes on unpinned and is counted (R276). -/
def pinLine (s : State) (q : QuadId) (e : EngEntry) (line vline : Nat) (pin : Bool) : Option State :=
  let t := s.engineAt q
  let p : Pin := ⟨line, e.age, e.ctx, vline⟩
  let quota := (((s.dieAt q.die).pinq.find? (·.1 == e.ctx)).map (·.2)).getD 0
  let there := (s.engines.flatMap (·.pins)).filter fun p => s.sliceOf p.line == s.sliceOf line
  let unpinned := (s.setEngine { t with loose := p :: t.loose }).countStreaming q.die e.ctx
  if t.pins.contains p then some s
  else if quota ≤ ((there.filter (·.ctx == e.ctx)).map (·.line)).eraseDups.length then some unpinned
  else if s.setFull line then (if pin then none else some unpinned)
  else some (s.setEngine { t with pins := t.pins ++ [p] })

/-- The lines that a pass has taken its last chunk step of are released (R276). -/
def releaseUsed (s : State) (q : QuadId) (age : Nat) : State :=
  let t := s.engineAt q
  match t.entries.find? (·.age == age) with
  | none => s
  | some e =>
    let later := (e.chunksLeft.dropWhile fun k0 => (e.chunkNeeds k0).all e.has).flatMap e.chunkNeeds
    let keep (p : Pin) : Bool := p.age != age || later.any (· / 256 == p.vline)
    s.setEngine { t with pins := t.pins.filter keep, loose := t.loose.filter keep }

/-- The translation that the walk-ahead TLB of a fetch unit holds (R275). -/
def aheadHit (s : State) (q : QuadId) (r : CtxRegs) (va : Nat) : Option Leaf :=
  ((s.engineAt q).tlb.find? fun e => e.part == r.part && (e.ctx == none || e.ctx == some r.ctx) && e.va ≤ va && va < e.va + e.size).map
    fun e => ⟨e.leaf, e.at_, e.va, e.size⟩

/-- The next pages of an operation that the walk-ahead TLB lacks, up to four ahead, are asked of the walk scheduler, one request for each (R275,
R277). -/
def askAhead (s : State) (q : QuadId) (e : EngEntry) (r : CtxRegs) (super : Bool) : State :=
  let asked (p : Nat) : Bool := (s.dieAt q.die).walks.any fun w => w.who == Walker.fetchUnit q && w.page == p && w.ctx == r.ctx
  let left := ((e.needs.filter fun k => k < 2 ^ 64 && !e.has k).map (· / 65536)).eraseDups.take 5
  let pages := left.filter fun p => (s.aheadHit q r (65536 * p)).isNone && !asked p
  if pages.isEmpty then s
  else
    let (n, s) := s.fresh
    (s.modDie q.die fun d => { d with
      walks := d.walks ++ pages.map fun p => ⟨.fetchUnit q, r.part, r.ctx, r.ptbase, super, n, p, false, true, false, false⟩ }).startWalks q.die

/-- The leaf through which the fetch unit reads an address: its TLB's, otherwise the tables' for the first checks; `true` where a walk has to
load it first. -/
def aheadLeaf (s : State) (q : QuadId) (r : CtxRegs) (super : Bool) (va : Nat) : WalkRes × Bool :=
  match (if canonical va then s.aheadHit q r va else none) with
  | some l => (match leafCheck r super .engineRead l with
    | some c => .fail c 0
    | none => .ok l, false)
  | none => (s.engineTranslate r super .engineRead va, true)

/-- The bytes of the needed keys of one line are fetched into an entry. -/
def fetchKeys (s : State) (q : QuadId) (e : EngEntry) (keys : List Nat) (read : Nat → Byte) : State :=
  s.modEntry q e.age fun x => { x with fetched := keys.map (fun k => (k, read k)) ++ x.fetched }

/-- The tile fetch unit reads the next operand line of an operation (R275 to R278, R281). -/
def fetchLineFor (s : State) (q : QuadId) (e : EngEntry) (pin : Bool) : State :=
  let needs := e.needs
  match needs.find? fun k => !e.has k with
  | none => s
  | some key =>
    let keys := (needs.filter fun k => k / 256 == key / 256 && !e.has k).eraseDups
    let core := s.entryCore e
    if 2 ^ 64 ≤ key then
      let off (k : Nat) : Nat := k - 2 ^ 64
      let size := ((s.scratchInfo core e.ctx).map (·.1)).getD 0
      match keys.find? fun k => size ≤ off k with
      | some k => s.abortEntry q e 0x1A 0x06 (off k)
      | none =>
        let at_ (k : Nat) : Space × Nat := s.scratchAt core e.ctx (off k)
        match keys.find? fun k => s.poisoned (at_ k).1 (at_ k).2 with
        | some k => s.abortEntry q e 0x19 0x0C (off k)
        | none => s.fetchKeys q e keys fun k => s.byteAt (at_ k).1 (at_ k).2
    else
      let r := s.ctxRegs core e.ctx
      let super := (s.wgOf e.wid).supervisor
      match s.aheadLeaf q r super key with
      | (.fail 0x08 lv, _) => s.suspendEntry q e .engineRead key lv
      | (.fail c _, _) => s.abortEntry q e 0x17 c key
      | (.ok _, true) => s.askAhead q e r super
      | (.ok l, false) =>
        if l.apt = 2 then s.abortEntry q e 0x17 0xFF key
        else
          let loc : Loc := ⟨l.space, l.phys key, some l⟩
          let off (k : Nat) : Nat := loc.off / 256 * 256 + k % 256
          match keys.find? fun k => s.engineBad loc (off k) 1 with
          | some k => s.abortEntry q e 0x19 0x0C k
          | none =>
            let s := s.askAhead q e r super
            match (if e.isPass && l.apt = 0 && !l.dead then s.pinLine q e (loc.off / 256) (key / 256) pin else some s) with
            | none => s
            | some s => (s.fetchKeys q e keys fun k => ((s.engineRead loc (off k) 1).head?).getD 0).releaseUsed q e.age

/-- A line that was fetched unpinned is evicted before its pass has consumed it: it is fetched again, and counted (R276). -/
def evictLoose (s : State) (line : Nat) : State :=
  s.engines.foldl (fun s t =>
    (t.loose.filter (·.line == line)).foldl (fun s p =>
      let s := s.modEntry t.quad p.age fun e => if e.opsDone then e else { e with fetched := e.fetched.filter fun x => x.1 / 256 != p.vline }
      let t := s.engineAt t.quad
      (s.setEngine { t with loose := t.loose.filter (· != p) }).countStreaming t.quad.die p.ctx) s) s

/-- Whether an L2 line is pinned, and so not evicted (R276). -/
def pinned (s : State) (line : Nat) : Bool := s.engines.any fun t => t.pins.any (·.line == line)

/-! ## ZOUT (R289) -/

/-- The bytes that ZOUT writes for an element, and its flags. -/
def zoutBytes (e : EngEntry) (x : Word) : List Byte × FlagSet :=
  let r := zoutElem (Tsr.floatFmt e.tsrA) (Rnd.ofCode e.rnd) e.satn e.ntz e.sce x
  (leBytes (Tsr.elemBytes e.tsrA) r.1, r.2)

/-- How far ZOUT has come. -/
inductive ZoutRes where
  | goes (s : State) (ids : List Nat) (flags : FlagSet)
  | stops (s : State)

/-- One element of ZOUT: its write enters the store path, or it suspends or aborts the operation (R281). -/
def zoutOne (q : QuadId) (e : EngEntry) (core : CoreId) (acc : ZoutRes) (at_ : Nat × Nat) : ZoutRes :=
  match acc with
  | .stops s => .stops s
  | .goes s ids flags =>
    let p := Tsr.pos e.tsrA at_.1 at_.2
    if !Tsr.inb e.tsrA p then acc
    else
      let b := zoutBytes e (s.tileElem core e.ctx e.zt at_.1 at_.2)
      let flags := flags ||| b.2
      let a := Tsr.addrAt e.tsrA p.1 p.2 (Tsr.org e.tsrA 2) (Tsr.org e.tsrA 3)
      if Tsr.space e.tsrA = 1 then
        if ((s.scratchInfo core e.ctx).map (·.1)).getD 0 < a + b.1.length then .stops (s.abortEntry q e 0x1A 0x06 a)
        else .goes (s.putScratch core e.ctx a b.1) ids flags
      else match s.engineTranslate (s.ctxRegs core e.ctx) (s.wgOf e.wid).supervisor .engineWrite a with
        | .fail 0x08 lv =>
          let s := s.modEntry q e.age fun x => { x with kdone := at_.1, writes := x.writes ++ ids, flags := x.flags ||| flags }
          .stops (s.suspendEntry q e .engineWrite a lv)
        | .fail c _ => .stops (s.abortEntry q e 0x18 c a)
        | .ok l =>
          if l.apt = 2 then .stops (s.abortEntry q e 0x18 0xFF a)
          else
            let s := s.markLeaf l true
            let r := s.engineWrite q.die e.ctx 0 ⟨l.space, l.phys a, some l⟩ (l.phys a) b.1
            .goes r.2 (ids ++ [r.1]) flags

/-- The rows of ZOUT from where it stopped. -/
def zoutRows (s : State) (q : QuadId) (e : EngEntry) : State :=
  let core := s.entryCore e
  let els := ((List.range e.m).filter (e.kdone ≤ ·)).flatMap fun i => (List.range e.n).map fun j => (i, j)
  match els.foldl (zoutOne q e core) (.goes s [] 0) with
  | .stops s => s
  | .goes s ids flags => s.modEntry q e.age fun x => { x with opsDone := true, writes := x.writes ++ ids, flags := x.flags ||| flags }

/-! ## The end of an operation (R263, R274) -/

/-- A pass or ZIN whose operands are there writes its tile; ZOUT writes its rows, and ends once they are performed. -/
def finishEntry (s : State) (q : QuadId) (e : EngEntry) : State :=
  let core := s.entryCore e
  let done (s : State) (flags : FlagSet) : State :=
    ((s.modEntry q e.age fun x => { x with state := .done, fetched := [] }).settleTable q).raiseSeq e.wid (e.flags ||| flags)
  if e.op = 3 then
    if !e.opsDone then s.zoutRows q e else if e.writes.any s.outstanding then s else done s 0
  else if !e.opsDone then s
  else if e.isPass then
    let r := s.passRows core e e.chunksLeft
    done (s.putRows core e.ctx e.zt 0 r.1) r.2
  else
    let r := zinRows e e.rowsLeft
    done (s.putRows core e.ctx e.zt e.kdone r.1) r.2

/-- The running entries of an engine. -/
def runningEntries (s : State) (q : QuadId) : List EngEntry := (s.engineAt q).entries.filter (·.state == .running)

/-- Whether the context of an entry runs where its sequencer is, with nothing to be cleared first (R391). -/
def entryLive (s : State) (e : EngEntry) : Bool :=
  let w := s.wgOf e.wid
  let c := s.coreAt w.first
  c.regs.ctx == e.ctx && c.status == .live && !s.engineUncleared w.first w.part

/-- The arbiter's choice (R273): a boosted entry first, then the highest priority, the oldest on a tie. -/
def arbiterPick (es : List EngEntry) : Option EngEntry :=
  let better (a b : EngEntry) : Bool :=
    if a.boost != b.boost then a.boost
    else if !a.boost && a.pri != b.pri then b.pri < a.pri else a.age < b.age
  es.foldl (fun best e => match best with
    | none => some e
    | some b => if better e b then some e else best) none

end State

/-- An entry after a grant: the one granted runs; an eligible one that was passed over counts it (R273). -/
def EngEntry.afterGrant (el : EngEntry → Bool) (age : Nat) (x : EngEntry) : EngEntry :=
  if x.age == age then { x with state := .running }
  else if el x then { x with passed := min 31 (x.passed + 1), boost := x.boost || decide (31 ≤ x.passed + 1) }
  else x

/-- ARBITER_GRANT (R273): the pipeline accepts an operation when none runs but a ZOUT whose writes are on their way. -/
def execArbiterGrant (q : QuadId) (s : State) : Out :=
  .next (if (s.runningEntries q).any (fun e => !(e.op == 3 && e.opsDone)) then s
    else
      let t := s.engineAt q
      let el (e : EngEntry) : Bool := e.state == .eligible && s.entryLive e
      match State.arbiterPick (t.entries.filter el) with
      | none => s
      | some e => s.setEngine { t with entries := t.entries.map (EngEntry.afterGrant el e.age) })

/-- TILE_FETCH_LINE (R275, R276, R278). -/
def execTileFetchLine (q : QuadId) (s : State) : Out :=
  .next (match (s.runningEntries q).find? (fun e => !e.opsDone && e.op != 3) with
    | some e => s.fetchLineFor q e true
    | none => s)

/-- PIN_TIMEOUT (R276): a fetch that waited for a way goes on unpinned. -/
def execPinTimeout (q : QuadId) (s : State) : Out :=
  .next (match (s.runningEntries q).find? (fun e => !e.opsDone && e.op != 3) with
    | some e => s.fetchLineFor q e false
    | none => s)

/-- OPERAND_PHASE_END (R278, R280): every read of the operand region of the running operation is finished. -/
def execOperandPhaseEnd (q : QuadId) (s : State) : Out :=
  .next (match (s.runningEntries q).find? (fun e => !e.opsDone && e.op != 3) with
    | some e => if e.needs.all e.has then s.modEntry q e.age fun x => { x with opsDone := true } else s
    | none => s)

/-- ENGINE_OP_DONE (R274): each running operation that can end does. -/
def execEngineOpDone (q : QuadId) (s : State) : Out :=
  .next ((s.runningEntries q).foldl (fun s e => s.finishEntry q e) s)

end Sys2Proof.Machine
end

