-- ==== Sys2Proof/Machine/Burin.lean ====
section
/-! DEFINITION. The Burin sequencer: fetch, its reads of memory, and its fifteen instructions (R69, R70, R254, R260 to R264, R269 to
R272, R280, R285, R287 to R295, R450). An instruction acts for the sequencer of the workgroup `w`. -/

namespace Sys2Proof.Machine

namespace State

/-! ## The sequencer of `w` -/

/-- Runs a meaning on the sequencer of `w`; a workgroup without one does nothing. -/
def withSeq (s : State) (k : Sequencer → State) : State :=
  match s.w.seq with
  | some q => k q
  | none => s

/-- The instruction completes with an update of the sequencer, and the PC moves on (R261). -/
def seqNext (s : State) (f : Sequencer → Sequencer) : State :=
  s.modSeq fun q => { f q with pc := q.pc + 1, wait := .none }

/-- The instruction waits at its PC (R292, R293). -/
def seqWait (s : State) (w : SeqWait) : State := s.modSeq fun q => { q with wait := w }

/-- The instruction faults: the sequencer stops before it has any effect (R70, R262). -/
def seqStop (s : State) (sub : Nat) : State := s.withSeq fun q => s.seqFault s.w.wid sub q.pc

/-- Y[n]. -/
def yval (q : Sequencer) (n : BitVec 4) : DWord := q.y.getD n.toNat 0

/-- D[n]. -/
def dval (q : Sequencer) (n : BitVec 3) : Tsr := q.d.getD n.toNat 0

def Seq.putY (n : BitVec 4) (x : DWord) (q : Sequencer) : Sequencer := { q with y := q.y.set n.toNat x }

def Seq.putD (n : BitVec 3) (t : Tsr) (q : Sequencer) : Sequencer := { q with d := q.d.set n.toNat t }

/-! ## Fetch (R69, R450) -/

/-- A fetch, or a YBR target, on an absent page stalls the sequencer, with one record of KIND 3 (R450). -/
def seqFetchFault (s : State) (va level : Nat) : State :=
  let t := s.engineFault s.w.first s.w.ctx (.sequencer s.w.wid) .fetch va level
  t.2.seqWait (.read t.1 true)

/-- A fetch that fails another check stops the sequencer with sub-code 0x06 and is logged (R450, R397). A sequencer has no slot and no task,
and the spec names none for its entry: SLOT and TASK are 0 (log entry 43, DESIGN CHOICE). -/
def seqFetchStop (s : State) (cause va : Nat) : State :=
  s.withSeq fun q => (s.logError s.w.first s.w.ctx 0x06 0xFF cause 0 0 (BitVec.ofNat 64 va) q.pc).seqStop 0x06

/-- The line of a Burin PC: `k` goes on with the line, or the sequencer stalls or stops. Parity that fails twice gives `none` (R34). -/
def seqLine (s : State) (pc : DWord) (k : State → Option Line → State) : State :=
  let r := s.ctxRegs s.w.first s.w.ctx
  let va := lineVa pc
  match s.translate s.w.first r s.w.supervisor .fetch va with
  | .fail 0x08 lv => s.seqFetchFault va lv
  | .fail c _ => s.seqFetchStop c va
  | .ok l =>
    let s := s.useLeaf s.w.first r l false
    let line := s.fetchLine s.w.first l va
    let again := Line.ofBytes (s.bytesAt l.space (l.phys va) 64)
    k s (if line.parityOk then some line else if again.parityOk then some again else none)

/-- The instruction at the PC of the sequencer of `w`, given to `run`, or its stop (Table 2-17). Where several causes hold for one
instruction the spec gives no order; they are tested as 0x03, 0x04, 0x05, 0x01, 0x02, a reserved opcode before its other bits (log entry 42,
DESIGN CHOICE). -/
def seqFetch (s : State) (q : Sequencer) (run : Instr → State → State) : State :=
  s.seqLine q.pc fun s line =>
    match line with
    | none => s.seqStop 0x03
    | some l =>
      if !q.entered && !l.tgt (q.pc.toNat % 5) then s.seqStop 0x04
      else if !l.wordOk || l.pair != 0#4 then s.seqStop 0x05
      else match decodeBurin (l.slots.getD (q.pc.toNat % 5) 0#96) with
        | .error .reservedOpcode => s.seqStop 0x01
        | .error _ => s.seqStop 0x02
        | .ok i => run i (s.modSeq fun q => { q with entered := true })

/-- Whether the sequencer of a workgroup may execute: its context runs on the core of its first group, and a group of it is left (R260, R282). -/
def seqRuns (s : State) (w : Workgroup) : Bool :=
  let c := s.coreAt w.first
  c.regs.ctx == w.ctx && c.status == .live && !c.swap.late && !s.strictStops w.first
    && w.members.any fun gid => ((s.group? gid).map (·.wait != Wait.ended)).getD false

/-- The sequencer of `w` makes its next move; `run` is the meaning of an instruction. A wait is evaluated again without a fetch. -/
def seqMove (s : State) (run : Instr → State → State) : State :=
  if !s.seqRuns s.w then s
  else s.withSeq fun q =>
    match q.wait with
    | .none => s.seqFetch q run
    | .bwai b => run (.bwai (BitVec.ofNat 4 b)) s
    | .ordy => run .ordy s
    | .mwt sel => run (.mwt sel) s
    | .bendWait => run .bend s
    | .read .. | .ended | .faulted => s

/-! ## Posting (R261, R271, R288, R289) -/

/-- Whether a posting has to stall (R261). -/
def tableFull (s : State) : Bool := 8 ≤ (s.entriesOf s.w).length || 32 ≤ (s.engineAt s.w.quad).entries.length

/-- An entry as the sequencer of `w` posts it. -/
def newEntry (s : State) (q : Sequencer) (op : Nat) (zt : BitVec 6) (zc : BitVec 2) : EngEntry where
  age := 0
  wid := s.w.wid
  seqNo := q.ctxNo
  ctx := s.w.ctx
  op := op
  mode := .bb
  zc := zc.toNat
  zt := zt.toNat
  m := 0
  n := 0
  k := 0
  kdone := 0
  state := .waiting
  passed := 0
  boost := false
  pri := 0
  ftag := 0
  tsrA := 0
  tsrB := 0
  pc := q.pc
  opsDone := false
  fetched := []
  rnd := 0
  satn := false
  ntz := false
  sce := none
  flags := 0
  err := none
  writes := []

/-- Posts an entry, unless the sequencer has to stall. -/
def seqPost (s : State) (e : EngEntry) : State :=
  if s.tableFull then s else (s.postEntry s.w.quad e).seqNext id

/-- The operand checks of a pass: the sub-code of the first that fails (R271). -/
def passCheck (w : Workgroup) (f : PassFields) (a b : Tsr) : Option Nat :=
  let k := a.ext2
  let wide := f.mode != .bb
  let want := match f.mode with
    | .bb => 0
    | .bq => 1
    | .bf => 2
    | .bi => 3
  if !(1 ≤ a.ext1 && a.ext1 ≤ 128 && 1 ≤ b.ext1 && b.ext1 ≤ 128 && 32 ≤ k && k ≤ 2048 && k % 32 == 0 && b.ext2 == k)
      || (wide && (k % b.blk != 0 || b.col0 % b.blk != 0)) then some 0x11
  else if a.elem != 0 || b.elem != want then some 0x12
  else if (w.zcCore f.zc.toNat).isNone then some 0x13
  else none

/-- MMA and MMZ (R269, R271, R287). -/
def postPass (s : State) (op : Nat) (f : PassFields) : State :=
  s.withSeq fun q =>
    let a := dval q f.da
    let b := dval q f.db
    match passCheck s.w f a b with
    | some c => s.seqStop c
    | none =>
      s.seqPost { s.newEntry q op f.zt f.zc with
        mode := f.mode, m := a.ext1, n := b.ext1, k := a.ext2, pri := f.pri.toNat, tsrA := a, tsrB := b }

/-- The checks of a window that ZIN or ZOUT moves (R288, R289). -/
def windowCheck (w : Workgroup) (zc : BitVec 2) (t : Tsr) (formats : List Nat) : Option Nat :=
  if !(1 ≤ t.ext1 && t.ext1 ≤ 128 && 1 ≤ t.ext2 && t.ext2 ≤ 128) then some 0x11
  else if !formats.contains t.elem then some 0x12
  else if (w.zcCore zc.toNat).isNone then some 0x13
  else none

/-! ## Reads of TSRW and YMOV (R290, R294) -/

/-- A read of virtual memory, or the way it stalls or stops the sequencer. -/
def seqRead (s : State) (core : CoreId) (va n : Nat) (k : State → List Byte → State) : State :=
  match s.engineTranslate (s.ctxRegs s.w.first s.w.ctx) s.w.supervisor .engineRead va with
  | .fail 0x08 lv =>
    let t := s.engineFault core s.w.ctx (.sequencer s.w.wid) .engineRead va lv
    t.2.seqWait (.read t.1 false)
  | .fail _ _ => s.seqStop 0x16
  | .ok l =>
    if l.apt = 2 then s.seqStop 0x16
    else
      let loc : Loc := ⟨l.space, l.phys va, some l⟩
      if s.engineBad loc loc.off n then s.seqStop 0x19 else k (s.markLeaf l false) (s.engineRead loc loc.off n)

/-- The effective address of a register and a displacement. -/
def seqAddress (q : Sequencer) (y : BitVec 4) (disp : BitVec 32) : Nat := (yval q y + disp.signExtend 64).toNat

/-- A TSR goes into its slot if it passes R267. -/
def seqTsr (s : State) (d : BitVec 3) (t : Tsr) : State :=
  if t.valid then s.seqNext (Seq.putD d t) else s.seqStop 0x10

/-! ## Barriers (R254, R264, R292) -/

/-- Whether the sequencer's latest arrival at a barrier lies in a completed phase, with the accesses it follows performed. -/
def seqBarDone (s : State) (q : Sequencer) (b : Nat) : Bool :=
  let n := nbar s.w b
  match q.arrivals.getD b none with
  | none => true
  | some p => p < n.phase && !((nbarRelease n p).any s.outstanding)

/-! ## Waits on operations (R280) -/

/-- Whether ORDY proceeds. -/
def operandsRead (s : State) : Bool := (s.entriesOf s.w).all fun e => e.op == 3 || e.opsDone || e.finished

/-- Whether MWT proceeds. -/
def operationsDone (s : State) (sel : MwtSel) : Bool :=
  (s.entriesOf s.w).all fun e => e.finished || (match sel with
    | .all => false
    | .tile zt zc => e.zt != zt.toNat || e.zc != zc.toNat)

/-! ## YBR (R295) -/

/-- Whether YBR branches, on the value of Y[YA] that its condition reads (Table 9-8). -/
def yTaken (c : YCond) (y : DWord) : Bool :=
  match c with
  | .always => true
  | .z => y == 0
  | .nz | .dnz => y != 0
  | .lt => y.getLsbD 63
  | .ge => !y.getLsbD 63

end State

/-! ## Instructions -/

/-- MMA (R287). -/
def execMma (f : PassFields) (s : State) : Out := .next (s.postPass 0 f)

/-- MMZ (R287). -/
def execMmz (f : PassFields) (s : State) : Out := .next (s.postPass 1 f)

/-- ZIN (R288). -/
def execZin (f : ZinFields) (s : State) : Out :=
  .next (s.withSeq fun q =>
    let t := State.dval q f.dt
    match State.windowCheck s.w f.zc t [0, 4] with
    | some c => s.seqStop c
    | none => s.seqPost { s.newEntry q 2 f.zt f.zc with m := t.ext1, n := t.ext2, tsrA := t })

/-- ZOUT (R289); E is read at issue. -/
def execZout (f : ZoutFields) (s : State) : Out :=
  .next (s.withSeq fun q =>
    let t := State.dval q f.dt
    match State.windowCheck s.w f.zc t [0, 4, 5] with
    | some c => s.seqStop c
    | none => s.seqPost { s.newEntry q 3 f.zt f.zc with
        m := t.ext1, n := t.ext2, tsrA := t, rnd := f.rnd.toNat, satn := f.satn, ntz := f.ntz
        sce := if f.sce then some ((State.yval q f.ys).toNat % 64) else none })

/-- TSRW (R290). -/
def execTsrw (f : TsrwFields) (s : State) : Out :=
  .next (s.withSeq fun q =>
    let a := State.seqAddress q f.ya f.disp
    if a % 128 != 0 then s.seqStop 0x15
    else if f.sp then
      match s.w.zcCore f.zc.toNat with
      | none => s.seqStop 0x13
      | some core =>
        let size := ((s.scratchInfo core s.w.ctx).map (·.1)).getD 0
        if size < a + 128 then s.seqStop 0x1A
        else if (List.range 128).any fun i =>
            let l := s.scratchAt core s.w.ctx (a + i)
            s.poisoned l.1 l.2 then s.seqStop 0x19
        else s.seqTsr f.dt (BitVec.ofNat 1024 (leNat (s.getScratch core s.w.ctx a 128)))
    else s.seqRead ((s.w.zcCore f.zc.toNat).getD s.w.first) a 128 fun s bs => s.seqTsr f.dt (BitVec.ofNat 1024 (leNat bs)))

/-- TADV (R291). -/
def execTadv (f : TadvFields) (s : State) : Out :=
  .next (s.withSeq fun q =>
    let t := State.dval q f.dt
    let lo := match f.fld with
      | .row0 => 512
      | .col0 => 544
      | .org2 => 576
      | .org3 => 608
    let add : Word := if f.ysel then (State.yval q f.yn).setWidth 32 else f.imm
    let new : Word := t.extractLsb' lo 32 + add
    let cleared : Tsr := t &&& ~~~(((0xFFFFFFFF : Word).setWidth 1024) <<< lo)
    s.seqTsr f.dt (cleared ||| (new.setWidth 1024) <<< lo))

/-- BARR (R254, R292). -/
def execBarr (bn : BitVec 4) (e : BitVec 7) (s : State) : Out :=
  .next (s.withSeq fun q =>
    let b := bn.toNat
    let s := s.settleNbar s.w.wid b
    let n := State.nbar s.w b
    if 0 < n.count && n.expect != e.toNat then s.seqStop 0x14
    else
      let after := q.waited || n.seq == some true
      (({ s with w := { s.w with nbars := s.w.nbars.set b { n with count := n.count + 1, expect := e.toNat, seq := some after } } } : State).seqNext
        fun q => { q with arrivals := q.arrivals.set b (some n.phase) }))

/-- BWAI (R252, R292). -/
def execBwai (bn : BitVec 4) (s : State) : Out :=
  .next (s.withSeq fun q =>
    let s := s.settleNbar s.w.wid bn.toNat
    if s.seqBarDone q bn.toNat then s.seqNext id else s.seqWait (.bwai bn.toNat))

/-- ORDY (R280, R293). -/
def execOrdy (s : State) : Out := .next (s.withSeq fun _ => if s.operandsRead then s.seqNext id else s.seqWait .ordy)

/-- MWT (R280, R293). -/
def execMwt (sel : MwtSel) (s : State) : Out :=
  .next (s.withSeq fun _ => if s.operationsDone sel then s.seqNext fun q => { q with waited := true } else s.seqWait (.mwt sel))

/-- BEND (R293): it waits as MWT does, and stops the sequencer. -/
def execBend (s : State) : Out := .next (s.withSeq fun _ => s.seqWait (if s.operationsDone .all then .ended else .bendWait))

/-- BNOP (R293). -/
def execBnop (s : State) : Out := .next (s.seqNext id)

/-- YMOV (R294). -/
def execYmov (yd : BitVec 4) (src : YmovSrc) (s : State) : Out :=
  .next (s.withSeq fun q =>
    match src with
    | .reg ys => s.seqNext (State.Seq.putY yd (State.yval q ys))
    | .imm v => s.seqNext (State.Seq.putY yd v)
    | .load ys disp =>
      let a := State.seqAddress q ys disp
      if a % 8 != 0 then s.seqStop 0x15
      else s.seqRead s.w.first a 8 fun s bs => s.seqNext (State.Seq.putY yd (BitVec.ofNat 64 (leNat bs))))

/-- YADD (R294). -/
def execYadd (yd : BitVec 4) (ya : BitVec 4) (src : YaddSrc) (s : State) : Out :=
  .next (s.withSeq fun q =>
    let b := match src with
      | .reg yb => State.yval q yb
      | .imm v => v.signExtend 64
    s.seqNext (State.Seq.putY yd (State.yval q ya + b)))

/-- YBR (R295, R450): the target is checked before the branch, or its decrement, has any effect. Where the target's line fails parity twice
its TGT bit cannot be read: the branch is taken, and the fetch of the target then stops with 0x03 (R34, R69; log entry 44, DESIGN CHOICE). -/
def execYbr (ya : BitVec 4) (c : YCond) (off : BitVec 32) (s : State) : Out :=
  .next (s.withSeq fun q =>
    let y := State.yval q ya - (if c == .dnz then 1 else 0)
    let write : Sequencer → Sequencer := if c == .dnz then State.Seq.putY ya y else id
    if !State.yTaken c y then s.seqNext write
    else
      let target := q.pc + off.signExtend 64
      s.seqLine target fun s line =>
        let ok : Bool := match line with
          | some l => l.tgt (target.toNat % 5)
          | none => true
        if ok then s.modSeq fun q => { write q with pc := target, wait := .none } else s.seqStop 0x04)

end Sys2Proof.Machine
end

