-- ==== Sys2Proof/Machine/Control.lean ====
section
/-! DEFINITION. Control-flow instructions (R86 to R103). A tail instruction is checked where it stands and leaves its action for
the trailer (R38); the actions are here and TRL performs them. -/

namespace Sys2Proof.Machine

namespace State

/-- PC of the slot that follows the trailer, for the tail instruction at the PC (R88). -/
def nextPc (s : State) : DWord := s.g.pc + 2

/-- The target of a CT instruction: its slot plus the signed offset (R92). -/
def branchTarget (s : State) (f : Fields) : DWord := s.g.pc + f.x.signExtend 64

/-- A stack trap, precise at the instruction (Table 3-4). -/
def stackTrap (s : State) (tval : Nat) : State := s.trapHere 0x0E (some (BitVec.ofNat 64 tval)) none

/-- Whether a push finds 1,024 entries (Table 3-4). -/
def stackFull (s : State) : Bool := 1024 ≤ depth s.g

/-- The top entry for JOIN or RET, or the stack trap of Table 3-4. `call` selects RET, which needs KIND 2. An entry of the wrong kind is
not popped, and neither is one whose pending lanes JOIN takes over, so neither is malformed for it (R87). -/
def withTop (s : State) (call : Bool) (k : StackEntry → State → State) : State :=
  let s := s.refill
  match s.g.stack with
  | [] => s.stackTrap 1
  | e :: _ =>
    if e.kind != 3 && (e.kind == 2) != call then s.stackTrap 2
    else if StackEntry.malformed e && (call || e.kind != 0 || (e.pmask &&& s.g.live) == 0) then s.stackTrap 3
    else k e s

/-- A push with the current EM and FMT (R88, R95). -/
def pushEntry (s : State) (kind : BitVec 2) (ppc : DWord) (pmask : Mask) : State :=
  s.push ⟨s.g.fmt, 0, kind, ppc, pmask, s.g.em⟩

/-- Pops the top entry that the core holds. -/
def popTop (s : State) : State := s.modG fun g => { g with stack := g.stack.drop 1 }

/-- The action of BRP (R88); PC is at next. -/
def brpAction (s : State) (t f : Mask) (target : DWord) : State :=
  let s := s.pushEntry 0 s.g.pc (if t != 0 then f else 0)
  s.modG fun g => if t != 0 then { g with em := t &&& g.live, pc := target } else { g with em := f &&& g.live }

/-- The action of JOIN (R88); PC is at next. -/
def joinAction (s : State) : State :=
  let s := s.refill
  match s.g.stack with
  | [] => s
  | e :: rest =>
    if e.kind = 0 && (e.pmask &&& s.g.live) != 0 then
      s.modG fun g => { g with
        em := e.pmask &&& g.live, pc := e.ppc, fmt := e.fmt
        stack := { e with kind := 1, ppc := g.pc, pmask := 0 } :: rest }
    else s.modG fun g => { g with em := e.rmask &&& g.live, fmt := e.fmt, stack := rest }

/-- The action of RET (R95). -/
def retAction (s : State) : State :=
  let s := s.refill
  match s.g.stack with
  | [] => s
  | e :: rest => s.modG fun g => { g with em := e.rmask &&& g.live, pc := e.ppc, stack := rest }

/-- Removes exited lanes from the spilled stack entries (R99). -/
def exitSpilled (x : Mask) (s : State) (k : Nat) : State :=
  match s.frameOf s.g.core s.g.ctx with
  | none => s
  | some fr =>
    let at_ := spillAt fr s.g k
    let e := entryOf (s.bytesAt .pool at_ 40)
    s.putBytes .pool at_ (entryBytes { e with rmask := e.rmask &&& ~~~x, pmask := e.pmask &&& ~~~x })

/-- The action of EXIT on lanes X (R99). -/
def exitAction (s : State) (x : Mask) : State :=
  let s := (List.range s.g.spilled).foldl (exitSpilled x) s
  s.modG fun g => { g with
    live := g.live &&& ~~~x
    em := g.em &&& ~~~x
    stack := g.stack.map fun e => { e with rmask := e.rmask &&& ~~~x, pmask := e.pmask &&& ~~~x } }

/-- Lanes that EXIT names (R99). -/
def exitLanes (g : Group) (f : Fields) : Mask :=
  match f.a with
  | .p k => g.em &&& (if f.na then ~~~(g.pget k.toNat) else g.pget k.toNat)
  | _ => g.em

end State

/-- BRA (R94). -/
def execBra (f : Fields) (s : State) : Out :=
  .next (s.issue (.bra f) f true false fun s _ =>
    let t := s.branchTarget f
    s.withTarget t fun s => s.retireTail (.jump t))

/-- BRP (R88, R94). Which trap is taken where the target fails and the stack is full, the spec does not say: the model checks the target
first (log entry 26, DESIGN CHOICE). -/
def execBrp (f : Fields) (s : State) : Out :=
  .next (s.issue (.brp f) f true false fun s _ =>
    let p := match f.a with
      | .p k => s.g.pget k.toNat
      | _ => 0
    let pred := if f.na then ~~~p else p
    let t := s.g.em &&& pred
    let target := s.branchTarget f
    let go (s : State) : State := if s.stackFull then s.stackTrap 0 else s.retireTail (.brp t (s.g.em &&& ~~~pred) target)
    if t != 0 then s.withTarget target go else go s)

/-- JOIN (R88, R94): it takes effect whenever it is reached, so no lane need qualify (R66). A JOIN with a reserved field takes cause 0x00
even with EM = 0, where R66 and R67 leave it open (log entry 27, DESIGN CHOICE). -/
def execJoin (f : Fields) (s : State) : Out :=
  .next (if !(Instr.join f).legal then s.illegal s.g.em
    else match s.g.marksRead (.join f) s.g.em with
    | m :: ms => s.poisonTaken m.2 (ms.foldl (fun acc x => acc ||| x.1) m.1)
    | [] => s.withTop false fun e s =>
      if e.kind = 0 && (e.pmask &&& s.g.live) != 0 then s.withTarget e.ppc fun s => s.retireTail .join
      else s.retireTail .join)

/-- CALL (R95). As in BRP, the target is checked before the stack (log entry 26, DESIGN CHOICE). -/
def execCall (f : Fields) (s : State) : Out :=
  .next (s.issue (.call f) f true false fun s _ =>
    let t := if f.sub.getLsbD 2 then s.g.intOperand true f.a 0 else s.branchTarget f
    s.withTarget t fun s => if s.stackFull then s.stackTrap 0 else s.retireTail (.call t))

/-- RET (R95). Where no lane of RMASK is live an implicit join follows, and the target, which no lane enters, is not checked: R35 does not say
(log entry 85, DESIGN CHOICE). -/
def execRet (f : Fields) (s : State) : Out :=
  .next (s.issue (.ret f) f true false fun s _ =>
    s.withTop true fun e s =>
      if (e.rmask &&& s.g.live) != 0 then s.withTarget e.ppc fun s => s.retireTail .ret else s.retireTail .ret)

/-- LOOP (R96). -/
def execLoop (f : Fields) (s : State) : Out :=
  .next (s.issue (.loop f) f true false fun s _ =>
    let r := match f.a with
      | .s n => n.toNat
      | _ => 63
    let n := s.g.sget r - 1
    let t := s.branchTarget f
    if n = 0 then (s.modG fun g => g.sset r n).retireTail .none
    else s.withTarget t fun s => (s.modG fun g => g.sset r n).retireTail (.jump t))

/-- BRX (R97). -/
def execBrx (f : Fields) (s : State) : Out :=
  .next (s.issue (.brx f) f true false fun s _ =>
    if f.sub.getLsbD 2 then
      let t := s.g.intOperand true f.a 0
      s.withTarget t fun s => s.retireTail (.jump t)
    else
      let i := s.g.word f.a 0
      if i < s.g.word f.b 0 then
        let t := s.branchTarget f + ((i.setWidth 64) <<< (f.sub.extractLsb' 0 2).toNat)
        s.withTarget t fun s => s.retireTail (.jump t)
      else s.retireTail .none)

/-- NOP (R64). -/
def execNop (f : Fields) (s : State) : Out := .next (s.issue (.nop f) f true false fun s _ => s.retire (.nop f))

/-- TRAP (R100): the trap is taken when the trailer has retired, with TEPC at next. -/
def execTrap (f : Fields) (s : State) : Out :=
  .next (s.issue (.trap f) f true false fun s _ => s.retireTail (.trap f.x))

/-- Values that SFMT refuses (R101). -/
def fmtBad (v : Word) : Bool :=
  v >>> 11 != 0 || 5#3 ≤ v.extractLsb' 0 3 || v.extractLsb' 7 2 == 3#2 || 5#4 ≤ v.extractLsb' 3 4

/-- SFMT (R80, R101). -/
def execSfmt (f : Fields) (s : State) : Out :=
  .next (s.issue (.sfmt f) f true false fun s q =>
    let v := if f.sub.getLsbD 7 then f.x else s.g.word f.a 0
    if fmtBad v then s.illegal q
    else (s.modG fun g => { g with fmt := v.setWidth 16 }).retire (.sfmt f))

/-- WAITT (R102): the group sleeps at the WAITT, which issues again when it wakes. -/
def execWaitt (f : Fields) (s : State) : Out :=
  .next (s.issue (.waitt f) f true false fun s _ =>
    let t := (s.g.intOperand true f.a 0).toNat
    if t ≤ s.localTime s.g.core then s.retireTail .none else s.waitOn (.waitt t))

/-- YLD (R103). -/
def execYld (f : Fields) (s : State) : Out :=
  .next (s.issue (.yld f) f true false fun s _ => s.retireTail (.yld f.x.toNat))

end Sys2Proof.Machine
end

