-- ==== Sys2Proof/Machine/Fabric.lean ====
section
/-! DEFINITION. Fabric transfers and in-switch reduction (R311, R312, R314 to R321). -/

namespace Sys2Proof.Machine

namespace State

/-- Packages of the pod (R21). -/
def podPackages (s : State) : Nat := 64 * s.vuvs

/-- The other packages of the pod that the peer table names, and those of this Vuvosum (R321, log entry 96). -/
def podPeers (s : State) : List Nat := ((s.fabric.peers.map (·.1)).filter (· != s.pkg)).eraseDups

def vuvPeers (s : State) : List Nat := s.podPeers.filter fun p => p / 64 == s.vuv

/-- The incarnation that this package's gateways hold for a package (R321). -/
def peerInc (s : State) (pkg : Nat) : BitVec 16 :=
  if pkg = s.pkg then s.fabric.incarnation else ((s.fabric.peers.find? (·.1 == pkg)).map (·.2)).getD 0

/-- A Keloma port of the package: 0 to 35 (R13). -/
def linkAt (s : State) (port : Nat) : Link := (s.fabric.links.find? (·.port == port)).getD (Link.initial port)

def setLink (s : State) (l : Link) : State :=
  { s with fabric := { s.fabric with links := s.fabric.links.map fun x => if x.port == l.port then l else x } }

/-- Whether a link may send: the key of its generation is loaded (R323). -/
def keyed (l : Link) : Bool := (l.keys.getD (if l.gen then 1 else 0) none).isSome

/-- Data bytes in segments of 64 (R322). -/
def dataSegs (bs : List Byte) : List (Nat × BitVec 512) :=
  (List.range ((bs.length + 63) / 64)).map fun k => (3, BitVec.ofNat 512 (leNat ((bs.drop (64 * k)).take 64)))

/-- A header segment (Table 10-9): KOP, sender, receiver, destination, DHD, LEN, TAG, context, partition, ADDR, CNT and OPS. -/
def headerSeg (kop : Nat) (st : Stamp) (dpkg : Nat) (dst : CoreId) (dhd : Bool) (len tag : Nat) (ctx : BitVec 32) (part : Byte) (addr : Nat)
    (cnt : Word) (ops : List Word) : BitVec 512 :=
  let at_ (lo w x : Nat) : BitVec 512 := BitVec.ofNat 512 (x % 2 ^ w * 2 ^ lo)
  at_ 0 8 kop ||| at_ 16 12 st.spkg.toNat ||| at_ 28 12 dpkg ||| at_ 40 3 dst.die ||| at_ 43 1 dhd.toNat ||| at_ 44 6 dst.core
    ||| at_ 64 16 st.sinc.toNat ||| at_ 80 16 st.dinc.toNat ||| at_ 96 16 tag ||| at_ 112 13 len ||| at_ 128 32 ctx.toNat ||| at_ 160 8 part.toNat
    ||| at_ 192 64 addr ||| at_ 256 32 cnt.toNat
    ||| (ops.take 7).zipIdx.foldl (fun b x => b ||| at_ (288 + 32 * x.2) 32 x.1.toNat) 0

/-- The segments of a packet: its header, 1 for a request and 2 for a response, and its data (R322). What Table 10-9 and Table 12-2 give no KOP
has KOP 0 and an empty body, and OPS words that they leave open are log entry 18's. -/
def segmentsOf (o : Outbound) : List (Nat × BitVec 512) :=
  let no : CoreId := ⟨0, 0⟩
  let w (n : Nat) : Word := BitVec.ofNat 32 n
  let recs (rs : List JRec) : List Byte := rs.flatMap fun r => leBytes 32 r.toNat
  let pack (kind : Nat) (h : Nat → BitVec 512) (data : List Byte) : List (Nat × BitVec 512) := (kind, h data.length) :: dataSegs data
  let jr (kop pkg die : Nat) (st : Stamp) (ctx : BitVec 32) (addr : Nat) (ops : List Word) (data : List Byte) : List (Nat × BitVec 512) :=
    pack 1 (fun n => headerSeg kop st pkg ⟨die, 0⟩ false n 0 ctx 0 addr 0xFFFFFFFF ops) data
  match o with
  | .packet pkg p =>
    let st : Stamp := ⟨p.spkg, p.sinc, p.dinc⟩
    pack (if p.response then 2 else 1) (fun n => headerSeg (if p.response then 3 else 1) st pkg p.dst false n (p.tag.getD 0) p.ctxid p.part p.off p.cnt
      [if p.response then 0 else w p.last.toNat]) p.data
  | .get pkg r =>
    pack 1 (fun n => headerSeg 2 ⟨r.spkg, r.sinc, r.dinc⟩ pkg r.src false n r.tag r.ctxid r.part r.off 0xFFFFFFFF
      [w r.len, w (64 * r.dest.die + r.dest.core), w r.doff]) []
  | .journal pkg die st ctx jt first rs => jr 0x30 pkg die st ctx first [w jt] (recs rs)
  | .journalAck pkg die st ctx upto => jr 0x31 pkg die st ctx upto [] []
  | .journalTruncate pkg die st ctx jt => jr 0x32 pkg die st ctx jt [] []
  | .journalFetch pkg st spkg sdie sctx rdie nctx first => jr 0x33 pkg rdie st nctx first [w rdie, w spkg, w sdie, sctx] []
  | .journalRecords pkg die st ctx first rs => jr 0x34 pkg die st ctx first [] (recs rs)
  | .reduction pkg st tag slot index data =>
    pack 2 (fun n => headerSeg 0x21 st pkg no false n tag 0 0 0 0xFFFFFFFF [0, w (slot + 65536 * index)]) data
  | .answer pkg st tag code cause addr data =>
    pack 2 (fun n => headerSeg 1 st pkg no false n tag 0 0 addr 0xFFFFFFFF [w code, w cause]) data
  | .contribution c =>
    pack 1 (fun n => headerSeg 0x20 c.from_ 0 no false n c.tag c.ctxid 0 0 (w (c.op.toNat + 4 * c.f32.toNat))
      [w (c.slot + 65536 * c.index + 16777216 * c.round.toNat), 0, 0, 0, c.deadline.setWidth 32, c.deadline.extractLsb' 32 32, w c.n]) c.data
  | .notice pkg st _ => [(1, headerSeg 0 st pkg no true 0 0 0 0 0 0xFFFFFFFF [])]
  | .signal pkg die core _ _ _ => [(1, headerSeg 0 ⟨0, 0, 0⟩ pkg ⟨die, core⟩ false 0 0 0 0 0 0xFFFFFFFF [])]
  | .window pkg _ _ | .share pkg _ | .ended pkg _ _ => [(1, headerSeg 0 ⟨0, 0, 0⟩ pkg no true 0 0 0 0 0 0xFFFFFFFF [])]
  | _ => []

/-- Traffic leaves the package on a link whose key is loaded; which one the spec does not say. Its segments wait there for a flit. With no such link
it waits (R322, R323, log entries 17 and 18). -/
def send (s : State) (o : Outbound) : State :=
  let ls := s.fabric.links.filter keyed
  match ls[(Config.freeBits s.free).toNat % ls.length]? with
  | some l =>
    ({ s with free := s.free + 1, fabric := { s.fabric with outbound := s.fabric.outbound ++ [o] } } : State).setLink
      { l with txSegs := l.txSegs ++ segmentsOf o }
  | none => { s with fabric := { s.fabric with held := s.fabric.held ++ [o] } }

/-- The header of a flit (Table 10-8): SMAP, KG, FSEQ and ACKSEQ, the latest flit received in order; the AUTH field is not modelled (log entry
18). -/
def flitHead (l : Link) (f : TxFlit) : BitVec 512 :=
  let map := f.segs.zipIdx.foldl (fun n x => n + x.1.1 * 4 ^ x.2) 0
  BitVec.ofNat 512 (map % 2 ^ 18) ||| BitVec.ofNat 512 (f.kg.toNat * 2 ^ 18) ||| ((f.fseq.setWidth 512 : BitVec 512) <<< 32)
    ||| (((l.rxNext - 1).setWidth 512 : BitVec 512) <<< 48)

/-- A flit as it goes onto its link. -/
def flitOut (l : Link) (f : TxFlit) : Outbound := .flit l.port (flitHead l f) (f.segs.map (·.2))

/-- The flits that a link forms of its waiting segments, nine in each, in send order (R322). -/
def chunks : Nat → BitVec 16 → Bool → List (Nat × BitVec 512) → List TxFlit
  | 0, _, _, _ => []
  | n + 1, seq, gen, segs => if segs.isEmpty then [] else ⟨seq, gen, segs.take 9⟩ :: chunks n (seq + 1) gen (segs.drop 9)

/-- A link sends what waits on it: packets of one move share flits. The flits stay in the replay buffer, under the generation of this transmission
(R322, R323). -/
def formFlits (s : State) (l : Link) : State :=
  if l.txSegs.isEmpty then s
  else
    let fs := chunks l.txSegs.length l.txNext l.gen l.txSegs
    ({ s with fabric := { s.fabric with outbound := s.fabric.outbound ++ fs.map (flitOut l) } } : State).setLink
      { l with txSegs := [], txNext := l.txNext + BitVec.ofNat 16 fs.length, unacked := l.unacked ++ fs }

/-- Every link sends what waits on it. -/
def settleLinks (s : State) : State := s.fabric.links.foldl formFlits s

/-- What the replay buffer of a link holds is sent again (R322, R323). -/
def replayFlits (s : State) (l : Link) : State :=
  { s with fabric := { s.fabric with outbound := s.fabric.outbound ++ l.unacked.map (flitOut l) } }

/-- Traffic that waited leaves when a key is loaded. -/
def sendHeld (s : State) : State :=
  s.fabric.held.foldl (fun s o => s.send o) { s with fabric := { s.fabric with held := [] } }

/-- What this package puts into the header of a packet for another (R321). -/
def stamp (s : State) (pkg : Nat) : Stamp := ⟨BitVec.ofNat 12 s.pkg, s.fabric.incarnation, s.peerInc pkg⟩

/-- Sends towards a core: within the package into flight, otherwise out (R316). -/
def dispatch (s : State) (pkg srcDie : Nat) (x : FabricPacket ⊕ GetRequest) (cmd : Option Nat) : State :=
  if pkg = s.pkg then { s with fabric := { s.fabric with flight := s.fabric.flight ++ [⟨srcDie, x, cmd⟩] } }
  else s.send (match x with
    | .inl p => .packet pkg p
    | .inr r => .get pkg r)

/-- The core that a packet or request goes to. -/
def flightDst (x : FabricPacket ⊕ GetRequest) : CoreId :=
  match x with
  | .inl p => p.dst
  | .inr r => r.src

/-- The first flight that is this packet or request, if none from the same gateway to the same core stands before it (R316). -/
def findFlight (x : FabricPacket ⊕ GetRequest) (seen : List Flight) : List Flight → Option (Flight × List Flight)
  | [] => none
  | f :: fs =>
    if f.pkt = x && !(seen.any fun e => e.srcDie == f.srcDie && flightDst e.pkt == flightDst x) then some (f, seen.reverse ++ fs)
    else findFlight x (f :: seen) fs

/-- A fabric parameter error (R298). -/
def fabricTrap (s : State) : State := s.engineTrap 0x2B 0xFF

/-- XPUT and XGET (R314). -/
def transfer (s : State) (i : Instr) (f : Fields) (put : Bool) : State :=
  s.issue i f true false fun s _ =>
    let g := s.g
    let w (k : Nat) : Nat := (g.sget (f.d.toNat + k)).toNat
    let len := w 1
    let far := w 2
    let pkg := far % 4096
    let core : CoreId := ⟨far / 4096 % 8, far / 32768 % 64⟩
    let near := if put then w 0 else w 3
    let cnt := g.sget (f.d.toNat + 4)
    let cntOk := if put then cnt == 0xFFFFFFFF || cnt.toNat % 8 == 0 else s.counterOk g.core cnt
    if len % 16 ≠ 0 || len < 16 || 16777216 < len || w 0 % 16 ≠ 0 || w 3 % 16 ≠ 0 || !cntOk || !s.inScratch g.core near len
        || s.podPackages ≤ pkg || 47 < core.core || far / 2097152 ≠ 0 then s.fabricTrap
    else if put then s.issueCommand i (.put (w 0) len pkg core (w 3) cnt) 0xFFFFFFFF
    else s.issueCommand i (.get (w 0) len pkg core (w 3)) cnt

/-- Data bytes of the packet that starts `done` bytes into a transfer (R315). -/
def packetLen (off len done : Nat) : Nat := min (4096 - (off + done) % 4096) (len - done)

/-- Whether an earlier command of the group to the same core is still being sent (R316). -/
def sendBlocked (s : State) (c : Command) (pkg : Nat) (dest : CoreId) : Bool :=
  s.fabric.commands.any fun e => e.id < c.id && e.gid == c.gid && !e.local_ && (match e.kind with
    | .put _ _ p t _ _ => p == pkg && t == dest
    | .get _ _ p t _ => p == pkg && t == dest
    | _ => false)

/-- The command fails: its group gets the error, and EC falls if it has not fallen before (R299, R311). -/
def failCommand (s : State) (c : Command) (sub cause : Nat) (addr : Nat) : State :=
  let counted := match c.kind with
    | .get .. => true
    | _ => !c.local_
  let s := s.dropCommand c.id
  let s := if counted then s.lowerEc c.gid else s
  s.asyncError c.gid c.core c.ctx sub cause (BitVec.ofNat 64 addr) c.pc

/-- Whether a range of a context's scratchpad holds poisoned bytes. -/
def scratchBad (s : State) (core : CoreId) (ctx : BitVec 32) (off n : Nat) : Bool :=
  (List.range n).any fun i => let l := s.scratchAt core ctx (off + i); s.poisoned l.1 l.2

/-- The next packet of an XPUT is read and sent; after the last one EC falls, and the command stays until the far end has answered (R311, R314,
R315). -/
def putPacket (s : State) (c : Command) (off len pkg : Nat) (dest : CoreId) (roff : Nat) (rcnt : BitVec 32) : State :=
  let n := packetLen roff len c.progress
  let at_ := off + c.progress
  if s.sendBlocked c pkg dest then s
  else if s.scratchBad c.core c.ctx at_ n then s.failCommand c 0x25 0x0C at_
  else
    let fin := len ≤ c.progress + n
    let p : FabricPacket := ⟨s.fabric.incarnation, s.peerInc pkg, BitVec.ofNat 12 s.pkg, c.part, c.ctx, dest, roff + c.progress,
      s.getScratch c.core c.ctx at_ n, rcnt, some c.id, false, fin⟩
    let s := (s.dispatch pkg c.core.die (.inl p) (some c.id)).modCommand c.id fun c => { c with progress := c.progress + n, local_ := fin }
    if fin then s.lowerEc c.gid else s

/-- The request of an XGET is sent. -/
def getRequest (s : State) (c : Command) (roff len pkg : Nat) (src : CoreId) (off : Nat) : State :=
  if c.local_ || s.sendBlocked c pkg src then s
  else
    let r : GetRequest := ⟨s.fabric.incarnation, s.peerInc pkg, BitVec.ofNat 12 s.pkg, c.part, c.ctx, src, roff, len, c.id, c.core, off⟩
    (s.dispatch pkg c.core.die (.inr r) (some c.id)).modCommand c.id fun c => { c with local_ := true }

/-- The contribution of an XRED is read and sent (R311, R317). -/
def readContribution (s : State) (c : Command) (off n : Nat) (f32 : Bool) : State :=
  let bytes := n * (if f32 then 4 else 2)
  if c.local_ then s
  else if s.scratchBad c.core c.ctx off bytes then s.failCommand c 0x25 0x0C off
  else
    let data := s.getScratch c.core c.ctx off bytes
    (s.modCommand c.id fun c => { c with local_ := true, payload := data }).lowerEc c.gid

/-- Whether traffic from a package is of the incarnations that both ends hold (R321). -/
def fresh? (s : State) (x : Stamp) : Bool := x.sinc == s.peerInc x.spkg.toNat && x.dinc == s.fabric.incarnation

/-- A stale packet is dropped and counted at its gateway (R321). -/
def countStale (s : State) (die : Nat) : State :=
  { s with fabric := { s.fabric with stale := s.fabric.stale.set die (s.fabric.stale.getD die 0 + 1) } }

/-- Whether a core of the package holds the named scratchpad range of a context and partition (R314). -/
def farOk (s : State) (core : CoreId) (ctx : BitVec 32) (part : Byte) (off n : Nat) : Bool :=
  core.die < 8 && core.core < 48 && (match s.scratchInfo core ctx with
    | some (size, p) => p == part && off + n ≤ size
    | none => false)

/-- The far end drops a request: the command of this package that made it fails, or another package is told (R299, R314). -/
def refuseFar (s : State) (x : Stamp) (cmd : Option Nat) (tag code cause addr : Nat) : State :=
  if x.spkg.toNat = s.pkg then
    (match cmd.bind s.command? with
      | some c => s.failCommand c code cause addr
      | none => s)
  else s.send (.answer x.spkg.toNat (s.stamp x.spkg.toNat) tag code cause addr [])

/-- Who sent a packet or a request. -/
def packetFrom (p : FabricPacket) : Stamp := ⟨p.spkg, p.sinc, p.dinc⟩
def requestFrom (r : GetRequest) : Stamp := ⟨r.spkg, r.sinc, r.dinc⟩

/-- A put packet is performed: data, then the counter (R315). The last one is answered. -/
def performPut (s : State) (p : FabricPacket) (cmd : Option Nat) : State :=
  if !s.farOk p.dst p.ctxid p.part p.off p.data.length
      || (p.cnt != 0xFFFFFFFF && !s.farOk p.dst p.ctxid p.part p.cnt.toNat 8) then s.refuseFar (packetFrom p) cmd (p.tag.getD 0) 0x28 0x06 p.off
  else
    let s := (s.putScratch p.dst p.ctxid p.off p.data).addCounter p.dst p.ctxid p.cnt p.data.length
    if !p.last then s
    else if p.spkg.toNat = s.pkg then ((cmd.map s.dropCommand).getD s)
    else s.send (.answer p.spkg.toNat (s.stamp p.spkg.toNat) (p.tag.getD 0) 0 0 0 [])

/-- A response packet of an XGET is performed (R311, R315). -/
def performResponse (s : State) (p : FabricPacket) (id : Nat) : State :=
  match s.command? id with
  | none => s
  | some c =>
    match c.kind with
    | .get _ len _ _ off =>
      if p.off < off || off + len < p.off + p.data.length then s
      else
        let s := (s.putScratch c.core c.ctx p.off p.data).addCounter c.core c.ctx c.counter p.data.length
        if len ≤ c.progress + p.data.length then (s.dropCommand id).lowerEc c.gid
        else s.modCommand id fun c => { c with progress := c.progress + p.data.length }
    | _ => s

/-- A packet that has passed its gateway (R315, R321). -/
def packetArrives (s : State) (p : FabricPacket) (cmd : Option Nat) : State :=
  if !s.fresh? (packetFrom p) then s.countStale p.dst.die
  else if p.response then s.performResponse p (p.tag.getD 0)
  else s.performPut p cmd

/-- The response packets of a get request, cut at 4,096-byte boundaries of the destination (R315). -/
def responses (s : State) (r : GetRequest) (data : List Byte) : Nat → Nat → List FabricPacket
  | 0, _ => []
  | n + 1, done =>
    let k := packetLen r.doff data.length done
    if k = 0 then []
    else
      ⟨s.fabric.incarnation, r.sinc, BitVec.ofNat 12 s.pkg, r.part, r.ctxid, r.dest, r.doff + done, (data.drop done).take k, 0xFFFFFFFF,
        some r.tag, true, data.length ≤ done + k⟩ :: responses s r data n (done + k)

/-- A get request that has passed its gateway (R314, R315). -/
def requestArrives (s : State) (r : GetRequest) (cmd : Option Nat) : State :=
  if !s.fresh? (requestFrom r) then s.countStale r.src.die
  else if !s.farOk r.src r.ctxid r.part r.off r.len then s.refuseFar (requestFrom r) cmd r.tag 0x28 0x06 r.off
  else if s.scratchBad r.src r.ctxid r.off r.len then s.refuseFar (requestFrom r) cmd r.tag 0x25 0x0C r.off
  else
    (s.responses r (s.getScratch r.src r.ctxid r.off r.len) (r.len / 16 + 1) 0).foldl
      (fun s p => s.dispatch r.spkg.toNat r.src.die (.inl p) cmd) s

/-- Another package answers a request of this one (R298, R311, R314, R315): an XPUT whose last packet has landed ends, and an error ends its command,
with the cause and the address that the answer gives. -/
def answerArrives (s : State) (id code cause addr : Nat) : State :=
  match s.command? id with
  | none => s
  | some c =>
    if code ≠ 0 then s.failCommand c code cause addr
    else match c.kind with
      | .put .. => if c.local_ then s.dropCommand id else s
      | _ => s

/-! ## Reduction -/

/-- The f32 value of element `k` of a contribution; bf16 is widened exactly (R319). -/
def redElem (f32 : Bool) (data : List Byte) (k : Nat) : Nat :=
  if f32 then leNat ((data.drop (4 * k)).take 4) else leNat ((data.drop (2 * k)).take 2) * 65536

/-- The operations of Table 10-6 on f32 bits. -/
def redOp (op x y : Nat) : Nat :=
  let t := FloatFmt.f32
  let isNan (v : Nat) : Bool := (t.unpack v).isNan
  if isNan x || isNan y then t.qnan
  else match op with
    | 0 => (farithElem .add t .rn false x y 0).bits
    | 1 => (fminElem true t x y).bits
    | 2 => (fminElem false t x y).bits
    | _ => (fminElem true t (x % 2 ^ 31) (y % 2 ^ 31)).bits

/-- The fold of one element over contributions in ascending index (R319). -/
def redFold (op : Nat) : List Nat → Nat
  | [] => 0
  | x :: ys =>
    let t := FloatFmt.f32
    let x := if (t.unpack x).isNan then t.qnan else if op = 3 then x % 2 ^ 31 else x
    ys.foldl (redOp op) x

/-- Contributions in ascending index. -/
def redInsert (c : Contribution) : List Contribution → List Contribution
  | [] => [c]
  | x :: xs => if c.index < x.index then c :: x :: xs else x :: redInsert c xs

/-- The result elements as bytes, and whether one is NaN (R319). -/
def redResult (op : Nat) (f32 : Bool) (n : Nat) (cs : List Contribution) : List Byte × Bool :=
  let sorted := cs.foldl (fun acc c => redInsert c acc) []
  let vals := (List.range n).map fun k => redFold op (sorted.map fun c => redElem f32 c.data k)
  let nan := vals.any fun v => (FloatFmt.f32.unpack v).isNan
  let bytes := vals.flatMap fun v => if f32 then leBytes 4 v else leBytes 2 (convFloat .f32 .bf16 .rn false false v).bits
  (bytes, nan)

/-- Zero bytes up to the next multiple of 16. -/
def pad16 (bs : List Byte) : List Byte := bs ++ List.replicate ((16 - bs.length % 16) % 16) 0

def slotAt (s : State) (n : Nat) : Option RedSlot := s.fabric.slots.find? (·.slot == n)

def setSlot (s : State) (x : RedSlot) : State :=
  { s with fabric := { s.fabric with slots := s.fabric.slots.map fun y => if y.slot == x.slot then x else y } }

/-- What a contributor is owed: a result for a command of this package, or traffic to another package. -/
def owe (s : State) (c : Contribution) (data : List Byte) (late : Bool) : State :=
  if c.from_.spkg.toNat = s.pkg then { s with fabric := { s.fabric with results := s.fabric.results ++ [⟨c.tag, data, late⟩] } }
  else s.send (.reduction c.from_.spkg.toNat (s.stamp c.from_.spkg.toNat) c.tag c.slot c.index data)

/-- The open round closes: the accepted contributions are folded, and each contributor is owed the result (R318 to R320). -/
def closeRound (s : State) (x : RedSlot) : State :=
  let r := redResult x.op x.f32 x.n x.contribs
  let status : DWord := BitVec.ofNat 64
    (256 * x.round.toNat + (if r.2 then 2 else 0) + (if x.bitmap != x.expected then 1 else 0))
  let data := pad16 r.1 ++ leBytes 8 x.bitmap.toNat ++ leBytes 8 status.toNat
  let s := s.setSlot { x with open_ := false, contribs := [], lastBitmap := x.bitmap, lastStatus := status }
  x.contribs.foldl (fun s c => s.owe c data false) s

/-- A contribution is accepted into the open round, which closes when every expected index is there or the deadline has passed. -/
def acceptContribution (s : State) (x : RedSlot) (c : Contribution) : State :=
  let x := { x with bitmap := x.bitmap ||| ((1 : BitVec 64) <<< c.index), contribs := x.contribs ++ [c] }
  let s := s.setSlot x
  if x.bitmap &&& x.expected == x.expected || x.deadline ≤ s.dtime then s.closeRound x else s

/-- A late contribution gets the bitmap and status of the latest closed round, with LATE set (R320). -/
def lateContribution (s : State) (x : RedSlot) (c : Contribution) : State :=
  s.owe c (leBytes 8 x.lastBitmap.toNat ++ leBytes 8 (x.lastStatus ||| 4).toNat) true

/-- The open round of a slot closes once the deadline has come (R318). -/
def settleRound (s : State) (slot : Nat) : State :=
  match s.slotAt slot with
  | some x => if x.open_ && x.deadline ≤ s.dtime then s.closeRound x else s
  | none => s

/-- A contribution reaches its slot (R317, R318): a stale one is dropped (R321). -/
def contributionArrives (s : State) (c : Contribution) : State :=
  if !s.fresh? c.from_ then s.countStale 8
  else
  let s := s.settleRound c.slot
  let refuse (s : State) : State := s.refuseFar c.from_ (some c.tag) c.tag 0x2A 0xFF 0
  match s.slotAt c.slot with
  | none => refuse s
  | some x =>
    if x.ctx != c.ctxid || !x.expected.getLsbD c.index || x.op != c.op.toNat || x.f32 != c.f32 || x.n != c.n then refuse s
    else if c.round = x.round then
      if !x.open_ then s.lateContribution x c
      else if x.bitmap.getLsbD c.index then
        let s := s.setSlot { x with dups := x.dups + 1 }
        if c.from_.spkg.toNat = s.pkg then s.dropCommand c.tag else s
      else s.acceptContribution x c
    else if c.round = x.round + 1 then
      let s := if x.open_ then s.closeRound x else s
      match s.slotAt c.slot with
      | none => s
      | some x => s.acceptContribution { x with round := c.round, open_ := true, bitmap := 0, deadline := c.deadline.toNat, contribs := [] } c
    else s.lateContribution x c

end State

/-- XPUT (R314). -/
def execXput (f : Fields) (s : State) : Out := .next (s.transfer (.xput f) f true)
/-- XGET (R314). -/
def execXget (f : Fields) (s : State) : Out := .next (s.transfer (.xget f) f false)

/-- XRED (R317). -/
def execXred (f : Fields) (s : State) : Out :=
  .next (s.issue (.xred f) f true false fun s _ =>
    let g := s.g
    let w (k : Nat) : Nat := (g.sget (f.d.toNat + k)).toNat
    let f32 := f.ty == .f32
    let n := w 6
    let bytes := n * (if f32 then 4 else 2)
    let area := (bytes + 15) / 16 * 16 + 16
    let index := w 0 / 65536 % 256
    if n < 1 || 128 < n || 63 < index || w 1 % 16 ≠ 0 || w 2 % 16 ≠ 0 || !s.inScratch g.core (w 1) bytes || !s.inScratch g.core (w 2) area
        || !s.counterOk g.core (g.sget (f.d.toNat + 3)) then s.fabricTrap
    else s.issueCommand (.xred f) (.red (w 0 % 65536) index (w 0 / 16777216) (w 1) (w 2) (g.sval true (f.d.toNat + 4)).toNat n
      (f.sub.extractLsb' 0 2).toNat f32) (g.sget (f.d.toNat + 3)))

/-- EWT (R312). -/
def execEwt (f : Fields) (s : State) : Out :=
  .next (s.issue (.ewt f) f true false fun s _ =>
    let n := (s.g.word f.a 0).toNat
    if s.g.ec ≤ n then s.retire (.ewt f) else s.waitOn (.ewt n))

/-- LOCAL_COMPLETION (R311, R315, R317): the gateway reads and sends the next part of a command, and EC falls after the last. -/
def execLocalCompletion (cmd : Nat) (s : State) : Out :=
  .next (match s.command? cmd with
    | none => s
    | some c =>
      match c.kind with
      | .put off len pkg dest roff rcnt => if c.local_ then s else s.putPacket c off len pkg dest roff rcnt
      | .get roff len pkg src off => s.getRequest c roff len pkg src off
      | .red _ _ _ off _ _ n _ f32 => s.readContribution c off n f32
      | _ => s)

/-- A packet in flight inside the package, or one from another package, arrives (R315, R316, R321). -/
def State.dataArrives (s : State) (pk : FabricPacket) : State :=
  match State.findFlight (.inl pk) [] s.fabric.flight with
  | some (f, rest) => ({ s with fabric := { s.fabric with flight := rest } }).packetArrives pk f.cmd
  | none => if pk.spkg.toNat = s.pkg then s else s.packetArrives pk none

/-- XGET_REQUEST_ARRIVAL (R314, R316). -/
def execXgetRequestArrival (r : GetRequest) (s : State) : Out :=
  .next (match State.findFlight (.inr r) [] s.fabric.flight with
    | some (f, rest) => ({ s with fabric := { s.fabric with flight := rest } }).requestArrives r f.cmd
    | none => if r.spkg.toNat = s.pkg then s else s.requestArrives r none)

/-- XRED_CONTRIBUTION_ARRIVAL (R318): a contribution that a command of this package has sent, or another package's. -/
def execXredContributionArrival (c : Contribution) (s : State) : Out :=
  .next (if c.from_.spkg.toNat ≠ s.pkg then s.contributionArrives c
    else match s.command? c.tag with
      | none => s
      | some k =>
        match k.kind with
        | .red slot index round _ _ deadline n op f32 =>
          if k.local_ && !k.moved && c == ⟨c.from_, slot, k.ctx, index, BitVec.ofNat 8 round, BitVec.ofNat 64 deadline, BitVec.ofNat 2 op, f32, n,
              k.payload, c.tag⟩
            && c.from_ == s.stamp s.pkg
          then (s.modCommand c.tag fun k => { k with moved := true }).contributionArrives c else s
        | _ => s)

/-- XRED_ROUND_DEADLINE (R318): an open round whose deadline has come closes. -/
def execXredRoundDeadline (slot : Nat) (s : State) : Out :=
  .next (s.settleRound slot)

/-- XRED_RESULT_DELIVERY (R320): a result is written to its area, then counted. -/
def execXredResultDelivery (k : Nat) (s : State) : Out :=
  .next (match s.fabric.results[k]? with
    | none => s
    | some r =>
      let s := { s with fabric := { s.fabric with results := s.fabric.results.eraseIdx k } }
      match s.command? r.cmd with
      | none => s
      | some c =>
        match c.kind with
        | .red _ _ _ _ res _ _ _ _ =>
          (((s.putScratch c.core c.ctx res r.data).addCounter c.core c.ctx c.counter r.data.length).dropCommand c.id)
        | _ => s)

end Sys2Proof.Machine
end

