-- ==== Sys2Proof/Machine/HostOps.lean ====
section
/-! DEFINITION. What the queue engines of the host die share: the tables of a context, queue records and launch windows (R403 to R407,
R413, R415, R421, R423, R434). -/

namespace Sys2Proof.Machine

/-! ## Fields of a packet (Table 14-2) -/

namespace Packet
def nat (p : Packet) (lo n : Nat) : Nat := (p.extractLsb' lo n).toNat
def type (p : Packet) : Nat := p.nat 0 8
def bar (p : Packet) : Bool := p.getLsbD 8
def qtag (p : Packet) : BitVec 16 := p.extractLsb' 16 16
def idx (p : Packet) : BitVec 32 := p.extractLsb' 32 32
def kdesc (p : Packet) : DWord := p.extractLsb' 64 64
def karg (p : Packet) : DWord := p.extractLsb' 128 64
def gridX (p : Packet) : Nat := p.nat 192 32
def gridY (p : Packet) : Nat := p.nat 224 16
def gridZ (p : Packet) : Nat := p.nat 240 16
def notBefore (p : Packet) : Nat := p.nat 256 64
def sigaddr (p : Packet) : DWord := p.extractLsb' 320 64
def sigval (p : Packet) : DWord := p.extractLsb' 384 64
def lsetn (p : Packet) : Nat := p.nat 448 16
def sigop (p : Packet) : Nat := p.nat 464 8
def pkgFirst (p : Packet) : Nat := p.nat 472 6
def pkgLast (p : Packet) : Nat := p.nat 480 6
/-- DIEMASK, 0 standing for all eight dies. -/
def diemask (p : Packet) : Nat := if p.nat 488 8 = 0 then 0xFF else p.nat 488 8
def lset (p : Packet) : Nat := p.nat 496 16
end Packet

namespace State

/-! ## Queues and their records -/

def queueAt (s : State) (rec_ : Nat) : Option HostQueue := s.host.queues.find? (·.rec_ == rec_)

def queueOnSlot (s : State) (slot : Nat) : Option HostQueue := s.host.queues.find? (·.slot == some slot)

/-- STATE of a record. -/
def stateCode : RecState → Nat
  | .registered => 0 | .mapped => 1 | .error => 2 | .resetting => 3 | .resetDone => 4

/-- The hardware fields of a queue with their places in its record (Table 14-1): offset, bytes and value. -/
def recordFields (q : HostQueue) : List (Nat × Nat × Nat) :=
  [(0, 8, q.drops), (20, 4, match q.slot with
    | some k => 64 * k
    | none => 0xFFFFFFFF), (24, 1, q.err), (25, 1, stateCode q.state), (48, 8, q.ri), (56, 8, q.ci)]

/-- Fields are written to a record. -/
def writeFields (s : State) (rec_ : Nat) (fs : List (Nat × Nat × Nat)) : State :=
  fs.foldl (fun s x => s.putWord .pool (rec_ + x.1) x.2.1 x.2.2) s

/-- The hardware fields of a queue are written to its record (Table 14-1). -/
def writeRecord (s : State) (q : HostQueue) : State := s.writeFields q.rec_ (recordFields q)

/-- The fields that differ from an earlier state of the queue are written: what software wrote into the others while the queue was not mapped stays
(R403). -/
def updateRecord (s : State) (old q : HostQueue) : State :=
  s.writeFields q.rec_ ((recordFields q).filter fun x => !(recordFields old).contains x)

/-- QERR is set exactly while a mapped queue is in error (Table 15-2). -/
def settleQerr (s : State) : State :=
  if s.host.queues.any fun q => q.slot.isSome && q.state == .error then s.notify 1 else s.unnotify 1

/-- A queue changes, with its record. -/
def putQueue (s : State) (q : HostQueue) : State :=
  let t : State := { s with host := { s.host with queues := s.host.queues.map fun x => if x.rec_ == q.rec_ then q else x } }
  (t.updateRecord ((s.queueAt q.rec_).getD q) q).settleQerr

/-- A packet error: the queue stops, RI stays (R415). -/
def queueStops (s : State) (q : HostQueue) (code : Nat) : State := s.putQueue { q with state := .error, err := code, inline_ := none }

/-! ## The tables of a context (R407, R409) -/

/-- The CSRs of a context: those of a core that runs it, or of a core frame that holds it. -/
def ctxTables (s : State) (ctx : BitVec 32) : Option CtxRegs :=
  match s.cores.find? fun c => c.regs.ctx == ctx && c.status == .live with
  | some c => some c.regs
  | none => s.dies.findSome? fun d => (d.frames.find? (·.1 == ctx)).bind fun f =>
      ((List.range 48).find? fun k => s.wordAt .pool (f.2 + 0x1000000 * k) 4 == ctx.toNat).map fun k => s.ctxRegs ⟨d.num, k⟩ ctx

/-- Bytes that a queue engine reads through a context's tables, with kind load; `none` where a check fails. The range crosses no page. -/
def tableRead (s : State) (ctx : BitVec 32) (va n : Nat) : Option (List Byte × State) :=
  match s.ctxTables ctx with
  | none => none
  | some r =>
    match s.engineTranslate r false .load va with
    | .fail .. => none
    | .ok l =>
      let s := s.markLeaf l false
      if l.apt = 2 then
        some ((List.range n).map fun i => (Config.freeBits (s.free + i)).setWidth 8, { s with free := s.free + n })
      else some (s.engineRead ⟨l.space, l.phys va, some l⟩ (l.phys va) n, s)

/-! ## Launch windows (R406, R421, R434) -/

/-- Whether a host die of the kernel's pair is no longer the holder of its lease (R434). -/
def formerHolder (s : State) (from_ : Option Nat) : Bool :=
  match from_, s.host.leases.find? (·.kind == .kernel) with
  | some h, some l => l.epoch != 0 && h != l.holder
  | _, _ => false

/-- A store into the launch window of a slot of this package, by a host die of the kernel's pair or by another agent: the inline copy of packet RI,
or dropped and counted (R406, R434). -/
def windowArrives (s : State) (slot : Nat) (p : Packet) (from_ : Option Nat) : State :=
  match s.queueOnSlot slot with
  | none => s
  | some q =>
    if (s.formerHolder from_ && q.kq) || q.state != .mapped || p.qtag != q.qtag || p.idx != BitVec.ofNat 32 q.ri then s.putQueue { q with drops := q.drops + 1 }
    else s.putQueue { q with
      wic := max q.wic (q.ri + 1), interval := 1000, next := min q.next (s.dtime + 1000)
      inline_ := some (q.inline_.getD p) }

/-- The launch window at an I/O address: the package and the slot (R421). -/
def windowOf (off : Nat) : Option (Nat × Nat) :=
  if 0x000F000000000000 ≤ off && off < 0x000F000000000000 + 4096 * 65536 && off % 64 = 0 then
    some ((off - 0x000F000000000000) / 65536, off % 65536 / 64)
  else none

/-- One aligned 64-byte store by a device into a launch window (R406). -/
def windowStore (s : State) (off : Nat) (data : List Byte) : State :=
  match windowOf off with
  | none => s
  | some (pkg, slot) =>
    let p : Packet := BitVec.ofNat 512 (leNat data)
    if pkg = s.pkg then s.windowArrives slot p none
    else s.send (.window pkg slot p)

end State
end Sys2Proof.Machine
end

