-- ==== Sys2Proof/Machine/Copy.lean ====
section
/-! DEFINITION. The copy engine: CPY, CPYT, and what it does of itself (R308 to R311, R313). -/

namespace Sys2Proof.Machine

namespace State

/-- A parameter error of CPY or CPYT (R298). -/
def copyTrap (s : State) : State := s.engineTrap 0x26 0xFF

/-- The check at issue of one side of CPY: aligned to 4, and inside the scratchpad or a vault (R195, R308). -/
def copySideOk (s : State) (core : CoreId) (space a len : Nat) : Bool :=
  a % 4 == 0 && (match space with
    | 1 => s.inScratch core a len
    | 2 => a < 2 ^ 30 && a / 2 ^ 26 < 12 && a % 2 ^ 26 + len ≤ 0x03000000
    | _ => true)

/-- Where a range of one side lies now, or the cause and level of the check that fails (R308, R310). The range crosses no page. -/
def copyLoc (s : State) (c : Command) (space a n : Nat) (kind : AccKind) : Except (Nat × Nat) Loc :=
  match space with
  | 1 =>
    if ((s.scratchInfo c.core c.ctx).map (·.1)).getD 0 < a + n then .error (0x06, 0)
    else
      let l := s.scratchAt c.core c.ctx a
      .ok ⟨l.1, l.2, none⟩
  | 2 =>
    if (s.dieAt c.core.die).vaults.getD (a / 2 ^ 26) none != some c.part then .error (0x07, 0)
    else .ok ⟨.vlt c.core.die (a / 2 ^ 26), a % 2 ^ 26, none⟩
  | _ => s.engineLoc (s.ctxRegs c.core c.ctx) c.super kind a

/-- A copy access fails: an absent page stalls the command with a record, any other failure aborts it (R310). -/
def copyFails (s : State) (c : Command) (kind : AccKind) (a cause level : Nat) : State :=
  if cause = 0x08 then
    let t := s.engineFault c.core c.ctx (.command c.id) kind a level
    t.2.modCommand c.id fun c => { c with tag := some t.1 }
  else s.failCommand c 0x27 cause a

/-- The leaf of an engine's access records its use (R203). -/
def markLoc (s : State) (l : Loc) (write : Bool) : State :=
  match l.leaf with
  | some leaf => s.markLeaf leaf write
  | none => s

/-- Bytes of a copy reach their destination: at once in the core and the die, through the store path elsewhere (R209, R308). The answer
names the write that stays in the store path. -/
def copyWrite (s : State) (c : Command) (l : Loc) (data : List Byte) : State :=
  let s := s.markLoc l true
  match l.leaf with
  | none => s.putBytes l.space l.off data
  | some _ =>
    let w := s.engineWrite c.core.die c.ctx 0 l l.off data
    w.2.modCommand c.id fun c => { c with writes := c.writes ++ [w.1] }

/-- The byte that a copy reads: at its home. -/
def copyByte (s : State) (l : Loc) (i : Nat) : Byte := ((s.engineRead l (l.off + i) 1).head?).getD 0

/-- The launch window that a CPY of 64 bytes names (R406, R421): the leaf of its destination. -/
def windowTarget (s : State) (c : Command) (ds b len : Nat) : Option Leaf :=
  if len = 64 && b % 64 = 0 && ds = 0 then
    match s.engineTranslate (s.ctxRegs c.core c.ctx) c.super .engineWrite b with
    | .ok l => if l.apt = 2 && (windowOf (l.phys b)).isSome then some l else none
    | .fail .. => none
  else none

/-- The 64 bytes of a CPY go to a launch window as one transaction (R406); behind an EMIT page they are held in the store path (R360, R361). -/
def storeWindow (s : State) (c : Command) (l : Leaf) (b : Nat) (data : List Byte) : State :=
  if l.emit then s.copyWrite c ⟨l.space, l.phys b, some l⟩ data else (s.markLeaf l true).windowStore (l.phys b) data

/-- A CPY of 64 bytes into a launch window: the source is read, across at most two pages, and stored as one transaction (R406). -/
def copyWindow (s : State) (c : Command) (src ss : Nat) (l : Leaf) (at_ : Nat) : State :=
  let n := min 64 (65536 - src % 65536)
  match s.copyLoc c ss src n .engineRead, s.copyLoc c ss (src + n % 64) (64 - n % 64) .engineRead with
  | .error (cause, lv), _ => s.copyFails c .engineRead src cause lv
  | _, .error (cause, lv) => s.copyFails c .engineRead (src + n % 64) cause lv
  | .ok a, .ok b =>
    if s.engineBad a a.off n || s.engineBad b b.off (64 - n % 64) then s.failCommand c 0x25 0x0C src
    else
      let data := (s.engineRead a a.off n ++ s.engineRead b b.off (64 - n)).take 64
      ((s.markLoc a false).storeWindow c l at_ data).modCommand c.id fun c => { c with progress := 64, written := 64, moved := true }

/-- The next unit of a CPY (R308, R310): at most 256 bytes, within one 256-byte block on either side. -/
def copyUnit (s : State) (c : Command) (src ss dst ds len : Nat) : State :=
  let a := src + c.progress
  let b := dst + c.progress
  let n := min (min (256 - a % 256) (256 - b % 256)) (len - c.progress)
  match s.copyLoc c ss a n .engineRead with
  | .error (cause, lv) => s.copyFails c .engineRead a cause lv
  | .ok from_ =>
    if s.engineBad from_ from_.off n then s.failCommand c 0x25 0x0C a
    else match s.copyLoc c ds b n .engineWrite with
      | .error (cause, lv) => s.copyFails c .engineWrite b cause lv
      | .ok dest =>
        let data := s.engineRead from_ from_.off n
        ((s.markLoc from_ false).copyWrite c dest data).modCommand c.id fun c =>
          { c with progress := c.progress + n, written := c.written + n, moved := len ≤ c.progress + n }

/-! ## CPYT (R309) -/

/-- The space number of a TSR's window, as CPY numbers spaces. -/
def tsrSpace (t : Tsr) : Nat := if Tsr.space t = 1 then 1 else 0

/-- The bits of a fill value (R266). -/
def fillBits (t : Tsr) (nan : Bool) : Nat := if nan then (Tsr.floatFmt t).qnan else 0

/-- What reading an element of the source window gives: its bits, or the way the command stops. -/
def copyElem (s : State) (c : Command) (t : Tsr) (p : Int × Int) : Except (Bool × Nat × Nat × Nat) (Nat × Option Loc) :=
  let e := Tsr.elemBytes t
  match Tsr.src t p with
  | .zero => .ok (0, none)
  | .nan => .ok (fillBits t true, none)
  | .mem a _ col =>
    match s.copyLoc c (tsrSpace t) a e .engineRead with
    | .error (cause, lv) => .error (false, a, cause, lv)
    | .ok l =>
      if s.engineBad l l.off e then .error (true, a, 0x0C, 0)
      else
        let x := leNat (s.engineRead l l.off e)
        .ok (if Tsr.is4bit t then (if col % 2 = 0 then x % 16 else x / 16) else x, some l)

/-- Where an element of the destination window goes; `none` out of bounds. -/
def copyTarget (s : State) (c : Command) (t : Tsr) (p : Int × Int) : Except (Nat × Nat × Nat) (Option (Loc × Nat)) :=
  if !Tsr.inb t p then .ok none
  else
    let a := Tsr.addrAt t p.1 p.2 (Tsr.org t 2) (Tsr.org t 3)
    match s.copyLoc c (tsrSpace t) a (Tsr.elemBytes t) .engineWrite with
    | .error (cause, lv) => .error (a, cause, lv)
    | .ok l => .ok (some (l, a))

/-- How far the current unit of a CPYT has come: elements read and placed, or the state in which it stopped. -/
inductive UnitRes where
  | goes (els : List (Nat × Option Loc × Option (Loc × Nat) × Int))
  | stops (s : State)

/-- One element of a unit is read, and its destination checked. -/
def unitElem (s : State) (c : Command) (src dst : Tsr) (acc : UnitRes) (at_ : Nat × Nat) : UnitRes :=
  match acc with
  | .stops s => .stops s
  | .goes els =>
    match s.copyElem c src (Tsr.pos src at_.1 at_.2) with
    | .error (bad, a, cause, lv) => .stops (if bad then s.failCommand c 0x25 cause a else s.copyFails c .engineRead a cause lv)
    | .ok (x, from_) =>
      let p := Tsr.pos dst at_.1 at_.2
      match s.copyTarget c dst p with
      | .error (a, cause, lv) => .stops (s.copyFails c .engineWrite a cause lv)
      | .ok dest => .goes (els ++ [(x, from_, dest, p.2)])

/-- The byte that a write of a nibble leaves: the other nibble keeps its newest value. -/
def nibbleByte (s : State) (c : Command) (l : Loc) (high : Bool) (x : Nat) : Byte :=
  let mine := ((s.command? c.id).map (·.writes)).getD []
  let newest := (s.stores.filter fun p => mine.contains p.id).foldl (fun b p => (p.byteFor l.space l.off).or b) none
  let old := (newest.getD (s.byteAt l.space l.off)).toNat
  BitVec.ofNat 8 (if high then old % 16 + 16 * x else old / 16 * 16 + x)

/-- Writes a nibble; a byte of the same command that is still in the store path takes it there, and waits for the journal as the later of the
two does (R360). -/
def copyNibble (s : State) (c : Command) (l : Loc) (high : Bool) (x : Nat) : State :=
  let b := s.nibbleByte c l high x
  let gate := match l.leaf with
    | some f => if f.emit then some (c.ctx, s.gateOf c.core.die c.ctx) else none
    | none => none
  let mine := ((s.command? c.id).map (·.writes)).getD []
  let same (p : Pending) : Bool := mine.contains p.id && p.space == l.space && p.off == l.off && p.size == 1
  if s.stores.any same then { s with stores := s.stores.map fun p => if same p then { p with effect := .write [b], gate := gate } else p }
  else s.copyWrite c l [b]

/-- Writes one element of a unit. -/
def putElem (c : Command) (dst : Tsr) (s : State) (x : Nat × Option Loc × Option (Loc × Nat) × Int) : State :=
  let s := match x.2.1 with
    | some l => s.markLoc l false
    | none => s
  match x.2.2.1 with
  | none => s
  | some (l, _) =>
    if Tsr.is4bit dst then s.copyNibble c l (x.2.2.2 % 2 != 0) x.1
    else s.copyWrite c l (leBytes (Tsr.elemBytes dst) x.1)

/-- Bytes that a list of written elements counts for: a 4-bit element counts once in each byte (R310). -/
def bytesWritten (dst : Tsr) (els : List (Nat × Option Loc × Option (Loc × Nat) × Int)) : Nat :=
  let at_ := els.filterMap fun x => x.2.2.1.map (·.2)
  if Tsr.is4bit dst then at_.eraseDups.length else at_.length * Tsr.elemBytes dst

/-- The next unit of a CPYT: at most 256 bytes of one row of the window, counted in elements of the source's extents. -/
def copyWindowUnit (s : State) (c : Command) (src dst : Tsr) : State :=
  let cols := Tsr.ext2 src
  let i := c.progress / cols
  let j := c.progress % cols
  let per := if Tsr.is4bit src then 512 else 256 / Tsr.elemBytes src
  let n := min (per - j % per) (cols - j)
  match ((List.range n).map fun k => (i, j + k)).foldl (s.unitElem c src dst) (.goes []) with
  | .stops s => s
  | .goes els =>
    (els.foldl (putElem c dst) s).modCommand c.id fun c =>
      { c with
        progress := c.progress + n
        written := c.written + bytesWritten dst els
        moved := Tsr.ext1 src * cols ≤ c.progress + n }

/-- A copy whose writes are all performed ends: the counter, then EC (R237, R310, R311). -/
def finishCopy (s : State) (c : Command) : State :=
  if c.writes.any s.outstanding then s
  else ((s.addCounter c.core c.ctx c.counter c.written).dropCommand c.id).lowerEc c.gid

/-- Whether a copy command moves: its context runs on its core, no fault reply is outstanding and nothing that it may touch waits to be cleared
(R310, R313, R391). -/
def copyRuns (s : State) (c : Command) : Bool :=
  let k := s.coreAt c.core
  k.regs.ctx == c.ctx && k.status == .live && c.tag.isNone && !s.engineUncleared c.core c.part

end State

/-- CPY (R308). -/
def execCpy (f : Fields) (s : State) : Out :=
  .next (s.issue (.cpy f) f true false fun s _ =>
    let g := s.g
    let d := f.d.toNat
    let ss := (f.sub.extractLsb' 0 2).toNat
    let ds := (f.sub.extractLsb' 2 2).toNat
    let src := (g.sval true d).toNat
    let dst := (g.sval true (d + 2)).toNat
    let len := (g.sget (d + 4)).toNat
    let cnt := g.sget (d + 5)
    if len % 4 ≠ 0 || len < 4 || 2 ^ 31 < len || !s.copySideOk g.core ss src len || !s.copySideOk g.core ds dst len
        || !s.counterOk g.core cnt then s.copyTrap
    else s.issueCommand (.cpy f) (.copy src ss dst ds len) cnt)

/-- CPYT (R309). -/
def execCpyt (f : Fields) (s : State) : Out :=
  .next (s.issue (.cpyt f) f true false fun s _ =>
    let g := s.g
    let off := (g.sget f.d.toNat).toNat
    let cnt := g.sget (f.d.toNat + 1)
    if off % 128 ≠ 0 || !s.inScratch g.core off 256 || !s.counterOk g.core cnt then s.copyTrap
    else if s.commandHeld g then s
    else
      let a : Tsr := BitVec.ofNat 1024 (leNat (s.getScratch g.core g.ctx off 128))
      let b : Tsr := BitVec.ofNat 1024 (leNat (s.getScratch g.core g.ctx (off + 128) 128))
      if !a.valid || !b.valid || a.elem != b.elem || a.boxR != b.boxR || a.boxC != b.boxC
          || (a.is4bit && (a.dir || b.dir)) then s.copyTrap
      else s.issueCommand (.cpyt f) (.copyT a b) cnt)

/-- COPY_COMPLETE (R308 to R311): the copy engine moves the next unit of a command, and ends it after the last. -/
def execCopyComplete (cmd : Nat) (s : State) : Out :=
  .next (match s.command? cmd with
    | none => s
    | some c =>
      match c.kind with
      | .copy src ss dst ds len =>
        if c.moved then s.finishCopy c
        else if !s.copyRuns c then s
        else match s.windowTarget c ds dst len with
          | some l => s.copyWindow c src ss l dst
          | none => s.copyUnit c src ss dst ds len
      | .copyT a b => if c.moved then s.finishCopy c else if s.copyRuns c then s.copyWindowUnit c a b else s
      | _ => s)

end Sys2Proof.Machine
end

