-- ==== Sys2Proof/Machine/CrossLane.lean ====
section
/-! DEFINITION. Cross-lane and regrouping instructions, and the steps of a workgroup (R175 to R193). -/

namespace Sys2Proof.Machine

namespace State

/-! ## Chain and steps -/

/-- The groups of a workgroup in GRP order, ended ones included (R176). -/
def chainGroups (s : State) (wid : Nat) : List Group := (s.wgOf wid).members.filterMap s.group?

/-- The predecessor and the successor of a group on the chain, without the group itself (R176). -/
def neighbours (s : State) (g : Group) : List Group :=
  let gs := s.chainGroups g.wid
  let n := gs.length
  match gs.findIdx? (·.gid == g.gid) with
  | some i => ([gs[(i + n - 1) % n]?, gs[(i + 1) % n]?].filterMap id).filter (·.gid != g.gid)
  | none => []

/-- Whether a group counts as having issued step `k` (R179). -/
def hasIssued (k : Nat) (g : Group) : Bool := g.wait == Wait.ended || k ≤ g.cstep

/-- The contribution of a group to step `k`, if it issued it. -/
def post? (g : Group) (k : Nat) : Option StepPost := g.posts.find? (·.k == k)

/-- Whether the neighbours of a group have all issued step `k` or ended. -/
def neighboursIssued (s : State) (g : Group) (k : Nat) : Bool := (s.neighbours g).all (hasIssued k)

/-- Whether two paired steps differ (R179). -/
def differs (p q : StepPost) : Bool := p.opc != q.opc || p.sub != q.sub || p.ty != q.ty

/-- Whether the step of a group fails (R179). -/
def stepFails (g : Group) (k : Nat) : Bool := ((post? g k).map (·.failed)).getD false

/-- What a group gives a step for others: its contribution unless it issued none or its step failed (R179). -/
def contribution? (g : Group) (k : Nat) : Option StepPost := if stepFails g k then none else post? g k

/-- Whether what a group gives step `k` is known: it and its neighbours have issued it. -/
def settled (s : State) (k : Nat) (g : Group) : Bool := hasIssued k g && s.neighboursIssued g k

/-! ## Folds (R185 to R187) -/

/-- The operation of Table 6-4. -/
def foldOp (op : Nat) (t : Ty) (sat : Bool) (x y : DWord) : DWord × FlagSet :=
  match op with
  | 0 => if t.isInt then (arith .add t sat x y 0, 0) else farith .add t .rn false x y 0
  | 1 => if t.isInt then (arith .min t false x y 0, 0) else fmin false t x y
  | 2 => if t.isInt then (arith .max t false x y 0, 0) else fmin true t x y
  | 3 => (x &&& y, 0)
  | 4 => (x ||| y, 0)
  | _ => (x ^^^ y, 0)

/-- The identity of Table 6-4. -/
def foldIdentity (op : Nat) (t : Ty) : DWord :=
  let w := t.width
  let ones : DWord := BitVec.ofNat 64 (2 ^ w - 1)
  let top : DWord := BitVec.ofNat 64 (2 ^ (w - 1))
  match op with
  | 1 => if !t.isInt then 0x7F800000 else if t.signed then top - 1 else ones
  | 2 => if !t.isInt then 0xFF800000 else if t.signed then top else 0
  | 3 => ones
  | _ => 0

/-- A running fold: the accumulator, the flags raised and what each lane received. -/
structure FoldAcc where
  acc : DWord
  flags : FlagSet
  out : List (Nat × DWord)

/-- One qualifying lane of a fold (R186). -/
def foldLane (p : StepPost) (op : Nat) (exclusive : Bool) (f : FoldAcc) (l : Nat) : FoldAcc :=
  let acc := if p.preds.getLsbD l then foldIdentity op p.ty else f.acc
  let r := foldOp op p.ty p.sat acc (p.vals.getD l 0)
  ⟨r.1, f.flags ||| r.2, (l, if exclusive then acc else r.1) :: f.out⟩

/-- The fold over the qualifying lanes of one group, from a carry, by the operation, type and SAT of that group's own step: SAT is no part of
a mismatch, and groups that are no neighbours may differ in the rest without failing (log entry 87, DESIGN CHOICE). -/
def foldGroup (p : StepPost) (carry : DWord) : FoldAcc :=
  (lanesOf p.em).foldl (foldLane p (p.sub.extractLsb' 0 3).toNat (p.sub.getLsbD 3)) ⟨carry, 0, []⟩

/-- The carry out of some groups in chain order (R186). -/
def carryOf (k : Nat) (start : DWord) (gs : List Group) : DWord × FlagSet :=
  gs.foldl (fun c g => match contribution? g k with
    | some p =>
      let f := foldGroup p c.1
      (f.acc, c.2 ||| f.flags)
    | none => c) (start, 0)

/-! ## Issue of steps -/

/-- A group's contribution as it issues a step (R180). -/
def makePost (g : Group) (opc : BitVec 8) (f : Fields) (vals : List DWord) (preds : Mask) : StepPost :=
  ⟨g.cstep + 1, opc, f.sub, f.ty, g.pc, g.live, g.em, vals, preds, f.sat, 0, 0, f.d.toNat, 0, [], [], false, false⟩

/-- The neighbours whose paired step differs from a step that is issuing (R179). -/
def mismatched (s : State) (g : Group) (p : StepPost) : List Group :=
  (s.neighbours g).filter fun h => match post? h p.k with
    | some q => differs p q
    | none => false

/-- A step issues (R177, R179, R180): CSTEP rises and the contribution is posted, and the step is compared with those that its neighbours
have issued: a differing one fails, and so does this one if that neighbour still lives. A group that is ahead of a neighbour stalls. -/
def issueStep (s : State) (p : StepPost) (k : State → State) : State :=
  let g := s.g
  if !s.neighboursIssued g g.cstep then s
  else
    let bad := s.mismatched g p
    let s := s.modGroups (fun h => (bad.map (·.gid)).contains h.gid) fun h =>
      { h with posts := h.posts.map fun q => if q.k == p.k then { q with failed := true } else q }
    k (s.modG fun g => { g with
    cstep := p.k
    posts := { p with failed := bad.any (·.wait != Wait.ended) } :: g.posts
    stroke := g.stroke.map fun st => { st with steps := st.steps ++ [(p.k, p.pc)] } })

/-- A value of each lane. -/
def laneVals (f : Nat → DWord) : List DWord := lanes.map f

/-! ## Completion of a step -/

/-- What NBR reads in one lane of the issuing group of a step, and the poison mark that comes with it (R183, R213). -/
def nbrLane (s : State) (g : Group) (gs : List Group) (p : StepPost) (l : Nat) : DWord × List Mark :=
  let fill := p.fill.getD l 0
  match nbrSource (p.sub.extractLsb' 0 2).toNat (96 * (s.wgOf g.wid).members.length) ((g.chain l : Int) + p.off) with
  | none => (fill, [])
  | some at_ =>
    match (gs[at_ / 96]?).bind fun h => contribution? h p.k with
    | some q =>
      if q.live.getLsbD (at_ % 96) then
        (q.vals.getD (at_ % 96) 0, (q.bad.filter (·.lane == at_ % 96)).map fun m => { m with lane := l })
      else (fill, [])
    | none => (fill, [])

/-- What the deferred destination of a step receives, and the flags, once the inputs that its entry names are there (R179). -/
def stepResult (s : State) (g : Group) (gs : List Group) (p : StepPost) : Option (List RegWrite × FlagSet) :=
  let i := (gs.findIdx? (·.gid == g.gid)).getD 0
  let op := (p.sub.extractLsb' 0 3).toNat
  let wide := p.ty.is64
  match p.opc.toNat with
  | 0xA0 =>
    if (s.neighbours g).all (s.settled p.k) then some (vWrites wide p.d p.em (fun l => (s.nbrLane g gs p l).1) ((lanesOf p.em).flatMap fun l => (s.nbrLane g gs p l).2), 0)
    else none
  | 0xA1 =>
    if (gs.take i).all (s.settled p.k) then
      let c := carryOf p.k (foldIdentity op p.ty) (gs.take i)
      let f := foldGroup p c.1
      some (vWrites wide p.d p.em (fun l => ((f.out.find? (·.1 == l)).map (·.2)).getD 0) [], c.2 ||| f.flags)
    else none
  | 0xA2 =>
    if gs.all (s.settled p.k) then
      let c := carryOf p.k (foldIdentity op p.ty) gs
      some (sWrites wide p.d c.1 [], c.2)
    else none
  | _ =>
    if gs.all (s.settled p.k) then
      let ps := gs.filterMap fun h => contribution? h p.k
      let v : Nat := match (p.sub.extractLsb' 0 2).toNat with
        | 0 => if ps.any fun q => (q.em &&& q.preds) != 0 then 1 else 0
        | 1 => if ps.all fun q => (q.em &&& ~~~q.preds) == 0 then 1 else 0
        | _ => ps.foldl (fun n q => n + (lanesOf (q.em &&& q.preds)).length) 0
      some (sWrites false p.d (BitVec.ofNat 64 v) [], 0)
    else none

/-- The flags that the whole fold of a step raises (R187). -/
def foldFlags (p : StepPost) (gs : List Group) : FlagSet :=
  (carryOf p.k (foldIdentity (p.sub.extractLsb' 0 3).toNat p.ty) gs).2

/-- A group whose step has its result: the registers are written, and a deferred result with flags alone stays where the fold goes on in
groups that are not settled (R187). -/
def writeStep (k : Nat) (d : Deferred) (writes : List RegWrite) (flags : Option FlagSet) (g : Group) : Group :=
  let g := { g with posts := g.posts.map fun q => if q.k == k then { q with done := true } else q }
  match flags with
  | some f => g.complete { d with writes := writes, flags := f }
  | none =>
    let g := writes.foldl Group.applyWrite g
    { g with deferred := g.deferred.map fun x => if x.id == d.id then { x with regs := [], writes := [] } else x }

/-- One deferred step of a group completes, if its inputs are there (R179, R180). The flags of a scan are those of the whole fold, in every
group that completes the step (R187): they are raised once every group's part is known. -/
def completeStep (s : State) (k : Nat) (gid : Nat) : State :=
  match s.group? gid with
  | none => s
  | some g =>
    match g.deferred.find? (·.step == some k), post? g k with
    | some d, some p =>
      let gs := s.chainGroups g.wid
      let all := gs.all (s.settled k)
      if !s.settled k g || stepFails g k then s
      else if p.done then
        if all then s.modGroup gid fun g => g.complete { d with writes := [], flags := foldFlags p gs } else s
      else match s.stepResult g gs p with
        | none => s
        | some r =>
          let flags := if p.opc = 0xA1#8 then (if all then some (foldFlags p gs) else none) else some r.2
          s.modGroup gid (writeStep k d r.1 flags)
    | _, _ => s

/-! ## Regrouping (R190 to R193) -/

/-- A position of the chain: index among the participants, and lane. -/
abbrev Place2 := Nat × Nat

/-- The live lanes of some groups in chain order. -/
def liveLanes (gs : List Group) : List Place2 := (List.range gs.length).flatMap fun i =>
  (lanesOf ((gs[i]?.map (·.live)).getD 0)).map fun l => (i, l)

def groupAt (gs : List Group) (i : Nat) : Group := gs.getD i Group.initial

/-- The registers of a group when the thread of lane `l` comes from `src l`; V registers and predicates move where `vs` and `ps` of the
source's group say so (R191, R192). -/
def gatherThreads (gs : List Group) (g : Group) (src : Nat → Option Place2) (vs ps : Nat → Nat → Bool) : Group :=
  let from_ (l : Nat) (moves : Nat → Bool) : Option (Group × Nat) := match src l with
    | some (i, k) => if moves i then some (groupAt gs i, k) else none
    | none => none
  { g with
    v := (List.range g.v.length).map fun r => lanes.map fun l => match from_ l fun i => vs i r with
      | some (h, k) => h.vget r k
      | none => g.vget r l
    p := (List.range 12).map fun r => maskOf fun l => match from_ l fun i => ps i r with
      | some (h, k) => (h.pget r).getLsbD k
      | none => (g.pget r).getLsbD l
    thrd := lanes.map fun l => match from_ l fun _ => true with
      | some (h, k) => h.thrd.getD k 0
      | none => g.thrd.getD l 0
    marks := g.marks.filter (fun m => 256 ≤ m.reg || (from_ m.lane fun i => vs i m.reg).isNone)
      ++ lanes.flatMap fun l => match src l with
        | some (i, k) => (groupAt gs i).marks.filterMap fun m =>
            if m.reg < 256 && m.lane == k && vs i m.reg then some { m with lane := l } else none
        | none => [] }

/-- RGRP on the participants of one core (R191): the groups as they are afterwards. -/
def packGroups (gs : List Group) : List Group :=
  let threads := liveLanes gs
  (List.range gs.length).map fun t =>
    let g := groupAt gs t
    let mine := (threads.drop (96 * t)).take 96
    if mine.isEmpty then { g with em := 0, live := 0, wait := .ended }
    else
      let live := maskOf (· < mine.length)
      { gatherThreads gs g (fun l => mine[l]?) (fun _ _ => true) (fun _ _ => true) with em := live, live := live }

/-- A key as a number in its order (R192): integers by value, f32 from -∞ over -0 and +0 to +∞, then NaN. -/
def keyOrder (t : Ty) (x : DWord) : Nat :=
  let w := t.width
  let n := x.toNat % 2 ^ w
  if t.isInt then (if t.signed then (n + 2 ^ (w - 1)) % 2 ^ w else n)
  else
    let m := n % 2 ^ 31
    if 0x7F800000 < m then 2 ^ 32 else if n = m then 2 ^ 31 + m else 2 ^ 31 - 1 - m

/-- Stable insertion by an order. -/
def insertBy (less : Nat → Nat → Bool) (x : Nat × Place2) : List (Nat × Place2) → List (Nat × Place2)
  | [] => [x]
  | y :: ys => if less x.1 y.1 then x :: y :: ys else y :: insertBy less x ys

def sortBy (less : Nat → Nat → Bool) (xs : List (Nat × Place2)) : List (Nat × Place2) :=
  xs.foldl (fun acc x => insertBy less x acc) []

/-- SRTK on the participants (R192). -/
def sortGroups (k : Nat) (gs : List Group) : List Group :=
  let positions := liveLanes gs
  let postOf (i : Nat) : Option StepPost := post? (groupAt gs i) k
  let keyed := positions.map fun x => match postOf x.1 with
    | some p => (keyOrder p.ty (p.vals.getD x.2 0), x)
    | none => (0, x)
  let down := ((postOf 0).map fun p => p.sub.getLsbD 0).getD false
  let sorted := (sortBy (fun a b => if down then b < a else a < b) keyed).map (·.2)
  (List.range gs.length).map fun t =>
    let at_ (l : Nat) : Option Place2 := (positions.findIdx? (· == (t, l))).bind fun i => sorted[i]?
    gatherThreads gs (groupAt gs t) at_
      (fun i r => r < 64 && ((postOf i).map fun p => p.vmask.getLsbD r).getD false)
      (fun i r => ((postOf i).map fun p => p.pmask.getLsbD r).getD false)

/-- The groups that a regrouping step of a group concerns (R190). -/
def concerned (s : State) (g : Group) (wgScope : Bool) : List Group := if wgScope then s.chainGroups g.wid else [g]

/-- Those of some groups that take part in the movement of a step: live ones that issued the same step (R179, R190; log entry 87). -/
def participants (p : StepPost) (gs : List Group) : List Group :=
  gs.filter fun h => h.wait != Wait.ended && (match post? h p.k with
    | some q => !differs p q
    | none => false)

/-- A group has retired the trailer of its regrouping step and waits for the movement. -/
def awaitsMove (k : Nat) (g : Group) : Bool :=
  g.wait == Wait.step && g.stroke.isNone && ((post? g k).map fun p => (p.opc == 0xA5#8 || p.opc == 0xA6#8) && !p.done).getD false

/-- Groups of one core each, in the order of their cores. -/
def byCore (gs : List Group) : List (List Group) :=
  ((gs.map (·.core)).eraseDups).map fun c => gs.filter (·.core == c)

/-- Writes back groups that a movement changed. Those that go on leave the wait. -/
def putMoved (k : Nat) (flags : FlagSet) (s : State) (g : Group) : State :=
  let s := s.modGroup g.gid fun _ => { g with
    flags := g.flags ||| flags
    wait := if g.wait == Wait.step then .ready else g.wait
    posts := g.posts.map fun p => if p.k == k then { p with done := true } else p }
  s.issuerSelect g.core

/-- The movement of RGRP or SRTK at step `k`, all at once, when every live group has settled the step, every participant runs and waits for
the movement, and none has a deferred result in flight (R190 to R193). Where a group's step failed, ended groups included, every thread stays in
place, and the others go on (R179). -/
def settleMove (s : State) (gid k : Nat) : State :=
  match s.group? gid with
  | none => s
  | some g =>
    match post? g k with
    | none => s
    | some p =>
      let chain := s.concerned g (p.sub.getLsbD 4)
      let gs := participants p chain
      if !awaitsMove k g || !((chain.filter (·.wait != Wait.ended)).all (s.settled k)) then s
      else if chain.any fun h => stepFails h k then
        (gs.filter fun h => awaitsMove k h && s.inCore h).foldl (putMoved k 0) s
      else if gs.any fun h => !(s.inCore h && awaitsMove k h && h.deferred.isEmpty) then s
      else
        let flags := gs.foldl (fun f h => f ||| h.flags) (0 : FlagSet)
        let moved := if p.opc = 0xA5#8 then (byCore gs).flatMap packGroups else sortGroups k gs
        moved.foldl (putMoved k flags) s

/-- RGRP and SRTK at issue (R190): the stack is empty and EM = LIVE, or cause 0x14. -/
def regroupChecks (s : State) (k : State → State) : State :=
  if State.depth s.g != 0 || s.g.em != s.g.live then s.barTrap 0x22 else k s

end State

/-- NBR (R183, R184). -/
def execNbr (f : Fields) (s : State) : Out :=
  .next (s.issue (.nbr f) f false false fun s q =>
    let g := s.g
    let n := g.nbrOffset f
    let a := g.intOperand f.ty.is64 f.a
    let fill := g.intOperand f.ty.is64 f.c
    if f.sub.getLsbD 4 then
      if n < -96 || 96 < n then s.barTrap 0x21
      else
        let p := { State.makePost g 0xA0 f (State.laneVals a) 0 with
          off := n, fill := State.laneVals fill
          bad := g.marks.filter fun m => m.reg < 256 && (f.a.keys f.ty.is64).contains m.reg }
        s.issueStep p fun s => (s.defer (.nbr f) .cross [] 0 [] (some p.k)).retire (.nbr f)
    else
      let val (l : Nat) : DWord := match nbrSource (f.sub.extractLsb' 0 2).toNat 96 ((l : Int) + n) with
        | some p => if g.live.getLsbD p then a p else fill l
        | none => fill l
      (s.defer (.nbr f) .cross (State.vWrites f.ty.is64 f.d.toNat q val []) 0 [] none).retire (.nbr f))

/-- The segment predicate of SCAN, none for 0x3FF. -/
def segments (g : Group) (o : Operand) : Mask :=
  match o with
  | .p n => g.pget n.toNat
  | _ => 0

/-- SCAN (R186). -/
def execScan (f : Fields) (s : State) : Out :=
  .next (s.issue (.scan f) f false false fun s q =>
    let g := s.g
    let p := { State.makePost g 0xA1 f (State.laneVals (g.operand f.ty f.a)) (segments g f.c) with em := q }
    if f.sub.getLsbD 4 then s.issueStep p fun s => (s.defer (.scan f) .cross [] 0 [] (some p.k)).retire (.scan f)
    else
      let r := State.foldGroup p (State.foldIdentity (f.sub.extractLsb' 0 3).toNat f.ty)
      (s.defer (.scan f) .cross
        (State.vWrites f.ty.is64 f.d.toNat q (fun l => ((r.out.find? (·.1 == l)).map (·.2)).getD 0) []) r.flags [] none).retire (.scan f))

/-- RED (R187). -/
def execRed (f : Fields) (s : State) : Out :=
  .next (s.issue (.red f) f false false fun s q =>
    let g := s.g
    let p := { State.makePost g 0xA2 f (State.laneVals (g.operand f.ty f.a)) 0 with em := q }
    if f.sub.getLsbD 4 then s.issueStep p fun s => (s.defer (.red f) .cross [] 0 [] (some p.k)).retire (.red f)
    else
      let r := State.foldGroup p (State.foldIdentity (f.sub.extractLsb' 0 3).toNat f.ty)
      (s.defer (.red f) .cross (State.sWrites f.ty.is64 f.d.toNat r.acc []) r.flags [] none).retire (.red f))

/-- VOTE (R188). -/
def execVote (f : Fields) (s : State) : Out :=
  .next (s.issue (.vote f) f false false fun s q =>
    let g := s.g
    let a := match f.a with
      | .p k => if f.na then ~~~(g.pget k.toNat) else g.pget k.toNat
      | _ => 0
    if f.sub.getLsbD 4 then
      let p := State.makePost g 0xA3 f [] a
      s.issueStep p fun s => (s.defer (.vote f) .cross [] 0 [] (some p.k)).retire (.vote f)
    else
      let hit := q &&& a
      let one (x : Nat) : List RegWrite := State.sWrites false f.d.toNat (BitVec.ofNat 64 x) []
      let writes := match f.voteKind with
        | 0 => one (if hit != 0 then 1 else 0)
        | 1 => one (if hit == q then 1 else 0)
        | 2 => one (lanesOf hit).length
        | _ => (List.range 3).map fun i => RegWrite.s (f.d.toNat + i) (hit.extractLsb' (32 * i) 32) []
      (s.defer (.vote f) .cross writes 0 [] none).retire (.vote f))

/-- BCST (R189). -/
def execBcst (f : Fields) (s : State) : Out :=
  .next (s.issue (.bcst f) f false false fun s q =>
    let g := s.g
    let src := g.bcstSource f q
    let val (l : Nat) : DWord :=
      if src < 96 && g.live.getLsbD src then g.intOperand f.ty.is64 f.a src else g.intOperand f.ty.is64 f.c l
    (s.defer (.bcst f) .cross (State.vWrites f.ty.is64 f.d.toNat q val []) 0 [] none).retire (.bcst f))

/-- RGRP (R190, R191): the movement follows the trailer. -/
def execRgrp (f : Fields) (s : State) : Out :=
  .next (s.issue (.rgrp f) f false false fun s _ => s.regroupChecks fun s =>
    let p := State.makePost s.g 0xA5 f [] 0
    s.issueStep p fun s => s.retireTail (.regroup p.k))

/-- SRTK (R190, R192). Where both conditions of Table 6-1 hold, TVAL is 0x22, the first (log entry 89, DESIGN CHOICE). -/
def execSrtk (f : Fields) (s : State) : Out :=
  .next (s.issue (.srtk f) f false false fun s _ => s.regroupChecks fun s =>
    let g := s.g
    let vm : BitVec 64 := g.intOperand true f.b 0
    if (vm >>> g.launch.vregs) != 0 then s.barTrap 0x23
    else
      let p := { State.makePost g 0xA6 f (State.laneVals (g.operand f.ty f.a)) 0 with
        vmask := vm, pmask := (g.word f.c 0).setWidth 12 }
      s.issueStep p fun s => s.retireTail (.regroup p.k))

/-- STEP_COMPLETE (R179, R180, R193): step `k` of a workgroup completes in each group whose inputs have arrived. -/
def execStepComplete (wid k : Nat) (s : State) : Out :=
  .next (let gids := (s.chainGroups wid).map (·.gid)
    let s := gids.foldl (fun s gid => s.completeStep k gid) s
    gids.foldl (fun s gid => s.settleMove gid k) s)

end Sys2Proof.Machine
end

