-- ==== Sys2Proof/Machine/MemoryOps.lean ====
section
/-! DEFINITION. Loads, stores, prefetch, cache control and discard (R218 to R223). -/

namespace Sys2Proof.Machine

/-- The value found for a lane. -/
def laneVal (xs : List (Nat × DWord)) (l : Nat) : DWord := ((xs.find? (·.1 == l)).map (·.2)).getD 0

namespace State

/-- LD, LDS, LDV and LDZ (R218). -/
def loadLanes (i : Instr) (f : Fields) (m : MemSpace) (s : State) : State :=
  s.issue i f false false fun s q =>
    let g := s.g
    let e := f.ty.bytes
    let size := f.count * e
    let addr := g.address f (m == .virt) false
    match s.checkLanes g m .load true size q addr with
    | .error bad => s.failLanes m .load size q addr bad
    | .ok locs =>
      let ls := locs.map (·.2)
      let hint := if m == .virt then f.hint else 0
      let need := s.missNeed true (hint == 2) size locs
      if s.stalls true size ls || s.missFull need then s
      else
        let writes := (List.range f.count).flatMap fun k =>
          let xs := locs.map fun x => (x.1, putInt f.ty (s.readElem g (some x.1) (hint == 2) x.2 (x.2.off + k * e) e))
          let marks := (locs.filter fun x => s.elemPoisoned g (some x.1) x.2 (x.2.off + k * e) e).map fun x => Mark.mk 0 x.1 (addr x.1)
          vWrites f.ty.is64 (f.d.toNat + k * f.regsPer) q (laneVal xs) marks
        let asked := locs.filter fun x => reachesMemory g (some x.1) x.2 x.2.off size
        ((((s.useLocs .load ls).defer i .load writes 0 [] none need (s.farLanes addr asked)).cacheRead hint size ls).readIo size
          (asked.map (·.2))).retire i

/-- The bytes that a lane stores as element `k` (R216). -/
def storeElem (g : Group) (f : Fields) (l k : Nat) : List Byte :=
  leBytes f.ty.bytes (g.vval f.ty.is64 (f.d.toNat + k * f.regsPer) l).toNat

/-- The writes of a store in the order of R218: a higher lane comes later. Each element is a write of its own, but an I/O access is one
transaction of its whole size (R206, R225). -/
def storeList (g : Group) (f : Fields) (locs : List (Nat × Loc)) : List (Nat × Loc × Nat × List Byte) :=
  locs.flatMap fun x =>
    if x.2.space == .io then [(x.1, x.2, x.2.off, (List.range f.count).flatMap (storeElem g f x.1))]
    else (List.range f.count).map fun k => (x.1, x.2, x.2.off + k * f.ty.bytes, storeElem g f x.1 k)

/-- The miss-status entry of a store's write: its instruction, the beat and the sector, or for I/O the lane (R210). -/
def storeEntry (n : Nat) (x : Nat × Loc × Nat × List Byte) : Option (Nat × Nat × Nat) :=
  match x.2.1.space with
  | .pool | .peer _ => some (n, x.1 / 32, x.2.2.1 / 64)
  | .io => some (n, x.1 / 32, 2 ^ 64 + x.1)
  | _ => none

/-- The writes of a store enter the store path (R207, R210, R218). -/
def acceptAll (s : State) (cg : Bool) (xs : List (Nat × Loc × Nat × List Byte)) : State :=
  let n := s.nextId
  xs.foldl (fun s x => (s.accept x.2.1.space x.2.2.1 x.2.2.2.length (.write x.2.2.2) x.2.1.emit cg (storeEntry n x)).2) s

/-- ST, STS, STV and STZ (R218); ST and STV of a task are buffered (R329). -/
def storeLanes (i : Instr) (f : Fields) (m : MemSpace) (s : State) : State :=
  s.issue i f false false fun s q =>
    let g := s.g
    let size := f.count * f.ty.bytes
    match s.checkLanes g m .store true size q (g.address f (m == .virt) false) with
    | .error bad => s.failLanes m .store size q (g.address f (m == .virt) false) bad
    | .ok locs =>
      let ls := locs.map (·.2)
      let elems := storeList g f locs
      if s.stalls false size ls || s.missFull (s.missNeed false false size locs) then s
      else
        match (if m == .virt || m == .vlt then g.task else none) with
        | some t =>
          s.stageMay t (locs.map (·.1)) fun s =>
            s.growBuffer (elems.foldl (fun b x =>
              let o := bufferOwner t x.1
              bufferBytes b o.1 o.2.1 o.2.2 x.2.1 x.2.2.1 x.2.2.2) t.buffer) fun s => (s.useLocs .store ls).retire i
        | none =>
          ((s.useLocs .store ls).acceptAll (m == .virt && f.hint == 2) elems).retire i

/-- The space of SLD and SST (R215). -/
def scalarSpace (f : Fields) : MemSpace := if f.spaceCode = 0 then .virt else if f.spaceCode = 1 then .scr else .vlt

/-- What a lane of PRF prefetches: a pool location that passes every check; any other lane is dropped (R221). -/
def prefetchLane (s : State) (g : Group) (a : DWord) : Option Loc :=
  if a.toNat % 64 ≠ 0 then none
  else match s.translate g.core (s.regsOf g) g.trapState.mode .load a.toNat with
    | .fail .. => none
    | .ok l => if l.apt = 0 then some ⟨.pool, l.phys a.toNat, some l⟩ else none

/-- The lanes of PRF with what they prefetch. -/
def prefetches (s : State) (g : Group) (f : Fields) (q : Mask) : List (Nat × Loc) :=
  (lanesOf q).filterMap fun l => (s.prefetchLane g (g.address f true false l)).map fun x => (l, x)

/-- The lanes of PRF that miss in the TLB and are dropped, or load the translation alone, ask for walks that set no A (R205, R221). -/
def prefetchWalks (s : State) (level : Nat) (as_ : List Nat) (locs : List Loc) : State :=
  let filled := if level = 2 then [] else locs.filterMap locPage
  s.askLanes .load (as_.filter fun a => !filled.contains (a / 65536))

/-- The effect of PRF at a level: L1 and L2, L2 alone, or the translation alone (R221). What L2 holds changes no value. -/
def prefetch (s : State) (level : Nat) (as_ : List Nat) (locs : List Loc) : State :=
  let s := s.prefetchWalks level as_ locs
  if level = 2 then s
  else
    let s := s.useLocs .load locs
    if level = 0 then s.cacheRead 0 64 locs else s

/-- The dirty bytes of a line go from L2 to HBM (R222). -/
def writeBack (s : State) (lo n : Nat) : State :=
  let dirty := s.l2.filter fun c => lo ≤ c.1 && c.1 < lo + n
  { s with
    mem := dirty.foldl (fun m c => Mem.set m (Space.pool.key c.1) c.2) s.mem
    l2 := L2.drop s.l2 lo n }

/-- One line's part of CCTL (Table 7-8). -/
def cctlLine (core : CoreId) (op : Nat) (s : State) (line : Nat) : State :=
  let inL1 (s : State) : State := s.l1Drop core fun sec => sec / 4 == line
  match op with
  | 0 => inL1 s
  | 2 => s.writeBack (256 * line) 256
  | 3 => inL1 (s.writeBack (256 * line) 256)
  | _ => { s with l2 := L2.drop s.l2 (256 * line) 256 }

/-! ## Discard -/

/-- What a DSCD finds at an address: the present pages of the range, or the cause and TVAL of the first failing check (R223). The range is
an exact one: what lies above the 64-bit address space is not present. -/
def discardPages (s : State) (r : CtxRegs) (super : Bool) (start end_ : Nat) : Nat → Nat → Except (Nat × Nat) (List Leaf)
  | 0, _ => .ok []
  | n + 1, va =>
    if end_ ≤ va || 2 ^ 64 ≤ va then .ok []
    else if !canonical va then .error (0x07, va)
    else match walkFrom s s.vuv va 3 (rootOf r.ptbase) with
      | .fail 0x08 lv => discardPages s r super start end_ n ((va / pageSpan lv + 1) * pageSpan lv)
      | .fail c _ => .error (c, va)
      | .ok l =>
        if l.va < start || end_ < l.va + l.size then .error (0x05, l.va)
        else
          let bad := match leafCheck r super .store l with
            | some 0x09 => none
            | c => c
          match bad with
          | some c => .error (c, l.va)
          | none => match discardPages s r super start end_ n (l.va + l.size) with
            | .error e => .error e
            | .ok ls => .ok (l :: ls)

/-- Every byte of a range of memory becomes zero, whatever lay there (R6). -/
def zeroRange (s : State) (sp : Space) (lo n : Nat) : State :=
  let out (k : Nat) : Bool := k < sp.key lo || sp.key lo + n ≤ k
  { s with
    mem := s.mem.filter fun c => out c.1
    poison := s.poison.filter out
    stale := if sp == Space.pool then cutRange s.stale lo n else s.stale
    l2 := if sp == Space.pool then L2.drop s.l2 lo n else s.l2 }

/-- Whether the store path still holds an access to a page: it is performed before the page is discarded (R223). -/
def writesInto (s : State) (l : Leaf) : Bool :=
  s.stores.any fun p => p.effect != .confirm && p.space == l.space && overlaps p.off p.size (l.phys l.va) l.size

/-- A page is discarded: D is set and M cleared, its lines and translations are dropped, and pins on it are released (R223). The page comes
back to life, when D is cleared, with zero contents: it is made zero here, since nothing can read or write it while D is set (log entry 34). -/
def discardPage (r : CtxRegs) (s : State) (l : Leaf) : State :=
  let s := s.putByte .pool l.at_ ((s.byteAt .pool l.at_ ||| 0x40) &&& 0xDF)
  let pool := l.apt == 0
  let lo := l.phys l.va
  let s := if l.apt ≤ 1 then s.zeroRange l.space lo l.size else s
  let hit (a n : Nat) : Bool := pool && overlaps a n lo l.size
  { s with
    cores := s.cores.map fun c => { c with
      l1 := c.l1.filter fun e => !hit (64 * e.1) 64
      tlb := c.tlb.filter fun e => !(e.part == r.part && (e.ctx == none || e.ctx == some r.ctx) && overlaps e.va e.size l.va l.size) }
    engines := s.engines.map fun q => { q with
      pins := q.pins.filter fun p => !hit (256 * p.line) 256
      tlb := q.tlb.filter fun e => !(e.part == r.part && (e.ctx == none || e.ctx == some r.ctx) && overlaps e.va e.size l.va l.size) } }

end State

/-- LD (R218). -/
def execLd (f : Fields) (s : State) : Out := .next (s.loadLanes (.ld f) f .virt)
/-- ST (R218). -/
def execSt (f : Fields) (s : State) : Out := .next (s.storeLanes (.st f) f .virt)
/-- LDS (R218). -/
def execLds (f : Fields) (s : State) : Out := .next (s.loadLanes (.lds f) f .scr)
/-- STS (R218). -/
def execSts (f : Fields) (s : State) : Out := .next (s.storeLanes (.sts f) f .scr)
/-- LDV (R218). -/
def execLdv (f : Fields) (s : State) : Out := .next (s.loadLanes (.ldv f) f .vlt)
/-- STV (R218). -/
def execStv (f : Fields) (s : State) : Out := .next (s.storeLanes (.stv f) f .vlt)
/-- LDZ (R218, R219). -/
def execLdz (f : Fields) (s : State) : Out := .next (s.loadLanes (.ldz f) f .acc)
/-- STZ (R218, R219). -/
def execStz (f : Fields) (s : State) : Out := .next (s.storeLanes (.stz f) f .acc)

/-- SLD (R220). -/
def execSld (f : Fields) (s : State) : Out :=
  .next (s.issue (.sld f) f false false fun s _ =>
    let g := s.g
    let m := State.scalarSpace f
    let a := g.address f (m == .virt) false 0
    let e := f.ty.bytes
    match s.checkAccess g m .load true e a with
    | .error (c, lv) => s.failOnce m .load e a c lv
    | .ok loc =>
      if s.stalls true e [loc] then s
      else
        let x := putInt f.ty (s.readElem g none (f.hint == 2) loc loc.off e)
        let marks := if s.elemPoisoned g none loc loc.off e then [Mark.mk 0 0 a] else []
        let asked := if State.reachesMemory g none loc loc.off e then [loc] else []
        ((((s.useLocs .load [loc]).defer (.sld f) .load (State.sWrites f.ty.is64 f.d.toNat x marks) 0 [] none 0
          (s.farLanes (fun _ => a) (asked.map fun x => (0, x)))).cacheRead f.hint e [loc]).readIo e asked).retire (.sld f))

/-- SST (R220); in the virtual and vault spaces a task buffers it (R329), and a stage task may not use it (R344). -/
def execSst (f : Fields) (s : State) : Out :=
  .next (s.issue (.sst f) f false false fun s _ => s.notInStage fun s =>
    let g := s.g
    let m := State.scalarSpace f
    let a := g.address f (m == .virt) false 0
    let e := f.ty.bytes
    let data := leBytes e (g.sval f.ty.is64 f.d.toNat).toNat
    match s.checkAccess g m .store true e a with
    | .error (c, lv) => s.failOnce m .store e a c lv
    | .ok loc =>
      if s.stalls false e [loc] then s
      else match (if m == .scr then none else g.task) with
        | some t => s.growBuffer (State.bufferBytes t.buffer 0xFF 0 0 loc loc.off data) fun s => (s.useLocs .store [loc]).retire (.sst f)
        | none => ((s.useLocs .store [loc]).accept loc.space loc.off e (.write data) loc.emit (m == .virt && f.hint == 2)).2.retire (.sst f))

/-- PRF (R221). -/
def execPrf (f : Fields) (s : State) : Out :=
  .next (s.issue (.prf f) f false false fun s q =>
    let g := s.g
    let xs := s.prefetches g f q
    let as_ := State.translated .virt 64 q (g.address f true false)
    if s.poolHeld g (xs.map (·.2.off)) || (!as_.isEmpty && s.walksFull g.core)
        || s.missFull (if f.countCode = 2 then 0 else s.missNeed true (f.countCode == 1) 64 xs) then s
    else (s.prefetch f.countCode as_ (xs.map (·.2))).retire (.prf f))

/-- CCTL (R222). The translations of its hits are used as for a load, also by .inv2: their A is set and M is not (log entry 91, DESIGN
CHOICE). -/
def execCctl (f : Fields) (s : State) : Out :=
  .next (s.issue (.cctl f) f false false fun s q =>
    let g := s.g
    let op := f.cctlOp
    if op = 1 then (s.l1Clear g.core).retire (.cctl f)
    else if op = 4 && !g.trapState.mode then s.trapHere 0x01 none (some q)
    else if s.walksFull g.core then s
    else
      let kind : AccKind := if op = 4 then .store else .load
      let r := (lanesOf q).map fun l =>
        (l, g.address f true false l, s.translate g.core (s.regsOf g) g.trapState.mode kind (g.address f true false l).toNat)
      let bad := r.filterMap fun x => match x.2.2 with
        | .fail c lv => if c = 0x08 || c = 0x09 then none else some (Fail.mk ((1 : Mask) <<< x.1) x.2.1 c lv)
        | .ok _ => none
      let as_ := State.translated .virt 1 q (g.address f true false)
      if !bad.isEmpty then (s.askLanes kind as_).report kind bad
      else
        let hits := r.filterMap fun x => match x.2.2 with
          | .ok l => if l.apt = 0 && !l.dead then some (x.1, Loc.mk .pool (l.phys x.2.1.toNat) (some l)) else none
          | .fail .. => none
        if s.poolHeld g (hits.map (·.2.off)) || s.missFull (s.missNeed true true 1 hits) then s
        else
          let pages := (hits.map (·.2)).filterMap State.locPage
          let s := (s.askLanes kind (as_.filter fun a => !pages.contains (a / 65536))).useLocs .load (hits.map (·.2))
          (((hits.map (·.2.off / 256)).eraseDups).foldl (State.cctlLine g.core op) s).retire (.cctl f))

/-- DSCD (R223). -/
def execDscd (f : Fields) (s : State) : Out :=
  .next (s.issue (.dscd f) f false false fun s _ =>
    let g := s.g
    let r := s.regsOf g
    let start := g.intOperand true f.a 0
    let n := (g.word f.b 0).toNat
    if n = 0 then s.retire (.dscd f)
    else if start.toNat % 65536 ≠ 0 then s.trapHere 0x05 (some start) none
    else if s.walksFull g.core then s
    else match s.discardPages r g.trapState.mode start.toNat (start.toNat + 65536 * n) (n + 1) start.toNat with
      | .error (c, va) => s.trapHere c (some (BitVec.ofNat 64 va)) none
      | .ok ls => if ls.any fun l => s.pageHeld g l || s.writesInto l then s else (ls.foldl (State.discardPage r) s).retire (.dscd f))

end Sys2Proof.Machine
end

