-- ==== Sys2Proof/Machine/Streams.lean ====
section
/-! DEFINITION. Stream queues and their controllers (R300 to R307). -/

namespace Sys2Proof.Machine

/-- Bytes of a queue's ring. -/
def Queue.ringBytes (x : Queue) : Nat := x.ss * x.ns

/-- Where a stream byte lies in the ring (R300). -/
def Queue.ringOff (x : Queue) (o : Nat) : Nat := x.rb + o % x.ringBytes

/-- The subscription that covers a stream byte. -/
def Queue.covering (x : Queue) (o : Nat) : Option Subscription :=
  x.subs.find? fun u => u.start ≤ o && o < u.start + u.rowBytes * u.rows

/-- The virtual address of a stream byte of a subscription (R302). -/
def Subscription.va (u : Subscription) (o : Nat) : Nat :=
  let k := o - u.start
  (((u.base.toNat : Int) + (k / u.rowBytes : Nat) * u.stride + (k % u.rowBytes : Nat)) % 2 ^ 64).toNat

/-- Subscriptions wholly below WP are no longer pending, and ROWD counts the rows finished in the oldest (R302, Table 10-3). -/
def Queue.prune (x : Queue) : Queue :=
  let subs := x.subs.filter fun u => x.wp < u.start + u.rowBytes * u.rows
  { x with subs := subs, rowd := match subs with
      | u :: _ => (x.wp - u.start) / u.rowBytes
      | [] => 0 }

namespace State

def setQueue (s : State) (x : Queue) : State :=
  let same (y : Queue) : Bool := y.core == x.core && y.ctx == x.ctx && y.q == x.q
  let old := s.fabric.queues
  let new := if old.any same then old.map (fun y => if same y then x else y) else old ++ [x]
  { s with fabric := { s.fabric with queues := new } }

/-- WP passes the sectors that are written, or stored and performed (R303, R304). -/
def advanceQueue (s : State) (x : Queue) : Nat → Queue
  | 0 => x.prune
  | n + 1 =>
    match x.ahead.find? (·.1 == x.wp) with
    | some a =>
      if a.2.any s.outstanding then x.prune
      else s.advanceQueue { x with wp := x.wp + 64, ahead := x.ahead.filter (·.1 != x.wp) } n
    | none => x.prune

/-- The queue enters its error state, and the failure is logged (R298, R306, R397). -/
def queueError (s : State) (x : Queue) (sub cause va : Nat) : State :=
  (s.setQueue { x with state := .error, wasLoad := x.state == .load, err := sub, eaddr := va }).logError
    x.core x.ctx sub x.q cause 0 0 (BitVec.ofNat 64 va) 0

/-- A queue instruction on an errored or unconfigured queue traps (R298, R306); `k` gets the queue otherwise. -/
def withQueue (s : State) (q : Nat) (k : Queue → State → State) : State :=
  let x := s.queueOf s.g.core s.g.ctx q
  match x.state with
  | .unconfigured => s.engineTrap 0x20 q
  | .error => s.engineTrap x.err q
  | _ => k x s

/-- QSUB.cfgl and QSUB.cfgs (R301). -/
def configure (s : State) (i : Instr) (f : Fields) (load : Bool) : State :=
  s.issue i f true false fun s _ =>
    let g := s.g
    let q := f.x.toNat
    let x := s.queueOf g.core g.ctx q
    let d := f.d.toNat
    let rb := (g.sget d).toNat
    let ss := (g.sget (d + 1)).toNat
    let ns := (g.sget (d + 2)).toNat
    match x.state with
    | .error => s.engineTrap x.err q
    | .unconfigured =>
      if rb % 256 ≠ 0 || ss % 256 ≠ 0 || ss < 256 || 65536 < ss || ns < 1 || 256 < ns || !s.inScratch g.core rb (ss * ns) then
        s.engineTrap 0x21 q
      else
        (s.setQueue { Queue.initial g.core g.ctx q with
          state := if load then .load else .store, wasLoad := load, rb := rb, ss := ss, ns := ns, owner := g.launch.launch }).retire i
    | _ => s.engineTrap 0x20 q

end State

/-- QSUB.cfgl (R301). -/
def execQsubCfgl (f : Fields) (s : State) : Out := .next (s.configure (.qsubCfgl f) f true)
/-- QSUB.cfgs (R301). -/
def execQsubCfgs (f : Fields) (s : State) : Out := .next (s.configure (.qsubCfgs f) f false)

/-- QSUB.sub (R302). -/
def execQsubSub (f : Fields) (s : State) : Out :=
  .next (s.issue (.qsubSub f) f true false fun s _ => s.withQueue f.x.toNat fun x s =>
    let g := s.g
    let d := f.d.toNat
    let base := g.sval true d
    let rowBytes := (g.sget (d + 2)).toNat
    let rows := (g.sget (d + 3)).toNat
    let stride := (g.sval true (d + 4)).toInt
    if base.toNat % 64 ≠ 0 || rowBytes % 64 ≠ 0 || rowBytes < 64 || 1048576 < rowBytes || rows < 1 || 65536 < rows
        || stride % 64 ≠ 0 then s.engineTrap 0x22 x.q
    else if 8 ≤ x.subs.length then s.waitOn .room
    else if s.commandHeld g then s
    else
      (s.setQueue { x with subs := x.subs ++ [⟨base, rowBytes, rows, stride, x.send, g.trapState.mode⟩], send := x.send + rowBytes * rows }).retire
        (.qsubSub f))

/-- QSUB.drop (R307): the controller stops, and the group waits for the writes it has started. -/
def execQsubDrop (f : Fields) (s : State) : Out :=
  .next (s.issue (.qsubDrop f) f true false fun s _ =>
    let g := s.g
    let q := f.x.toNat
    let x := s.queueOf g.core g.ctx q
    match x.state with
    | .unconfigured => s.engineTrap 0x20 q
    | _ =>
      if x.ahead.any fun a => a.2.any s.outstanding then (s.setQueue { x with subs := [] }).waitOn .room
      else (s.setQueue (Queue.initial g.core g.ctx q)).retire (.qsubDrop f))

/-- QRET (R305). -/
def execQret (f : Fields) (s : State) : Out :=
  .next (s.issue (.qret f) f true false fun s _ => s.withQueue f.x.toNat fun x s =>
    let n := (s.g.word f.a 0).toNat
    let dest := x.gp + n * x.ss
    let limit := if x.state == .load then x.wp else x.wp + x.ringBytes
    if n < 1 || 256 < n || limit < dest then s.engineTrap 0x23 x.q
    else if s.commandHeld s.g then s
    else (s.setQueue { x with gp := dest }).retire (.qret f))

namespace State

/-- The queue that a controller of a core serves: the running context's, while its ring is in the core and cleared (R313, R381, R391). -/
def activeQueue (s : State) (core : CoreId) (q o : Nat) : Option Queue :=
  let c := s.coreAt core
  let x := s.queueOf core c.regs.ctx q
  if (x.state == .load || x.state == .store) && o % 64 == 0 && x.tag.isNone && !s.engineUncleared core c.regs.part
      && !s.unexchanged core (.scr core) (x.ringOff o) 64 then some x else none

/-- A controller's access fails (R306). -/
def queueFail (s : State) (x : Queue) (kind : AccKind) (va c lv : Nat) : State :=
  if c = 0x08 then
    let t := s.engineFault x.core x.ctx (.queue x.core x.q) kind va lv
    t.2.setQueue { x with tag := some t.1 }
  else s.queueError x 0x24 c va

end State

/-- LOADER_SECTOR_WRITE (R303): the sector at a stream offset comes into the ring and WP advances. -/
def execLoaderSectorWrite (core : CoreId) (q o : Nat) (s : State) : Out :=
  .next (match s.activeQueue core q o with
    | none => s
    | some x =>
      match x.covering o with
      | none => s
      | some u =>
        if x.state != .load || o < x.wp || x.gp + x.ringBytes < o + 64 || x.ahead.any (·.1 == o) then s
        else
          let va := u.va o
          match s.engineLoc (s.ctxRegs core x.ctx) u.super .engineRead va with
          | .error (c, lv) => s.queueFail x .engineRead va c lv
          | .ok l =>
            if s.engineBad l l.off 64 then s.queueError x 0x25 0x0C va
            else
              let s := match l.leaf with
                | some leaf => s.markLeaf leaf false
                | none => s
              let s := s.putScratch core x.ctx (x.ringOff o) (s.engineRead l l.off 64)
              s.setQueue (s.advanceQueue { x with ahead := (o, []) :: x.ahead } (x.ahead.length + 2)))

namespace State

/-- The store queue of a core, of any context, whose WP stands at a sector that has been performed: it goes on whether the queue stalls, errs or
has left the core (R304, R306, R313, R380). -/
def storedSector (s : State) (core : CoreId) (q o : Nat) : Option Queue :=
  s.fabric.queues.find? fun x => x.core == core && x.q == q && x.wp == o && x.ahead.any (fun a => a.1 == o && !a.2.any s.outstanding)
    && (x.state == .store || (x.state == .error && !x.wasLoad))

end State

/-- STORER_SECTOR_WRITE (R304): the sector at a stream offset goes into the store path, or, once it is performed, WP advances. -/
def execStorerSectorWrite (core : CoreId) (q o : Nat) (s : State) : Out :=
  .next (match s.storedSector core q o with
    | some x => s.setQueue (s.advanceQueue x (x.ahead.length + 1))
    | none => match s.activeQueue core q o with
    | none => s
    | some x =>
      if x.state != .store then s
      else
        match x.covering o with
        | none => s
        | some u =>
          if o < x.wp || x.gp < o + 64 || x.ahead.any (·.1 == o) then s
          else
            let va := u.va o
            let ring := s.scratchAt core x.ctx (x.ringOff o)
            match s.engineLoc (s.ctxRegs core x.ctx) u.super .engineWrite va with
            | .error (c, lv) => s.queueFail x .engineWrite va c lv
            | .ok l =>
              if (List.range 64).any fun i => s.poisoned ring.1 (ring.2 + i) then s.queueError x 0x25 0x0C va
              else
                let s := match l.leaf with
                  | some leaf => s.markLeaf leaf true
                  | none => s
                let w := s.engineWrite core.die x.ctx 0 l l.off (s.getScratch core x.ctx (x.ringOff o) 64)
                w.2.setQueue { x with ahead := (o, [w.1]) :: x.ahead })

end Sys2Proof.Machine
end

