-- ==== Sys2Proof/Machine/Slalom.lean ====
section
/-! DEFINITION. Slalom sets: routing, batches, outcomes, windows and finishing (R337 to R346, R351 to R354). -/

namespace Sys2Proof.Machine

/-- The core number under which a die's router and task unit use the store path. -/
def routerCore (die : Nat) : CoreId := ⟨die, 65⟩

namespace SlalomSet

/-- Records in flight: those whose output entry and counter addition have not been made. A record that is finished (R339) while the
router still owes its entry counts, since SLIN.free gives the output ring back when none is in flight (R351; log entry 39, DEDUCED). -/
def inFlight (x : SlalomSet) : Nat := (x.next - BitVec.ofNat 32 x.outputs).toNat
/-- Whether a stage has class 2 (R337). -/
def ordered (x : SlalomSet) : Bool := x.stages.any (·.sec == 2)
def modStage (x : SlalomSet) (k : Nat) (f : Stage → Stage) : SlalomSet :=
  match x.stages[k]? with
  | some g => { x with stages := x.stages.set k (f g) }
  | none => x

/-- Next lottery state (R340). -/
def nextLottery (x : DWord) : DWord :=
  let x := x ^^^ (x <<< 13)
  let x := x ^^^ (x >>> 7)
  x ^^^ (x <<< 17)

/-- The first stage whose running sum exceeds r (R340). -/
def drawStage (r : Nat) : List (Nat × Nat) → Nat → Nat
  | [], _ => 0
  | (s, w) :: rest, sum => if rest.isEmpty || r < sum + w then s else drawStage r rest (sum + w)

/-- The route word of a record with a stage appended: nibble n after n stages (R339). -/
def appendRoute (route : DWord) (done : BitVec 16) (s : Nat) : DWord :=
  let n := (List.range 16).foldl (fun n i => n + (if done.getLsbD i then 1 else 0)) 0
  route ||| (BitVec.ofNat 64 s <<< (4 * n))

/-- A record is routed to a stage queue (R340). -/
def route (x : SlalomSet) (now : Nat) (r : Rec) : SlalomSet :=
  let left := (List.range x.stages.length).filter fun s => !r.done.getLsbD s
  let put (x : SlalomSet) (s : Nat) : SlalomSet :=
    x.modStage s fun g => { g with queue := g.queue ++ [{ r with route := appendRoute r.route r.done s, since := now }] }
  match x.pinned with
  | some order => put x ((order.find? left.contains).getD 0)
  | none =>
    match left with
    | [] => x
    | [s] => put x s
    | _ =>
      let ew := left.map fun s => match x.stages[s]? with
        | some g => (s, if 48 ≤ g.queue.length then 2 * g.w else g.w)
        | none => (s, 0)
      let sum := ew.foldl (fun n p => n + p.2) 0
      let n := nextLottery x.x
      put { x with x := n } (drawStage (n.toNat % 2 ^ 32 * sum / 2 ^ 32) ew 0)

/-- Records in ascending sequence. -/
def insertRec (r : Rec) : List Rec → List Rec
  | [] => [r]
  | y :: ys => if r.seq < y.seq then r :: y :: ys else y :: insertRec r ys

def sortRecs (rs : List Rec) : List Rec := rs.foldl (fun acc r => insertRec r acc) []

/-- New records take the next sequence numbers and are routed (R351). -/
def insert (now : Nat) (x : SlalomSet) (payload : DWord) : SlalomSet :=
  route { x with next := x.next + 1 } now ⟨x.next, payload, 0, 0, [], now⟩

/-- The score of a stage at the close of a window (R342). -/
def score (g : Stage) : Option Nat :=
  if 0 < g.e then some (2 ^ 32 * (g.e - g.p + 1) / ((g.e + 2) * max 1 (g.c / g.e)))
  else if !g.ran then some (2 ^ 32 / (2 * (16 * 2 ^ g.cost)))
  else none

/-- The statistics window closes (R342). -/
def closeWindow (x : SlalomSet) : SlalomSet :=
  let m := x.stages.foldl (fun m g => max m ((score g).getD 0)) 0
  { x with
    stages := x.stages.map fun g =>
      { g with
        w := match score g with
          | some v => if 0 < m then max 1 (65535 * v / m) else g.w
          | none => g.w
        ran := g.ran || decide (0 < g.e)
        e := 0
        p := 0
        c := 0 }
    f := 0
    windows := x.windows + 1 }

/-- A window that is full closes before anything else is counted or drawn. -/
def settleWindow (x : SlalomSet) : SlalomSet := if x.win ≤ x.f then x.closeWindow else x

end SlalomSet

namespace State

/-- The stage run of a group, if it runs a stage of a set. -/
def runOf (die : Nat) (ctx : BitVec 32) (k : Nat) (g : Group) : Option (Task × StageRun) :=
  if g.core.die == die && g.ctx == ctx then
    g.task.bind fun t => t.stage.bind fun r => if r.set == k then some (t, r) else none
  else none

/-- The side-effect entries that a set holds for its records: in stage queues, batches and stage tasks, and after they have finished
(R343, R345). -/
def heldEntries (s : State) (die : Nat) (ctx : BitVec 32) (x : SlalomSet) : List BufEntry :=
  let batches := ((s.taskUnit die ctx).batches.filter (·.set == x.k)).flatMap (·.recs)
  let running := s.groups.flatMap fun g => ((runOf die ctx x.k g).map fun p => p.2.recs).getD []
  (x.stages.flatMap (·.queue) ++ batches ++ running ++ x.finishing.map (·.rec_)).flatMap (·.entries)

/-- Side-effect entries that a set holds, as R330 counts them (R346). -/
def sideEntries (s : State) (die : Nat) (ctx : BitVec 32) (x : SlalomSet) : Nat := BufEntry.count (s.heldEntries die ctx x)

/-- A stage queue gives up records as a batch, which takes the next task identifier (R327, R341). -/
def takeBatch (s : State) (die : Nat) (ctx : BitVec 32) (k st n : Nat) : State :=
  match s.slalom? die ctx k with
  | none => s
  | some x =>
    match x.stages[st]? with
    | none => s
    | some g =>
      let sorted := SlalomSet.sortRecs g.queue
      let taken := sorted.take n
      if taken.isEmpty then s
      else
        let (id, s) := s.newTaskId die ctx x.vals.launch
        let (born, s) := s.fresh
        let s := s.modSlalom die ctx k fun x => x.modStage st fun g => { g with queue := g.queue.filter fun r => !(taken.any (·.seq == r.seq)) }
        s.modTaskUnit die ctx fun u => { u with batches := u.batches ++ [⟨id, k, st, taken, 0, [], x.vals, x.part, born⟩] }

/-- Every batch that is due by number, or because the set is closed (R341). -/
def formBatches (s : State) (die : Nat) (ctx : BitVec 32) (k : Nat) : State :=
  match s.slalom? die ctx k with
  | none => s
  | some x =>
    (List.range x.stages.length).foldl (fun s st =>
      match (s.slalom? die ctx k).bind fun x => x.stages[st]? with
      | some g =>
        if 96 ≤ g.queue.length then s.takeBatch die ctx k st 96
        else if x.closed then s.takeBatch die ctx k st g.queue.length
        else s
      | none => s) s

/-- Inserts one record and forms the batches that are due. -/
def insertRecord (s : State) (die : Nat) (ctx : BitVec 32) (k : Nat) (payload : DWord) : State :=
  let now := s.dtime
  (s.modSlalom die ctx k fun x => (x.settleWindow).insert now payload).formBatches die ctx k

/-- Routes one record and forms the batches that are due. -/
def routeRecord (s : State) (die : Nat) (ctx : BitVec 32) (k : Nat) (r : Rec) : State :=
  let now := s.dtime
  (s.modSlalom die ctx k fun x => (x.settleWindow).route now r).formBatches die ctx k

/-! ## Outcomes (R343) -/

/-- The entries of a stage task that belong to a lane. -/
def laneEntries (t : Task) (lane : Nat) : List BufEntry := t.buffer.filter (·.lane == lane)

/-- The lanes of a batch whose records pass. -/
def passes (r : StageRun) (lane : Nat) : Bool := lane < r.recs.length && r.outcome.getD lane none == some true

/-- Entries that the batch would move to the side-effect area (R346). -/
def movedEntries (t : Task) (r : StageRun) : Nat := BufEntry.count (t.buffer.filter fun e => passes r e.lane)

/-- Whether a group has issued the instruction that retires its task, which its trailer has still to do. -/
def retiring (g : Group) : Bool :=
  match g.stroke.map Stroke.tail with
  | some (.tend _ discard) => !discard
  | some (.exit x) => (g.live &&& ~~~x) == 0
  | _ => false

/-- Whether the side-effect area has no room for what a stage task would move, beside what other tasks of the set are about to move
(R346). -/
def areaOverflows (s : State) (g : Group) : Bool :=
  match g.task with
  | some t =>
    match t.stage with
    | some r =>
      match s.slalom? g.core.die g.ctx r.set with
      | some x =>
        let owed := s.groups.foldl (fun n h => match runOf g.core.die g.ctx x.k h with
          | some (t, r) => if h.gid != g.gid && retiring h then n + movedEntries t r else n
          | none => n) 0
        x.secap < s.sideEntries g.core.die g.ctx x + movedEntries t r + owed
      | none => false
    | none => false
  | none => false

/-! ## The side-effect area (R338, R343) -/

/-- The bytes of a write buffer entry (Table 11-2); where the location of an entry lies is its offset in its space (log entry 13). -/
def bufferImage (e : BufEntry) : List Byte :=
  let data : List Byte := match e.kind with
    | 2 => leBytes 8 e.data.toNat
    | 3 => e.words.flatMap fun w => leBytes 4 w.toNat
    | 4 => leBytes 8 e.data.toNat
    | _ => e.bytes.map (·.getD 0)
  let bmask := (List.range 64).foldl (fun m i => m + (if ((e.bytes.getD i none).isSome) then 2 ^ i else 0)) 0
  let atomic := e.kind == 2
  let head : BitVec 512 := 0#352 ++ (if atomic then e.ty.toBits else 0#4) ++ (BitVec.ofNat 4 (if atomic then e.op + 1 else 0))
    ++ (BitVec.ofNat 4 e.stage) ++ (BitVec.ofNat 4 e.set) ++ (BitVec.ofNat 8 e.lane) ++ (BitVec.ofNat 8 e.kind)
    ++ (BitVec.ofNat 64 bmask) ++ (BitVec.ofNat 64 e.off)
  leBytes 64 head.toNat ++ data ++ List.replicate (64 - data.length) 0

/-- Where an entry of a set's side-effect area lies; `none` where its page cannot be reached, and the router then holds the entry in no
memory that software sees (log entry 39, DESIGN CHOICE). -/
def areaLoc (s : State) (ctx : BitVec 32) (x : SlalomSet) (kind : AccKind) (slot : Nat) : Option Loc :=
  match s.engineLoc (s.ctxRegs x.owner ctx) x.vals.super kind ((x.sebase.toNat + 128 * slot) % 2 ^ 64) with
  | .ok l => if l.dead || l.space == .io then none else some l
  | .error _ => none

/-- Entries move to the lowest free entries of the side-effect area, where their images are written (which entry is taken is the model's,
log entry 39). An entry that only carries a sector on has none of its own. -/
def holdEntries (ctx : BitVec 32) (x : SlalomSet) : List Nat → List BufEntry → State → List BufEntry × State
  | _, [], s => ([], s)
  | free, e :: es, s =>
    match (if e.cont then [] else free) with
    | [] =>
      let r := holdEntries ctx x free es s
      (e :: r.1, r.2)
    | k :: rest =>
      let s := match s.areaLoc ctx x .engineWrite k with
        | some l =>
          let s := s.putBytes l.space l.off (bufferImage e)
          (match l.leaf with
          | some leaf => s.markLeaf leaf true
          | none => s)
        | none => s
      let r := holdEntries ctx x rest es s
      ({ e with slot := some k } :: r.1, r.2)

/-- The entries of a stage task that pass go to the side-effect area (R343). -/
def holdPassed (s : State) (die : Nat) (ctx : BitVec 32) (x : SlalomSet) (t : Task) (r : StageRun) : Task × State :=
  let used := (s.heldEntries die ctx x ++ r.recs.flatMap (·.entries)).filterMap (·.slot)
  let moved := t.buffer.filter fun e => passes r e.lane
  let free := ((List.range (used.length + moved.length)).filter fun k => !used.contains k)
  let res := holdEntries ctx x free moved s
  ({ t with buffer := res.1 }, res.2)

/-- An entry as it is committed: its data is what its entry of the side-effect area holds, so a write there changes the committed bytes
and nothing else (R338). -/
def drawn (s : State) (ctx : BitVec 32) (x : SlalomSet) (e : BufEntry) : BufEntry :=
  match e.slot.bind fun k => s.areaLoc ctx x .engineRead k with
  | some l =>
    let d := s.bytesAt l.space (l.off + 64) 64
    { e with
      data := if e.kind = 2 then BitVec.ofNat 64 (leNat (d.take 8)) else e.data
      bytes := (e.bytes.zip d).map fun b => if b.1.isSome then some b.2 else none }
  | none => e

/-- The outcome of one record of a batch is applied: the set with its counts, and the record to route if stages remain. A record that
passes its last stage or is dropped is finished (R339). -/
def applyOutcome (t : Task) (r : StageRun) (x : SlalomSet) (i : Nat) (rec_ : Rec) : SlalomSet × Option Rec :=
  let payload := (r.upd.getD i none).getD rec_.payload
  match r.outcome.getD i none with
  | some true =>
    let done := rec_.done ||| ((1 : BitVec 16) <<< r.stage)
    let rec_ := { rec_ with payload := payload, done := done, entries := rec_.entries ++ laneEntries t i }
    let x := x.modStage r.stage fun g => { g with e := g.e + 1, p := g.p + 1 }
    if (List.range x.stages.length).all fun k => done.getLsbD k then
      ({ x with f := x.f + 1, passed := x.passed + 1, finishing := x.finishing ++ [⟨rec_, true, false, 0, none, none, none, none, false⟩] },
        none)
    else (x, some rec_)
  | o =>
    let x := if o.isSome then x.modStage r.stage fun g => { g with e := g.e + 1 } else x
    let rec_ := { rec_ with entries := [] }
    ({ x with
        f := x.f + 1, dropped := x.dropped + 1, noout := x.noout + (if o.isNone then 1 else 0)
        finishing := x.finishing ++ [⟨rec_, false, o.isNone, r.stage, none, none, none, none, false⟩] }, none)

/-- A stage task's outcomes take effect: its entries of passed lanes go to the side-effect area, its resident clocks are counted once
(their number is free, log entry 17) with its records in ascending sequence, and then the records with stages left are routed (R340, R342,
R343). -/
def applyOutcomes (s : State) (die : Nat) (ctx : BitVec 32) (t : Task) (r : StageRun) : State :=
  let (clocks, s) := s.freeValue
  match s.slalom? die ctx r.set with
  | none => s
  | some x =>
    let (t, s) := s.holdPassed die ctx x t r
    let x := x.settleWindow.modStage r.stage fun g => { g with c := g.c + clocks.toNat }
    let step (acc : SlalomSet × List Rec) (i : Nat) : SlalomSet × List Rec :=
      match r.recs[i]? with
      | none => acc
      | some rec_ =>
        let o := applyOutcome t r acc.1.settleWindow i rec_
        (o.1, acc.2 ++ o.2.toList)
    let res := (List.range r.recs.length).foldl step (x, [])
    let s := s.modSlalom die ctx r.set fun _ => res.1
    res.2.foldl (fun s rec_ => s.routeRecord die ctx r.set rec_) s

/-- TEND with .discard of a stage task: the records go back, unchanged, to the front of their queue (R343). -/
def returnBatch (s : State) (die : Nat) (ctx : BitVec 32) (r : StageRun) : State :=
  let now := s.dtime
  (s.modSlalom die ctx r.set fun x => x.modStage r.stage fun g =>
    { g with queue := r.recs.map (fun e => { e with since := now }) ++ g.queue }).formBatches die ctx r.set

/-! ## Finishing (R339, R345) -/

/-- The valid runs of a sector entry: offset and bytes. -/
def sectorRuns (off : Nat) : List (Option Byte) → List (Nat × List Byte)
  | [] => []
  | none :: bs => sectorRuns (off + 1) bs
  | some b :: bs =>
    match sectorRuns (off + 1) bs with
    | (o, run) :: rest => if o = off + 1 then (off, b :: run) :: rest else (off, [b]) :: (o, run) :: rest
    | [] => [(off, [b])]

/-- One held entry goes into the store path of the router; the answer names the accesses. -/
def routerCommit (die : Nat) (ctx : BitVec 32) (acc : List Nat × State) (e : BufEntry) : List Nat × State :=
  let s := acc.2
  let gate := if e.emit then some (ctx, s.gateOf die ctx) else none
  if e.kind = 2 then
    let r := s.enqueue (routerCore die) 0 e.space e.off e.ty.bytes (.rmw e.op e.ty e.data 0 none) [] gate
    (acc.1 ++ [r.1], r.2)
  else
    (sectorRuns e.off e.bytes).foldl (fun acc run =>
      let r := acc.2.enqueue (routerCore die) 0 e.space run.1 run.2.length (.write run.2) [] gate
      (acc.1 ++ [r.1], r.2)) acc

/-- Entries in ascending stage number, and within a stage in entry order. -/
def byStage (es : List BufEntry) : List BufEntry := (List.range 16).flatMap fun k => es.filter (·.stage == k)

/-- The output entry of a finished record (Table 11-7). -/
def outputEntry (f : Finished) : List Byte :=
  let w : BitVec 128 := 0#10 ++ BitVec.ofBool f.noout ++ BitVec.ofBool (!f.passed) ++ BitVec.ofNat 4 f.dstg ++ f.rec_.done
    ++ f.rec_.seq ++ f.rec_.payload
  leBytes 16 w.toNat

/-- Whether an entry was made by a stage of class 2 (R337, R345). -/
def isLate (x : SlalomSet) (e : BufEntry) : Bool := ((x.stages[e.stage]?).map fun g => g.sec == 2).getD false

/-- The finished record of a set changes. -/
def modFinished (s : State) (die : Nat) (ctx : BitVec 32) (k : Nat) (seq : Word) (h : Finished → Finished) : State :=
  s.modSlalom die ctx k fun x => { x with finishing := x.finishing.map fun y => if y.rec_.seq == seq then h y else y }

/-- The held entries of a passed record, those of the stages of class 2 or those of the others, are committed in ascending stage number
(R345); the answer names the accesses. A dropped record has none. -/
def commitHeld (s : State) (die : Nat) (ctx : BitVec 32) (x : SlalomSet) (f : Finished) (late : Bool) : List Nat × State :=
  let es := f.rec_.entries.filter fun e => isLate x e == late
  let r := (byStage (es.map (s.drawn ctx x))).foldl (routerCommit die ctx) ([], s)
  let rest := f.rec_.entries.filter fun e => isLate x e != late
  (r.1, r.2.modFinished die ctx x.k f.rec_.seq fun y => { y with rec_ := { y.rec_ with entries := rest } })

/-- The next part of finishing the record whose turn it is: the commit of its class 2 entries, its output entry once all its commits are
performed, then the counter (R339, R345). -/
def finishPart (s : State) (die : Nat) (ctx : BitVec 32) (x : SlalomSet) (f : Finished) : State :=
  let k := x.k
  let upd (s : State) (g : Finished → Finished) : State := s.modFinished die ctx k f.rec_.seq g
  match f.late with
  | none =>
    let r := s.commitHeld die ctx x f true
    upd r.2 fun y => { y with late := some r.1 }
  | some ids =>
    if (f.commit.getD [] ++ ids).any s.outstanding then s
    else
      let finish (s : State) : State :=
        (s.modSlalom die ctx k fun x => { x with
          finishing := x.finishing.filter (·.rec_.seq != f.rec_.seq)
          outputs := x.outputs + 1 }).addCounter x.owner ctx x.ocnt 1
      match f.out with
      | some ids => if ids.any s.outstanding then s else finish s
      | none =>
        if f.dropOut then finish s
        else if f.tag.isSome then s
        else
          let va := (x.outbase.toNat + 16 * (f.rec_.seq.toNat % 2 ^ x.logout)) % 2 ^ 64
          match s.engineLoc (s.ctxRegs x.owner ctx) x.vals.super .engineWrite va with
          | .error (0x08, lv) =>
            let t := s.engineFault x.owner ctx (.slalom die ctx k) .engineWrite va lv
            upd t.2 fun y => { y with tag := some t.1 }
          | .error (c, _) =>
            upd (s.logError x.owner ctx 0x35 0xFF c 0 0 (BitVec.ofNat 64 va) 0) fun y => { y with dropOut := true }
          | .ok l =>
            let s := match l.leaf with
              | some leaf => s.markLeaf leaf true
              | none => s
            let r := s.enqueue (routerCore die) 0 l.space l.off 16 (.write (outputEntry f)) []
              (if l.emit then some (ctx, s.gateOf die ctx) else none)
            upd r.2 fun y => { y with out := some [r.1] }

/-- The next part of a set's finishing. The entries of class 1 stages of a record are committed as soon as it has passed its last stage.
Output entries and counter additions, and commits of class 2 in an ordered set, are made in turn: in ascending sequence in an ordered set, in
the order of finishing otherwise; a page that is absent stalls them all (R339, R345). -/
def finishNext (s : State) (die : Nat) (ctx : BitVec 32) (x : SlalomSet) : State :=
  match x.finishing.find? (·.commit.isNone) with
  | some f =>
    let r := s.commitHeld die ctx x f false
    r.2.modFinished die ctx x.k f.rec_.seq fun y => { y with commit := some r.1 }
  | none =>
    let turn := if x.ordered then x.finishing.find? fun f => f.rec_.seq == BitVec.ofNat 32 x.outputs else x.finishing.head?
    match turn with
    | some f => s.finishPart die ctx x f
    | none => s

/-! ## Instructions -/

/-- Lanes of an AE instruction of this chapter: EM, or EM and the predicate in A (R347). -/
def aeLanes (g : Group) (f : Fields) : Mask :=
  match f.a with
  | .p k => g.em &&& (if f.na then ~~~(g.pget k.toNat) else g.pget k.toNat)
  | _ => g.em

/-- The named set, or cause 0x15 with code 0x02. -/
def withSet (s : State) (k : Nat) (body : SlalomSet → State → State) : State :=
  match s.slalom? s.g.core.die s.g.ctx k with
  | some x => body x s
  | none => s.slalomTrap k 0x02

/-- The stage run of the issuing task, if its lanes all carry records; otherwise code 0x04. -/
def withStage (s : State) (m : Mask) (body : StageRun → State → State) : State :=
  match s.g.task.bind (·.stage) with
  | none => s.slalomTrap 0 0x04
  | some r => if (lanesOf m).any fun l => r.recs.length ≤ l then s.slalomTrap r.set 0x04 else body r s

def modStageRun (s : State) (f : StageRun → StageRun) : State :=
  s.modG fun g => { g with task := g.task.map fun t => { t with stage := t.stage.map f } }

/-- SLPS and SLDP (R343, R352). -/
def giveOutcome (s : State) (i : Instr) (f : Fields) (pass upd : Bool) : State :=
  s.issue i f true false fun s _ =>
    let m := aeLanes s.g f
    s.withStage m fun r s =>
      if (lanesOf m).any fun l => r.outcome.getD l none == some (!pass) then s.slalomTrap r.set 0x07
      else
        let g := s.g
        (s.modStageRun fun r => { r with
          outcome := (List.range r.recs.length).map fun l => if m.getLsbD l then some pass else r.outcome.getD l none
          upd := (List.range r.recs.length).map fun l =>
            if upd && m.getLsbD l then some (g.vval true f.d.toNat l) else r.upd.getD l none }).retire i

/-- A stage of a descriptor (Table 11-6). -/
def stageOf (e : BitVec 128) : Stage :=
  ⟨e.extractLsb' 0 64, (e.extractLsb' 68 2).toNat, (e.extractLsb' 64 3).toNat, (e.extractLsb' 80 16).toNat, 0, 0, 0, false, []⟩

/-- Whether a stage entry is malformed (R337, Table 11-6). -/
def stageBad (used : Bool) (e : BitVec 128) : Bool :=
  if used then
    e.extractLsb' 96 32 != 0 || e.extractLsb' 80 16 == 0 || e.extractLsb' 70 10 != 0 || e.extractLsb' 68 2 == 3 || e.getLsbD 67
  else e != 0

/-- The set that a descriptor describes, or `none` if it is malformed (Table 11-5). -/
def setOf (s : State) (g : Group) (k : Nat) (d : BitVec 2560) : Option SlalomSet :=
  let fld (lo n : Nat) : Nat := (d.extractLsb' lo n).toNat
  let nstg := fld 256 4
  let entry (i : Nat) : BitVec 128 := d.extractLsb' (512 + 128 * i) 128
  let stages := (List.range (nstg + 1)).map fun i => stageOf (entry i)
  let age := fld 352 32
  let maxrec := fld 320 32
  let win := fld 288 17
  let logout := fld 264 5
  let ocnt : Word := d.extractLsb' 224 32
  let secap := fld 192 32
  let bad :=
    fld 384 128 != 0 || age == 0 || maxrec < 96 || 65536 < maxrec || fld 305 15 != 0 || win < 1024 || 65536 < win || fld 269 19 != 0
    || logout < 7 || 20 < logout || 2 ^ logout < maxrec || fld 260 4 != 0 || !s.counterOk g.core ocnt
    || 2 ^ 20 < secap || (secap == 0 && stages.any (·.sec != 0)) || fld 128 64 % 128 != 0 || fld 64 64 % 16 != 0 || fld 0 64 == 0
    || (List.range 16).any fun i => stageBad (i ≤ nstg) (entry i)
  if bad then none
  else some ⟨k, g.core, stages, age, maxrec, win, logout, ocnt, secap, d.extractLsb' 128 64, d.extractLsb' 64 64, d.extractLsb' 0 64,
    0, false, none, 0, 0, 0, 0, 0, 0, 0, [], { g.launch with groups := 1 }, g.part⟩

/-- Whether an order names each stage 0 to NSTG once in its first nibbles, with the others zero (Table 11-8). -/
def orderOf (n : Nat) (x : DWord) : Option (List Nat) :=
  let ns := (List.range 16).map fun i => (x.extractLsb' (4 * i) 4).toNat
  let head := ns.take n
  if head.Nodup && head.all (· < n) && (ns.drop n).all (· == 0) then some head else none

/-- SLST selectors (Table 11-11); `none` for a reserved one. -/
def slstValue (s : State) (x : SlalomSet) (sel : Nat) : Option DWord :=
  let n (v : Nat) : Option DWord := some (BitVec.ofNat 64 v)
  let st (k : Nat) (f : Stage → Nat) : Option DWord := n ((x.stages[k]?.map f).getD 0)
  match sel with
  | 0 => n x.next.toNat
  | 1 => n x.passed
  | 2 => n x.dropped
  | 3 => n x.inFlight
  | 4 => n x.windows
  | 5 => some x.x
  | 6 => n x.noout
  | 7 => n x.retried
  | 8 => n (s.sideEntries s.g.core.die s.g.ctx x)
  | 9 => n ((List.range x.stages.length).foldl (fun a k => a + (if (x.stages[k]?.map (·.ran)).getD true then 0 else 2 ^ k)) 0)
  | sel =>
    if 64 ≤ sel || sel < 16 then none
    else if sel < 32 then st (sel - 16) fun g => g.w + 2 ^ 32 * (g.queue.length % 65536)
    else if sel < 48 then st (sel - 32) fun g => g.e % 2 ^ 32 + 2 ^ 32 * (g.p % 2 ^ 32)
    else st (sel - 48) (·.c)

end State

/-- SLIN.set (R337, R338, R351). -/
def execSlinSet (f : Fields) (s : State) : Out :=
  .next (s.issue (.slinSet f) f true false fun s _ =>
    let g := s.g
    let k := (f.x.extractLsb' 0 4).toNat
    let a := g.sval true f.d.toNat
    if (s.slalom? g.core.die g.ctx k).isSome then s.slalomTrap k 0x02
    else if s.commandHeld g then s
    else
      let parts := (List.range 5).map fun i => (a + BitVec.ofNat 64 (64 * i), s.checkAccess g .virt .load true 64 (a + BitVec.ofNat 64 (64 * i)))
      let bad := parts.filterMap fun p => match p.2 with
        | .error (c, lv) => some (Fail.mk g.em p.1 c lv)
        | .ok _ => none
      let locs := parts.filterMap fun p => match p.2 with
        | .ok l => some l
        | .error _ => none
      if !bad.isEmpty then s.report .load bad
      else if s.stalls true 64 locs then s
      else
        let bytes := locs.flatMap fun l => (List.range 8).flatMap fun i => leBytes 8 (s.readElem g none false l (l.off + 8 * i) 8).toNat
        let s := (s.useLocs .load locs).readIo 64 (locs.filter fun l => State.reachesMemory g none l l.off 64)
        match s.setOf g k (BitVec.ofNat 2560 (leNat bytes)) with
        | none => s.slalomTrap k 0x01
        | some x => (s.modTaskUnit g.core.die g.ctx fun u => { u with sets := u.sets ++ [x] }).retire (.slinSet f))

/-- SLIN.rec (R329, R344, R351). -/
def execSlinRec (f : Fields) (s : State) : Out :=
  .next (s.issue (.slinRec f) f true false fun s _ => s.notInStage fun s =>
    let g := s.g
    let k := (f.x.extractLsb' 0 4).toNat
    let ls := lanesOf (State.aeLanes g f)
    s.withSet k fun x s =>
      if x.closed then s.slalomTrap k 0x03
      else match g.task with
        | some t =>
          s.growBuffer (t.buffer ++ ls.map fun l => ⟨4, 0xFF, 0, k, .pool, 0, false, [], 0, .n8, g.vval true f.d.toNat l, [], false, false, none⟩)
            fun s => s.retire (.slinRec f)
        | none =>
          if s.commandHeld g then s
          else if x.maxrec < x.inFlight + ls.length then s.waitOn .room
          else (ls.foldl (fun s l => s.insertRecord g.core.die g.ctx k (g.vval true f.d.toNat l)) s).retire (.slinRec f))

/-- SLIN.close (R351). -/
def execSlinClose (f : Fields) (s : State) : Out :=
  .next (s.issue (.slinClose f) f true false fun s _ =>
    let k := (f.x.extractLsb' 0 4).toNat
    s.withSet k fun _ s =>
      let g := s.g
      if s.commandHeld g then s
      else ((s.modSlalom g.core.die g.ctx k fun x => { x with closed := true }).formBatches g.core.die g.ctx k).retire (.slinClose f))

/-- SLIN.free (R351). -/
def execSlinFree (f : Fields) (s : State) : Out :=
  .next (s.issue (.slinFree f) f true false fun s _ =>
    let k := (f.x.extractLsb' 0 4).toNat
    s.withSet k fun x s =>
      if s.commandHeld s.g then s
      else if x.inFlight ≠ 0 then s.waitOn .room
      else (s.modTaskUnit s.g.core.die s.g.ctx fun u => { u with sets := u.sets.filter (·.k != k) }).retire (.slinFree f))

/-- SLPS (R352). -/
def execSlps (f : Fields) (s : State) : Out := .next (s.giveOutcome (.slps f) f true (f.sub.getLsbD 0))
/-- SLDP (R352). -/
def execSldp (f : Fields) (s : State) : Out := .next (s.giveOutcome (.sldp f) f false false)

/-- SLFX.rd (R353). -/
def execSlfxRd (f : Fields) (s : State) : Out :=
  .next (s.issue (.slfxRd f) f true false fun s _ =>
    let m := State.aeLanes s.g f
    s.withStage m fun r s =>
      (s.modG fun g => g.vput true f.d.toNat m fun l => (r.recs[l]?.map (·.route)).getD 0).retire (.slfxRd f))

/-- SLFX.pin (R353). -/
def execSlfxPin (f : Fields) (s : State) : Out :=
  .next (s.issue (.slfxPin f) f true false fun s _ =>
    let k := (f.x.extractLsb' 0 4).toNat
    s.withSet k fun x s =>
      match State.orderOf x.stages.length (s.g.intOperand true f.b 0) with
      | none => s.slalomTrap k 0x08
      | some o => (s.modSlalom s.g.core.die s.g.ctx k fun x => { x with pinned := some o }).retire (.slfxPin f))

/-- SLFX.unpin (R353). -/
def execSlfxUnpin (f : Fields) (s : State) : Out :=
  .next (s.issue (.slfxUnpin f) f true false fun s _ =>
    let k := (f.x.extractLsb' 0 4).toNat
    s.withSet k fun _ s => (s.modSlalom s.g.core.die s.g.ctx k fun x => { x with pinned := none }).retire (.slfxUnpin f))

/-- SLST (R354): a reserved constant selector is illegal, a reserved value in a register reads 0. -/
def execSlst (f : Fields) (s : State) : Out :=
  .next (s.issue (.slst f) f true false fun s q =>
    let k := (f.x.extractLsb' 0 4).toNat
    let sel := (s.g.word f.b 0).toNat
    let const := match f.b with
      | .int _ => true
      | _ => false
    if const && 10 ≤ sel && sel < 16 then s.illegal q
    else s.withSet k fun x s =>
      let v := (s.slstValue x sel).getD 0
      (s.modG fun g => g.sput true f.d.toNat v).retire (.slst f))

/-- STAGE_BATCH_AGE (R341): the oldest record of a stage queue has waited AGE. -/
def execStageBatchAge (die : Nat) (ctxid : BitVec 32) (set stage : Nat) (s : State) : Out :=
  .next (match (s.slalom? die ctxid set) with
    | some x =>
      match x.stages[stage]? with
      | some g => if g.queue.any fun r => r.since + x.age ≤ s.dtime then s.takeBatch die ctxid set stage g.queue.length else s
      | none => s
    | none => s)

/-- STATS_WINDOW_CLOSE (R342). -/
def execStatsWindowClose (die : Nat) (ctxid : BitVec 32) (set : Nat) (s : State) : Out :=
  .next (s.modSlalom die ctxid set fun x => x.settleWindow)

/-- RECORD_FINISH (R339, R345). -/
def execRecordFinish (die : Nat) (ctxid : BitVec 32) (set : Nat) (s : State) : Out :=
  .next (match s.slalom? die ctxid set with
    | some x => s.finishNext die ctxid x
    | none => s)

end Sys2Proof.Machine
end

