-- ==== Sys2Proof/Machine/Tasks.lean ====
section
/-! DEFINITION. Tasks: spawning, suspension and continuation records, commit and retirement, and the task unit that starts
them (R325 to R336, R348 to R350). -/

namespace Sys2Proof.Machine

namespace State

/-! ## Slots and room (R18, R212, R326) -/

/-- Whether a group occupies its slot: a group that ended or is suspended has left it, and so has one parked with TIP clear (R212). -/
def occupies (g : Group) : Bool :=
  match g.wait with
  | .ended | .suspended => false
  | .parked => g.trapState.tip
  | _ => true

/-- The groups of a context that occupy a slot of a core. -/
def residents (s : State) (core : CoreId) (ctx : BitVec 32) : List Group :=
  s.groups.filter fun g => g.core == core && g.ctx == ctx && occupies g

/-- The lowest free group slot of a context on a core. -/
def freeSlot (s : State) (core : CoreId) (ctx : BitVec 32) : Option Nat :=
  (List.range 64).find? fun k => !((s.residents core ctx).any (·.slot == k))

/-- Whether a core has slots and register space for some groups (R18). -/
def hasRoom (s : State) (core : CoreId) (ctx : BitVec 32) (split : Split) (vregs groups : Nat) : Bool :=
  let rs := s.residents core ctx
  rs.length + groups ≤ 64
    && rs.foldl (fun n g => n + 384 * g.launch.vregs) 0 + 384 * vregs * groups ≤ split.regs * 262144

/-- A core's split as a triple. -/
def splitOf (s : State) (core : CoreId) : Nat × Nat × Nat :=
  let p := (s.coreAt core).split
  (p.regs, p.scr, p.l1)

/-- Whether the task unit can start a task on a core (R326). -/
def taskEligible (s : State) (ctx : BitVec 32) (vals : LaunchVals) (core : CoreId) : Bool :=
  let c := s.coreAt core
  c.status == .live && c.regs.ctx == ctx && !c.swap.late && !s.quadTaken core c.regs.part && s.splitOf core == vals.split
    && (s.freeSlot core ctx).isSome && s.hasRoom core ctx c.split vals.vregs 1

/-- The core with the fewest resident groups, the lower number on a tie (R326, R418). -/
def leastLoaded (s : State) (ctx : BitVec 32) : List CoreId → Option CoreId
  | [] => none
  | c :: cs => match leastLoaded s ctx cs with
    | some d => if (s.residents d ctx).length < (s.residents c ctx).length then some d else some c
    | none => some c

/-- The cores of a die. -/
def dieCores (die : Nat) : List CoreId := (List.range 48).map fun k => ⟨die, k⟩

/-- The cores that drain for a launch, on dies where it still waits, and those that a co-resident launch has reserved: nothing else is placed there
(R17, R418). -/
def draining (l : Launch) : List CoreId :=
  if l.reserved then l.drain else l.drain.filter fun c => l.pending.any fun x => x.1 == c.die && !x.2.isEmpty

/-- The core on which the unit starts an attempt; a retry prefers cores that no earlier attempt has used (R326, R335). -/
def chooseCore (s : State) (die : Nat) (ctx : BitVec 32) (vals : LaunchVals) (used : List CoreId) : Option CoreId :=
  let kept := s.host.launches.flatMap draining
  let ok := (dieCores die).filter fun c => s.taskEligible ctx vals c && !kept.contains c
  let fresh := ok.filter fun c => !used.contains c
  s.leastLoaded ctx (if used.isEmpty || fresh.isEmpty then ok else fresh)

/-- A new group record. -/
def addGroup (s : State) (g : Group) : State := { s with grps := s.grps ++ [g] }

def addWg (s : State) (w : Workgroup) : State := { s with wgs := s.wgs ++ [w] }

/-! ## Starting (R326, R327, R335, R348) -/

/-- Register contents at the start of a task: S0 to S4, and V0 to V3 by lane (Table 11-1). -/
def taskRegs (regs : List Word) (rows : List (DWord × Word × BitVec 16)) (vregs : Nat) : List Word × List (List Word) :=
  let col (f : DWord × Word × BitVec 16 → Word) : List Word := lanes.map fun l => ((rows[l]?).map f).getD 0
  let zero : List Word := List.replicate 96 0
  (regs ++ List.replicate (60 - regs.length) 0,
    [col fun r => r.1.setWidth 32, col fun r => r.1.extractLsb' 32 32, col fun r => r.2.1, col fun r => r.2.2.setWidth 32]
      ++ List.replicate (vregs - 4) zero)

/-- The first fetch of a group that has just been placed: an entry that fails R35 or R98 takes its cause there, and a last extra attempt
takes cause 0x13 before its first instruction (R335, R348). -/
def enterTask (s : State) (gid : Nat) : State :=
  let s := s.focus gid
  let g := s.g
  let s := match g.task with
    | some t => if t.rc < t.attempt then s.trapHere 0x13 (some (t.id.setWidth 64)) none else s.enterSlot
    | none => s
  s.issuerSelect g.core

/-- A task starts on a core as a workgroup of one group (R325, R327). -/
def startTask (s : State) (core : CoreId) (ctx : BitVec 32) (part : Byte) (vals : LaunchVals) (t : Task) (n : Nat)
    (regs : List Word) (rows : List (DWord × Word × BitVec 16)) : State :=
  match s.freeSlot core ctx with
  | none => s
  | some slot =>
    let (gid, s) := s.fresh
    let (wid, s) := s.fresh
    let r := taskRegs regs rows vals.vregs
    let live := maskOf (· < n)
    let g : Group := { Group.initial with
      gid := gid, core := core, slot := slot, ctx := ctx, part := part, wid := wid, placed := core
      launch := { vals with groups := 1 }, v := r.2, s := r.1, em := live, live := live
      thrd := lanes.map (BitVec.ofNat 32 ·), pc := t.entry, wait := .ready, task := some t
      trapState := { Group.initial.trapState with mode := vals.super } }
    let w : Workgroup := { Workgroup.initial with
      wid := wid, launch := vals.launch, ctx := ctx, part := part, cores := [core], coords := vals.coords, members := [gid]
      split := [1], first := core, supervisor := vals.super, karg := vals.karg }
    ((s.addGroup g).addWg w).enterTask gid

/-- A spawned task starts. -/
def startSpawn (s : State) (die : Nat) (ctx : BitVec 32) (t : Spawn) (core : CoreId) : State :=
  let s := s.modTaskUnit die ctx fun u => { u with spawned := u.spawned.filter (· != t) }
  s.startTask core ctx t.part t.vals
    ⟨t.id, t.entry, t.arg, t.lanes, t.attempt, t.vals.rc, t.used, t.spawner, t.counter, [], none, t.born⟩ t.lanes
    [t.arg.setWidth 32, t.arg.extractLsb' 32 32, t.id, BitVec.ofNat 32 t.attempt, BitVec.ofNat 32 t.spawner.core] []

/-- A stage batch starts. -/
def startBatch (s : State) (die : Nat) (ctx : BitVec 32) (b : Batch) (core : CoreId) : State :=
  let entry := ((s.slalom? die ctx b.set).bind fun x => x.stages[b.stage]?.map (·.entry)).getD 0
  let n := b.recs.length
  let s := s.modTaskUnit die ctx fun u => { u with batches := u.batches.filter (· != b) }
  s.startTask core ctx b.part b.vals
    ⟨b.id, entry, 0, n, b.attempt, b.vals.rc, b.used, core, 0xFFFFFFFF, [],
      some ⟨b.set, b.stage, b.recs, List.replicate n none, List.replicate n none⟩, b.born⟩ n
    [BitVec.ofNat 32 b.set, BitVec.ofNat 32 b.stage, b.id, BitVec.ofNat 32 b.attempt, BitVec.ofNat 32 n]
    (b.recs.map fun r => (r.payload, r.seq, r.done))

/-- What a resumed task finds in its registers: those of the record, the others zero (Table 11-1). -/
def resumeRegs (nv : Nat) (g : Group) : Group :=
  { g with
    live := g.em
    s := g.s.take 16 ++ List.replicate 44 0
    v := (g.v.take nv) ++ List.replicate (g.launch.vregs - nv) (List.replicate 96 0)
    marks := g.marks.filter fun k => k.reg < nv || (sKey 0 ≤ k.reg && k.reg < sKey 16) }

/-- A ready continuation resumes on a core; resumption acts as an acquire of spaces that L1 does not hold (R334), and the core's L1, where copies
may stand that are older than what the group has read elsewhere, is cleared (R227). The
resumed slot is entered, so its TGT bit is checked again before its first stroke (R35). A last extra attempt whose record was lost takes
cause 0x18, as any group whose saved state is bad (Table 13-6). -/
def resumeTask (s : State) (die : Nat) (ctx : BitVec 32) (k : Contin) (core : CoreId) : State :=
  match s.freeSlot core ctx with
  | none => s
  | some slot =>
    let s := s.modTaskUnit die ctx fun u => { u with contins := u.contins.filter (·.slot != k.slot) }
    let s := s.modGroup k.gid fun g => { resumeRegs k.nv g with
      core := core, slot := slot, place := .core, wait := .ready, due := .entry }
    let wid := ((s.group? k.gid).map (·.wid)).getD 0
    let s := s.l1Clear core
    ((s.modWg wid fun w => { w with cores := [core] }).checkRestored [k.gid]).issuerSelect core

/-- The core on which a ready continuation may resume (R326, R334). -/
def continCore (s : State) (die : Nat) (ctx : BitVec 32) (k : Contin) : Option CoreId :=
  match s.group? k.gid with
  | some g =>
    if k.pin then (if s.taskEligible ctx g.launch k.pcore then some k.pcore else none) else s.chooseCore die ctx g.launch []
  | none => none

/-- The first element for which a choice exists, with the choice. -/
def firstChoice {α β : Type} (f : α → Option β) : List α → Option (α × β)
  | [] => none
  | x :: xs => match f x with
    | some y => some (x, y)
    | none => firstChoice f xs

/-- The next start of a context's task unit: ready continuations, then stage batches, then spawned tasks (R326). -/
def startNext (s : State) (u : TaskUnit) : Option State :=
  match firstChoice (s.continCore u.die u.ctx) (u.contins.filter (·.ready)) with
  | some (k, c) => some (s.resumeTask u.die u.ctx k c)
  | none => match firstChoice (fun b : Batch => s.chooseCore u.die u.ctx b.vals b.used) u.batches with
    | some (b, c) => some (s.startBatch u.die u.ctx b c)
    | none => match firstChoice (fun t : Spawn => s.chooseCore u.die u.ctx t.vals t.used) u.spawned with
      | some (t, c) => some (s.startSpawn u.die u.ctx t c)
      | none => none

/-! ## Suspension (R333, R349) -/

/-- The entries of a write buffer as a continuation record lists them: an entry that carries a sector on is merged into that sector's
(R330). -/
def recordEntries (es : List BufEntry) : List BufEntry :=
  es.foldl (fun acc e =>
    if e.cont then acc.map fun y =>
      if y.kind ≤ 1 && y.space == e.space && y.off == e.off && y.lane == e.lane then
        { y with bytes := (y.bytes.zip e.bytes).map fun b => b.2 <|> b.1 }
      else y
    else acc ++ [e]) []

/-- The header of a continuation record (Table 11-4). -/
def recordHeader (g : Group) (t : Task) (k : Contin) : BitVec 1024 :=
  let r := t.stage
  t.entry ++ (if r.isSome then 0#64 else t.arg) ++ k.target ++ (BitVec.ofNat 32 k.waddr) ++ t.counter
    ++ (BitVec.ofNat 8 t.spawner.core) ++ (BitVec.ofNat 8 k.pcore.core) ++ (BitVec.ofNat 8 (recordEntries t.buffer).length)
    ++ (BitVec.ofNat 8 t.attempt) ++ (BitVec.ofNat 8 k.nv) ++ (BitVec.ofNat 2 k.kind) ++ BitVec.ofBool k.pin
    ++ BitVec.ofBool r.isSome ++ (BitVec.ofNat 4 ((r.map (·.stage)).getD 0)) ++ (BitVec.ofNat 4 ((r.map (·.set)).getD 0))
    ++ g.flags ++ 0#501 ++ t.id ++ g.fmt ++ g.em ++ g.pc

/-- The bytes of a continuation record (Table 11-3). -/
def recordImage (g : Group) (t : Task) (k : Contin) : List Byte :=
  leBytes 128 (recordHeader g t k).toNat
    ++ ((List.range 16).flatMap fun i => leBytes 4 (g.sget i).toNat)
    ++ ((List.range 12).flatMap fun i => leBytes 16 (g.pget i).toNat)
    ++ List.replicate 128 0
    ++ ((List.range 16).flatMap fun r => (List.range 96).flatMap fun l => leBytes 4 (if r < k.nv then (g.vget r l).toNat else 0))
    ++ ((recordEntries t.buffer).flatMap bufferImage)
    ++ List.replicate (128 * (128 - (recordEntries t.buffer).length) + 1536) 0

/-- The action of TSUS when its trailer has retired: the record is written and the group leaves its slot (R333). -/
def tsusAction (s : State) (slot : Nat) : State :=
  let g := s.g
  let u := s.taskUnit g.core.die g.ctx
  match g.task, u.contins.find? (·.slot == slot) with
  | some t, some k =>
    let s := s.putBytes .pool (u.areaBase + 24576 * slot) (recordImage g t k)
    let t := { t with used := usedWith t g.core }
    ((s.modG fun g => { g with wait := .suspended, stroke := none, task := some t }).release g).issuerSelect g.core
  | _, _ => s

/-- Whether the condition of a continuation holds (R333, R334). -/
def continHolds (s : State) (die : Nat) (ctx : BitVec 32) (k : Contin) : Bool :=
  match k.kind with
  | 0 => ((s.group? k.gid).map (·.ec == 0)).getD false
  | 1 => reached (BitVec.ofNat 64 (leNat (s.getScratch k.pcore ctx k.waddr 8))) k.target
  | _ => reached (BitVec.ofNat 64 (s.wordAt (.vlt die (k.waddr / 2 ^ 26)) (k.waddr % 2 ^ 26) 8)) k.target

/-! ## Retirement (R332, R350) -/

/-- A completion addition: at once when nothing has to be performed first, otherwise left to WRITE_PERFORMED (R332). -/
def completeTask (s : State) (needs : List Nat) (t : Task) : State :=
  if t.counter = 0xFFFFFFFF then s
  else
    let g := s.g
    let needs := needs.filter s.outstanding
    if needs.isEmpty then s.addCounter t.spawner g.ctx t.counter 1
    else s.modTaskUnit g.core.die g.ctx fun u => { u with completions := u.completions ++ [⟨needs, t.spawner, g.ctx, t.counter⟩] }

/-- One entry of a commit (R332). The location of a spawn entry names the core that issued the TSPN.
An entry holds no cache hint (Table 11-2), so a store is accepted as one without .cg (log entry 90, DESIGN CHOICE). -/
def commitEntry (s : State) (e : BufEntry) : State :=
  let g := s.g
  match e.kind with
  | 2 => (s.accept e.space e.off e.ty.bytes (.rmw e.op e.ty e.data 0 none) e.emit).2
  | 3 =>
    let w (i : Nat) : Word := e.words.getD i 0
    let (id, s) := s.newTaskId g.core.die g.ctx g.launch.launch
    let (born, s) := s.fresh
    let spawner := match e.space with
      | .scr c => c
      | _ => g.core
    s.modTaskUnit g.core.die g.ctx fun u => { u with
      spawned := u.spawned ++ [⟨id, w 1 ++ w 0, w 3 ++ w 2, (w 4).toNat, spawner, w 5, 0, [], g.launch, g.part, born⟩] }
  | 4 => s.insertRecord g.core.die g.ctx e.set e.data
  | _ => (sectorRuns e.off e.bytes).foldl (fun s run => (s.accept e.space run.1 run.2.length (.write run.2) e.emit).2) s

/-- The retirement of the issuing group's task (R343, R350). -/
def retireTask (s : State) (scope : Nat) (discard : Bool) : State :=
  let g := s.g
  match g.task with
  | none => s
  | some t =>
    let s := s.modG fun g => { g with task := none }
    match t.stage with
    | some r => if discard then s.returnBatch g.core.die g.ctx r else s.applyOutcomes g.core.die g.ctx t r
    | none =>
      if discard then s
      else
        let s := t.buffer.foldl commitEntry s
        s.completeTask (s.ownPending s.g scope 63) t

/-- The end of the issuing group (R89, R99). A task retires as TEND.die would, once its commands have completed (R350). -/
def finishGroup (s : State) : State :=
  if s.g.task.isSome then
    if s.g.ec ≠ 0 then s.waitOn (.ewt 0) else (s.retireTask 4 false).endGroup
  else s.endGroup

/-- Whether the ready queue and the sets have room for what a task's commit inserts; a commit waits for it (log entry 24). -/
def commitRoom (s : State) (g : Group) (t : Task) : Bool :=
  let u := s.taskUnit g.core.die g.ctx
  let spawns := (t.buffer.filter (·.kind == 3)).length
  (spawns = 0 || u.spawned.length + spawns ≤ 4096)
    && u.sets.all fun x =>
      let n := (t.buffer.filter fun e => e.kind == 4 && e.set == x.k).length
      n = 0 || x.inFlight + n ≤ x.maxrec

/-- Whether a task's commit meets an entry that holds poisoned data (R335). -/
def commitsBad (t : Task) : Bool :=
  t.buffer.any fun e => e.bad && (match t.stage with
    | some r => passes r e.lane
    | none => true)

/-- A commit has met poisoned data: the attempt is retried, and the last extra attempt takes cause 0x0C (R335). TVAL is free there: the
entry has no load of its own (log entry 40). -/
def commitPoison (s : State) : State :=
  if retries s.g then s.retryTask s.g.gid
  else
    let (va, s) := s.freeValue
    s.trapHere 0x0C (some va) none

/-- What a task waits for and checks before it retires (R335, R346, R350); `k` goes on. -/
def beforeRetiring (s : State) (t : Task) (discard : Bool) (k : State → State) : State :=
  if s.g.ec ≠ 0 then s.waitOn (.ewt 0)
  else if !discard && commitsBad t then s.commitPoison
  else match t.stage with
    | some r => if !discard && s.areaOverflows s.g then s.slalomTrap r.set 0x05 else k s
    | none => if discard || s.commitRoom s.g t then k s else s.waitOn .room

/-- A suspension goes ahead: the lowest free record slot is taken (log entry 94, DESIGN CHOICE) and the trailer will write it; without a free
slot the instruction waits (R333). The
slot after the trailer is one that a resumption enters, so TSUS is the transferring instruction of R35: a clear TGT bit takes cause 0x04 here,
with no record written, and `resumeTask` has the bit checked again (log entry 41, DEDUCED: R35 names no instruction for a resumption). -/
def suspend (s : State) (kind waddr : Nat) (target : DWord) (pin : Bool) (nv : Nat) : State :=
  let g := s.g
  let u := s.taskUnit g.core.die g.ctx
  s.withTarget s.nextPc fun s =>
    match (List.range u.areaSlots).find? fun k => !(u.contins.any (·.slot == k)) with
    | none => s.waitOn .room
    | some slot =>
      (s.modTaskUnit g.core.die g.ctx fun u => { u with
        contins := u.contins ++ [⟨slot, g.gid, kind, waddr, target, pin || kind == 1, g.core, nv, false⟩] }).retireTail (.tsus kind slot nv)

end State

/-- TSPN (R329, R348). -/
def execTspn (f : Fields) (s : State) : Out :=
  .next (s.issue (.tspn f) f true false fun s _ => s.notInStage fun s =>
    let g := s.g
    let d := f.d.toNat
    let n := (g.sget (d + 4)).toNat
    let c := g.sget (d + 5)
    if n = 0 || 96 < n || !s.counterOk g.core c then s.engineTrap 0x30 0xFF
    else match g.task with
      | some t =>
        s.growBuffer (t.buffer ++ [⟨3, 0xFF, 0, 0, .scr g.core, 0, false, [], 0, .n8, 0, (List.range 6).map fun i => g.sget (d + i),
          false, false, none⟩])
          fun s => s.retire (.tspn f)
      | none =>
        if s.commandHeld g then s
        else if 4096 ≤ (s.taskUnit g.core.die g.ctx).spawned.length then s.waitOn .room
        else
          let (id, s) := s.newTaskId g.core.die g.ctx g.launch.launch
          let (born, s) := s.fresh
          let t : Spawn := ⟨id, g.sval true d, g.sval true (d + 2), n, g.core, c, 0, [], { g.launch with groups := 1 }, g.part, born⟩
          (s.modTaskUnit g.core.die g.ctx fun u => { u with spawned := u.spawned ++ [t] }).retire (.tspn f))

/-- TSUS (R333, R349). -/
def execTsus (f : Fields) (s : State) : Out :=
  .next (s.issue (.tsus f) f true false fun s _ =>
    let g := s.g
    let nv := (f.x.extractLsb' 0 5).toNat
    let pin := f.sub.getLsbD 2
    let d := f.d.toNat
    if g.task.isNone then s.engineTrap 0x33 0xFF
    else if State.depth g != 0 || g.em != g.live || g.launch.vregs ≤ nv then s.engineTrap 0x31 0xFF
    else if f.sub.extractLsb' 0 2 = 0#2 then
      if g.ec = 0 then s.retireTail .none else s.suspend 0 0 0 pin nv
    else
      let kind := (f.sub.extractLsb' 0 2).toNat
      let target := g.sval true d
      let a := (g.sget (d + 2)).setWidth 64
      match s.checkAccess g (if kind = 1 then .scr else .vlt) .load true 8 a with
      | .error (0x07, lv) => s.reportOnce .load a 0x07 lv
      | .error _ => s.engineTrap 0x34 0xFF
      | .ok loc =>
        if s.stalls true 8 [loc] then s
        else if State.reached (BitVec.ofNat 64 (leNat (s.viewBytes g.core g.gid true loc.space loc.off 8))) target then s.retireTail .none
        else s.suspend kind a.toNat target pin nv)

/-- TEND (R343, R346, R350). -/
def execTend (f : Fields) (s : State) : Out :=
  .next (s.issue (.tend f) f true false fun s _ =>
    let discard := f.sub.getLsbD 4
    match s.g.task with
    | none => s.engineTrap 0x33 0xFF
    | some t => s.beforeRetiring t discard fun s => s.retireTail (.tend (f.sub.extractLsb' 0 4).toNat discard))

/-- EXIT (R99). When it leaves a task with no live lane, the task's retirement is checked here: the room of a stage task's side effects
before anything else, and then what TEND checks (R350). -/
def execExit (f : Fields) (s : State) : Out :=
  .next (s.issue (.exit f) f true false fun s _ =>
    let x := State.exitLanes s.g f
    let go (s : State) : State := s.retireTail (.exit x)
    match s.g.task with
    | some t =>
      if (s.g.live &&& ~~~x) ≠ 0 then go s
      else if s.areaOverflows s.g then s.slalomTrap ((t.stage.map (·.set)).getD 0) 0x05
      else s.beforeRetiring t false go
    | none => go s)

/-- TASK_START (R326): the task unit of a die starts what comes first. -/
def execTaskStart (die : Nat) (s : State) : Out :=
  .next (match State.firstChoice (fun u : TaskUnit => if u.die = die then s.startNext u else none) s.tasks with
    | some (_, t) => t
    | none => s)

/-- CONTINUATION_READY (R334): the condition of the record in slot `k` holds. -/
def execContinuationReady (die k : Nat) (s : State) : Out :=
  .next ({ s with tasks := s.tasks.map fun u =>
    if u.die ≠ die then u
    else match u.contins.find? fun c => c.slot == k && !c.ready with
      | some c =>
        let away := match s.group? c.gid with
          | some g => g.wait == Wait.suspended
          | none => false
        if away && s.continHolds die u.ctx c then
          { u with contins := u.contins.filter (·.slot != k) ++ [{ c with ready := true }] }
        else u
      | none => u })

/-- WRITE_PERFORMED (R230): an access of the store path is performed, and the completion additions that waited for it follow (R332). -/
def execWritePerformed (k : Nat) (s : State) : Out :=
  .next (match s.stores.find? (·.id == k) with
    | none => s
    | some p =>
      if !s.canPerform p then s
      else
        let s := s.perform p
        s.tasks.foldl (fun s u =>
          let due := u.completions.filter fun c => !(c.needs.any s.outstanding)
          if due.isEmpty then s
          else
            let s := s.modTaskUnit u.die u.ctx fun u => { u with completions := u.completions.filter fun c => c.needs.any s.outstanding }
            due.foldl (fun s c => s.addCounter c.core c.ctx c.counter 1) s) s)

end Sys2Proof.Machine
end

