-- ==== Sys2Proof/Machine/Frames.lean ====
section
/-! DEFINITION. The images that a context frame holds while a context, or a parked group, is out of its core: what is written as it
leaves, what follows its changes while it is out, and what is read back (R86, R212, R284, R313, R377 to R385, R387, Tables 9-6, 10-3, 13-3
to 13-5, log entry 13). -/

namespace Sys2Proof.Machine

namespace State

/-- KSTAT of a group (Table 13-2). -/
def kstat (g : Group) : Word :=
  let t := g.trapState
  BitVec.ofBool t.mode ++ BitVec.ofBool t.pmode ++ BitVec.ofBool t.tip ++ BitVec.ofBool g.signal.isSome
    ++ BitVec.ofBool g.task.isSome ++ BitVec.ofBool ((g.task.bind (·.stage)).isSome) ++ (BitVec.ofNat 6 g.slot) ++ 0#13 ++ g.flags

/-- The six hop bitmaps that SCOPETAB names (R377). -/
def hopsAt (s : State) (scopetab : DWord) : List (BitVec 2304) :=
  let base := (scopetab.extractLsb' 11 41).toNat * 2048
  (List.range 6).map fun n => BitVec.ofNat 2304 (s.wordAt .pool (base + 288 * n) 288)

/-! ## Blocks of pool memory -/

/-- The cells of a sorted list that lie at `a` and the `n - 1` addresses above it. -/
def spread : Nat → Nat → List (Nat × Byte) → List (Option Byte)
  | 0, _, _ => []
  | n + 1, a, [] => none :: spread n (a + 1) []
  | n + 1, a, (k, b) :: cs => if k = a then some b :: spread n (a + 1) cs else none :: spread n (a + 1) ((k, b) :: cs)

/-- A block of the pool as it stands at home, read in one pass. -/
def blockAt (s : State) (lo n : Nat) : List Byte :=
  let inside (c : Nat × Byte) : Bool := lo ≤ c.1 && c.1 < lo + n
  List.zipWith (fun d m => (d.or m).getD 0) (spread n lo (s.l2.filter inside)) (spread n lo (s.mem.filter inside))

/-- A block of the pool written at its home in one pass (R207). -/
def putBlock (s : State) (lo : Nat) (bs : List Byte) : State :=
  let n := bs.length
  { s with
    poison := s.poison.filter fun k => k < lo || lo + n ≤ k
    stale := cutRange s.stale lo n
    l2 := s.l2.filter (·.1 < lo) ++ List.zip (List.range' lo n) bs ++ s.l2.filter (lo + n ≤ ·.1) }

/-- The bytes of a block that differ between two images are written. -/
def patch (s : State) : Nat → List Byte → List Byte → State
  | lo, x :: xs, y :: ys => (if x = y then s else s.putByte .pool lo y).patch (lo + 1) xs ys
  | _, _, _ => s

/-- An image of `n` bytes from segments in ascending order, with zeros between them; `at_` bytes are laid already. -/
def layout (n : Nat) : Nat → List (Nat × List Byte) → List Byte
  | at_, [] => List.replicate (n - at_) 0
  | at_, (o, bs) :: rest => List.replicate (o - at_) 0 ++ bs ++ layout n (o + bs.length) rest

/-! ## Group records (Table 13-5) -/

/-- A poison mask of a V register. -/
def markMask (g : Group) (r : Nat) : Mask := g.marks.foldl (fun m k => if k.reg == r then m ||| ((1 : Mask) <<< k.lane) else m) 0

/-- The status byte of a group record. -/
def statusByte (g : Group) : Nat :=
  (if g.signal.isSome then 1 else 0) + (if g.wait == Wait.halted then 2 else 0) + (if g.wait == Wait.parked then 4 else 0)
    + (if g.badSave then 8 else 0)

/-- The wait kind and operand of a record, which the table does not number (log entry 13). -/
def waitCode (w : Wait) : Nat × Nat :=
  match w with
  | .ready => (0, 0)
  | .bar k => (1, k)
  | .nbar b => (2, b)
  | .fwt (some t) => (3, t.toNat)
  | .fwt none => (3, 2 ^ 32)
  | .fnc => (4, 0)
  | .wtctScr _ t => (5, t.toNat)
  | .wtctQ _ t => (6, t.toNat)
  | .waitt t => (7, t)
  | .yld t => (8, t)
  | .hlt => (9, 0)
  | .ewt n => (10, n)
  | .ec => (11, 0)
  | .drain _ => (12, 0)
  | .step => (13, 0)
  | .room => (14, 0)
  | .journal => (15, 0)
  | .parked => (16, 0)
  | .suspended => (17, 0)
  | .halted => (18, 0)
  | .ended => (19, 0)

/-- The contribution to the oldest step that is not done (R180). -/
def openPost (g : Group) : Option StepPost := g.posts.reverse.find? fun p => !p.done

/-- The segments of a group's record (Table 13-5). Fields that the table lists in one row stand in its order without gaps (log entry 13). -/
def groupSegs (g : Group) : List (Nat × List Byte) :=
  let t := g.trapState
  let w := waitCode g.wait
  [ (0x0000, (List.range 64).flatMap fun i => leBytes 4 (g.sget i).toNat),
    (0x0100, (List.range 12).flatMap fun i => leBytes 16 (g.pget i).toNat),
    (0x01C0, leBytes 16 g.live.toNat),
    (0x01D0, leBytes 8 g.pc.toNat),
    (0x01D8, leBytes 4 (g.fmt.toNat + 65536 * (depth g % 2048))),
    (0x01DC, leBytes 4 (kstat g).toNat),
    (0x01E0, leBytes 4 g.fc.toNat ++ leBytes 4 g.fd.toNat ++ leBytes 4 g.cstep ++ leBytes 1 g.ec
      ++ leBytes 1 ((g.stroke.map (·.pos)).getD 0) ++ leBytes 1 w.1 ++ leBytes 1 (statusByte g)),
    (0x01F0, leBytes 8 ((g.signal.getD 0).toNat) ++ leBytes 8 w.2),
    (0x0200, leBytes 8 t.tepc.toNat ++ leBytes 4 t.tcause.toNat ++ leBytes 8 t.tval.toNat ++ leBytes 12 t.tlane.toNat
      ++ leBytes 12 t.saved.em.toNat ++ leBytes 2 t.saved.fmt.toNat ++ leBytes 2 t.saved.depth),
    (0x0240, (t.saved.s56.take 4).flatMap fun w => leBytes 4 w.toNat),
    (0x0250, (g.bars.take 8).flatMap fun b => leBytes 4 (b.phase % 2 ^ 31 + if b.arrived then 2 ^ 31 else 0)),
    (0x0280, (g.stack.take 16).flatMap entryBytes),
    (0x0500, (List.range 256).flatMap fun r => leBytes 12 (markMask g r).toNat),
    (0x1100, match g.park with
      | some p => leBytes 2 p.tag.toNat ++ leBytes 8 p.pc.toNat ++ leBytes 1 (if p.replay then 1 else 0)
      | none => []),
    (0x1200, match openPost g with
      | some p => (p.vals.take 96).flatMap fun x => leBytes 8 x.toNat
      | none => []),
    (0x2000, (List.range 8).flatMap fun k => lanes.flatMap fun l => leBytes 8 (Group.Temp.val (g.temp k) l).toNat),
    (0x4000, match g.task with
      | some t => ((recordEntries t.buffer).take 128).flatMap bufferImage
      | none => []) ]

/-- A group's record. -/
def groupImage (g : Group) : List Byte := layout 32768 0 (groupSegs g)

/-- The V registers of a group, register by register and lane by lane (log entry 13). -/
def regImage (g : Group) : List Byte := g.v.flatMap fun r => r.flatMap fun x => leBytes 4 x.toNat

/-- A write buffer entry from its bytes (Table 11-2): the space, the EMIT bit and the shape of a spawn, which they do not hold, are those of the
entry that stood there, else the pool's, or the vault's of the die (log entry 13). -/
def entryFrom (g : Group) (old : Option BufEntry) (bs : List Byte) : BufEntry :=
  let w (o n : Nat) : Nat := leNat ((bs.drop o).take n)
  let kind := w 16 1
  let data := bs.drop 64
  { kind := kind, lane := w 17 1, set := w 18 1 % 16, stage := w 18 1 / 16
    space := (old.map (·.space)).getD (if kind = 1 then .vlt g.core.die 0 else .pool)
    off := w 0 8
    emit := (old.map (·.emit)).getD false
    bytes := if kind ≤ 1 then (List.range 64).map fun i => if (w 8 8).testBit i then data[i]? else none else []
    op := if kind = 2 then w 19 1 % 16 - 1 else 0
    ty := if kind = 2 then Ty.ofBits (BitVec.ofNat 4 (w 19 1 / 16)) else .n8
    data := if kind = 2 || kind = 4 then BitVec.ofNat 64 (leNat (data.take 8)) else 0
    words := if kind = 3 then (List.range 6).map fun i => BitVec.ofNat 32 (leNat ((data.drop (4 * i)).take 4)) else []
    bad := (old.map (·.bad)).getD false
    cont := false
    slot := none }

/-- The write buffer of a task as its area, which the device kernel may have rewritten, gives it (R379, Table 13-5). -/
def readBuffer (g : Group) (img : List Byte) (es : List BufEntry) : List BufEntry :=
  let old := recordEntries es
  if img == layout 16384 0 [(0, (old.take 128).flatMap bufferImage)] then es
  else (List.range 128).filterMap fun i =>
    let bs := (img.drop (128 * i)).take 128
    match old[i]? with
    | some e => if bs == bufferImage e then some e else if bs.all (· == 0) then none else some (entryFrom g (some e) bs)
    | none => if bs.all (· == 0) then none else some (entryFrom g none bs)

/-- What a group takes from its record and its register image at a restore: every field, as the device kernel may have rewritten it (R374,
R379, R383). What a field does not hold whole, the kinds of temporaries and waits and the addresses of marks, is kept while the field is
unchanged; a rewritten wait leaves the group ready (log entry 13). -/
def readRecord (img regs : List Byte) (g : Group) : Group :=
  let old := groupImage g
  let seg (o n : Nat) : List Byte := (img.drop o).take n
  let same (o n : Nat) : Bool := seg o n == (old.drop o).take n
  let w (o n : Nat) : Nat := leNat (seg o n)
  let k : Word := BitVec.ofNat 32 (w 0x1DC 4)
  let pc : DWord := BitVec.ofNat 64 (w 0x1D0 8)
  let live : Mask := BitVec.ofNat 96 (w 0x1C0 16)
  let status := w 0x1EF 1
  let depth := w 0x1DA 2 % 2048
  let wait :=
    if g.wait == .halted then (if status / 2 % 2 = 0 then .ready else g.wait)
    else if g.wait == .parked then (if status / 4 % 2 = 0 then .ready else g.wait)
    else if same 0x1EE 1 && same 0x1F8 8 then g.wait else .ready
  let temp (i : Nat) (t : Temp) : Temp :=
    if same (0x2000 + 768 * i) 768 then t
    else .vec (lanes.map fun l => BitVec.ofNat 64 (w (0x2000 + 768 * i + 8 * l) 8)) []
  let stroke := (if pc = g.pc then g.stroke else none).map fun st =>
    { st with
      pos := if same 0x1ED 1 then st.pos else w 0x1ED 1
      temps := (List.range (max st.temps.length (if same 0x2000 6144 then 0 else 8))).map fun i => temp i (st.temps.getD i .none) }
  let marks := (List.range 256).flatMap fun r =>
    let m : Mask := BitVec.ofNat 96 (w (0x500 + 12 * r) 12)
    (lanesOf m).map fun l => (g.marks.find? fun x => x.reg == r && x.lane == l).getD ⟨r, l, 0⟩
  let post (p : StepPost) : StepPost :=
    if some p == openPost g && !same 0x1200 768 then { p with vals := (List.range 96).map fun i => BitVec.ofNat 64 (w (0x1200 + 8 * i) 8) }
    else p
  { g with
    v := if regs.isEmpty then g.v else (List.range g.v.length).map fun r =>
      lanes.map fun l => BitVec.ofNat 32 (leNat ((regs.drop (384 * r + 4 * l)).take 4))
    s := (List.range 60).map fun i => BitVec.ofNat 32 (w (4 * i) 4)
    em := (BitVec.ofNat 96 (w 0xF0 12)) &&& live
    live := live
    p := (List.range 12).map fun i => BitVec.ofNat 96 (w (0x100 + 16 * i) 16)
    pc := pc
    stroke := stroke
    stack := (List.range (min 16 depth)).map fun i => entryOf (seg (0x280 + 40 * i) 40)
    spilled := depth - min 16 depth
    wait := wait
    park := if g.wait == .parked && wait != .parked then none else g.park.map fun p =>
      { p with tag := BitVec.ofNat 16 (w 0x1100 2), pc := BitVec.ofNat 64 (w 0x1102 8), replay := w 0x110A 1 == 1 }
    task := g.task.map fun t => { t with buffer := readBuffer g (seg 0x4000 16384) t.buffer }
    fmt := fmtOf (w 0x1D8 2)
    flags := k.extractLsb' 0 7
    fc := BitVec.ofNat 32 (w 0x1E0 4)
    fd := BitVec.ofNat 32 (w 0x1E4 4)
    cstep := w 0x1E8 4
    ec := w 0x1EC 1
    signal := if status % 2 = 1 then some (BitVec.ofNat 32 (w 0x1F0 4)) else none
    badSave := status / 8 % 2 == 1
    bars := (List.range 8).map fun i =>
      let b := g.bars.getD i ⟨false, 0, [], [], none⟩
      if same (0x250 + 4 * i) 4 then b
      else { b with phase := w (0x250 + 4 * i) 4 % 2 ^ 31, arrived := 2 ^ 31 ≤ w (0x250 + 4 * i) 4 }
    marks := marks ++ g.marks.filter (256 ≤ ·.reg)
    posts := g.posts.map post
    trapState :=
      { mode := k.getLsbD 31, pmode := k.getLsbD 30, tip := k.getLsbD 29
        tepc := BitVec.ofNat 64 (w 0x200 8), tcause := BitVec.ofNat 32 (w 0x208 4) &&& 0x1FF, tval := BitVec.ofNat 64 (w 0x20C 8)
        tlane := BitVec.ofNat 96 (w 0x214 12)
        saved := { g.trapState.saved with
          em := BitVec.ofNat 96 (w 0x220 12), fmt := fmtOf (w 0x22C 2), depth := w 0x22E 2
          s56 := (List.range 4).map fun i => BitVec.ofNat 32 (w (0x240 + 4 * i) 4) } } }

/-! ## Where a saved group stands -/

def recordAt (frame k : Nat) : Nat := frame + 0x40000 + 32768 * k

/-- The groups of a context on a core whose saved state stands in the frame. -/
def savedGroups (s : State) (core : CoreId) (ctx : BitVec 32) : List Group :=
  s.groups.filter fun g => g.core == core && g.ctx == ctx && g.rec_.isSome

/-- A group record number that neither a saved group nor a slot in use has. -/
def freeRecord (s : State) (core : CoreId) (ctx : BitVec 32) : Option Nat :=
  (List.range 64).find? fun k => !((s.savedGroups core ctx).any (·.rec_ == some k)) && !((s.residents core ctx).any (·.slot == k))

/-- Where in the register image a group's V registers find room, clear of the other saved groups' (log entry 13). -/
def freeRegs (s : State) (g : Group) : Option Nat :=
  let others := (s.savedGroups g.core g.ctx).filterMap fun x => if x.gid == g.gid then none else x.vbase.map fun b => (b, 384 * x.v.length)
  let n := 384 * g.v.length
  (0 :: others.map fun x => x.1 + x.2).find? fun b =>
    b + n ≤ (s.coreAt g.core).split.regs * 262144 && !(others.any fun x => overlaps b n x.1 x.2)

/-- The entries of a group's stack that stand in the frame, newest first. -/
def spilledEntries (s : State) (frame : Nat) (g : Group) (n : Nat) : List StackEntry :=
  (List.range n).map fun i => entryOf (s.bytesAt .pool (spillAt frame g (g.spilled - 1 - i)) 40)

/-- The record of a saved group is written, with its V registers in the register image. -/
def writeGroup (s : State) (gid : Nat) : State :=
  match s.group? gid with
  | none => s
  | some g =>
    match s.frameOf g.core g.ctx, g.rec_ with
    | some f, some k =>
      let s := s.putBlock (recordAt f k) (groupImage g)
      match g.vbase with
      | some b => s.putBlock (f + 0x4C0000 + b) (regImage g)
      | none => s
    | _, _ => s

/-- The spilled stack entries of a group go from its area to the area of another number (R212). -/
def moveStack (s : State) (g : Group) (frame toFrame slot : Nat) : State :=
  if g.spilled = 0 then s
  else s.putBlock (toFrame + 0x240000 + 40960 * slot) (s.blockAt (spillAt frame g 0) (40 * g.spilled))

/-- A parked group gives up its record number to the group in that slot: its record moves to a free number, or, when none is left, its state
stays in the machine alone (log entry 13). -/
def displace (s : State) (gid : Nat) : State :=
  match s.group? gid with
  | none => s
  | some g =>
    match s.frameOf g.core g.ctx with
    | none => s
    | some f =>
      match s.freeRecord g.core g.ctx with
      | some k => ((s.moveStack g f f k).modGroup gid fun g => { g with rec_ := some k }).writeGroup gid
      | none =>
        let es := s.spilledEntries f g g.spilled
        s.modGroup gid fun g => { g with rec_ := none, vbase := none, stack := g.stack ++ es, spilled := 0 }

/-- The saved groups whose records and spill areas stand at a slot of a core that a group is about to take give them up (R86, R212). -/
def vacate (s : State) (core : CoreId) (ctx : BitVec 32) (slot gid : Nat) : State :=
  ((s.savedGroups core ctx).filter fun x => x.rec_ == some slot && x.gid != gid).foldl (fun s x => s.displace x.gid) s

/-- A group's state is saved to its frame (R212, R380): a record, with the top 16 entries of its stack, and its V registers. -/
def saveGroup (s : State) (gid : Nat) : State :=
  match s.group? gid with
  | none => s
  | some g =>
    match s.frameOf g.core g.ctx with
    | none => s
    | some f =>
      let s := s.vacate g.core g.ctx g.slot gid
      let n := min (16 - g.stack.length) g.spilled
      let more := s.spilledEntries f g n
      let base := s.freeRegs g
      (s.modGroup gid fun g => { g with
        rec_ := some g.slot, vbase := base, stack := g.stack ++ more, spilled := g.spilled - n }).writeGroup gid

/-- A group whose saved state stands in the frame comes back from it. -/
def restoreGroup (s : State) (gid : Nat) : State :=
  match s.group? gid with
  | none => s
  | some g =>
    match s.frameOf g.core g.ctx, g.rec_ with
    | some f, some k =>
      let img := s.blockAt (recordAt f k) 32768
      let regs := match g.vbase with
        | some b => s.blockAt (f + 0x4C0000 + b) (384 * g.v.length)
        | none => []
      s.modGroup gid fun g =>
        let g := readRecord img regs g
        { g with rec_ := if g.wait == .parked then g.rec_ else none, vbase := if g.wait == .parked then g.vbase else none }
    | _, _ => s

/-- A group that is back in the core takes a slot, and its stack the area of that slot (R212). -/
def settleSlot (s : State) (gid slot : Nat) : State :=
  match s.group? gid with
  | none => s
  | some g =>
    let s := s.vacate g.core g.ctx slot gid
    let s := match s.frameOf g.core g.ctx with
      | some f => if g.rec_.getD g.slot = slot then s else s.moveStack g f f slot
      | none => s
    s.modGroup gid fun g => { g with slot := slot, rec_ := none, vbase := none }

/-! ## Queues, workgroups, sequencers and commands -/

/-- The state record of a queue and its subscriptions (Table 10-3). -/
def queueRecord (x : Queue) : List Byte :=
  let state : Nat := match x.state with
    | .unconfigured => 0 | .load => 1 | .store => 2 | .error => 3
  let head : BitVec 512 := (BitVec.ofNat 64 x.wp) ++ (BitVec.ofNat 64 x.gp) ++ (BitVec.ofNat 64 x.send) ++ (BitVec.ofNat 32 x.rowd)
    ++ 0#24 ++ (BitVec.ofNat 8 x.err) ++ (BitVec.ofNat 64 x.eaddr) ++ 0#24 ++ (BitVec.ofNat 8 x.subs.length) ++ (BitVec.ofNat 8 state)
    ++ 0#79 ++ (BitVec.ofNat 9 x.ns) ++ 0#15 ++ (BitVec.ofNat 17 x.ss) ++ 0#9 ++ (BitVec.ofNat 23 x.rb)
  let sub (u : Subscription) : List Byte :=
    leBytes 8 u.base.toNat ++ leBytes 8 (u.stride % 2 ^ 64).toNat ++ leBytes 4 u.rowBytes ++ leBytes 4 u.rows ++ leBytes 8 0
  layout 384 0 [(0, leBytes 64 head.toNat), (64, (x.subs.take 8).flatMap sub)]

/-- Starts of subscriptions that fill a stream up to SEND. -/
def startsFrom (send : Nat) : List Subscription → List Subscription
  | [] => []
  | u :: us =>
    let rest := startsFrom send us
    let after := (rest.head?.map (·.start)).getD send
    { u with start := after - u.rowBytes * u.rows } :: rest

/-- A queue as its record, which the device kernel may have rewritten, gives it (R313, R383). -/
def readQueue (img : List Byte) (x : Queue) : Queue :=
  if img == queueRecord x then x
  else
    let h : BitVec 512 := BitVec.ofNat 512 (leNat (img.take 64))
    let f (lo n : Nat) : Nat := (h.extractLsb' lo n).toNat
    let sub (i : Nat) : Subscription :=
      let b := (img.drop (64 + 32 * i)).take 32
      ⟨BitVec.ofNat 64 (leNat (b.take 8)), leNat ((b.drop 16).take 4), leNat ((b.drop 20).take 4),
        (BitVec.ofNat 64 (leNat ((b.drop 8).take 8)) : DWord).toInt, 0, ((x.subs[i]?).map (·.super)).getD false⟩
    { x with
      state := match f 152 8 with
        | 1 => .load | 2 => .store | 3 => .error | _ => .unconfigured
      wasLoad := match f 152 8 with
        | 1 => true | 2 => false | _ => x.wasLoad
      wp := f 448 64, gp := f 384 64, send := f 320 64, rowd := f 288 32, err := f 256 8, eaddr := f 192 64
      rb := f 0 23, ss := f 32 17, ns := f 64 9
      subs := startsFrom (f 320 64) ((List.range (min 8 (f 160 8))).map sub) }

/-- An entry of the pending fault table (R387): the slot of the group, or of a command's group, the number of the queue, of the quad, of the
sequencer context or of the Slalom set that waits (log entry 13). -/
def tagRecord (s : State) (t : FaultTag) : List Byte :=
  let slotOf (gid : Nat) : Nat := ((s.group? gid).map (·.slot)).getD 0
  let who : Nat := match t.owner with
    | .group gid => slotOf gid
    | .queue _ q => q
    | .command id => ((s.fabric.commands.find? (·.id == id)).map fun c => slotOf c.gid).getD 0
    | .engine q _ => q.quad
    | .sequencer wid => ((s.wgOf wid).seq.map (·.ctxNo)).getD 0
    | .slalom _ _ k => k
  let replay : Bool := match t.owner with
    | .group gid => (((s.group? gid).bind (·.park)).map (·.replay)).getD false
    | _ => false
  leBytes 32 (t.tag.toNat + 2 ^ 16 * (t.replies % 256) + 2 ^ 24 * (t.npg % 256) + 2 ^ 32 * (t.status % 16) + 2 ^ 40 * (who % 256) + (if replay then 2 ^ 48 else 0))

/-- The first 32 bytes of a progress record: the reservation entry of Table 9-5, the fault it recorded, and its address (R284). -/
def progressHead (e : EngEntry) : BitVec 256 :=
  let state : Nat := match e.state with
    | .waiting => 1 | .eligible => 2 | .running => 3 | .faulted => 4 | .preempted => 5 | .done => 6 | .aborted => 7
  let mode : Nat := match e.mode with
    | .bb => 0 | .bq => 1 | .bf => 2 | .bi => 3
  let entry : BitVec 128 := 0#8 ++ BitVec.ofNat 12 e.kdone ++ BitVec.ofNat 4 state ++ BitVec.ofNat 5 e.passed ++ BitVec.ofBool e.boost
    ++ BitVec.ofNat 2 e.pri ++ BitVec.ofNat 32 e.age ++ BitVec.ofNat 4 e.seqNo ++ 0#4 ++ BitVec.ofNat 2 mode ++ BitVec.ofNat 2 e.op
    ++ BitVec.ofNat 2 e.zc ++ BitVec.ofNat 6 e.zt ++ BitVec.ofNat 12 e.k ++ BitVec.ofNat 8 e.n ++ BitVec.ofNat 8 e.m
    ++ (if e.state == .faulted then e.ftag else 0#16)
  let err := e.err.getD (0, 0xFF, 0)
  BitVec.ofNat 64 err.2.2 ++ 0#32 ++ BitVec.ofNat 8 err.2.1 ++ 0#16 ++ BitVec.ofNat 8 err.1 ++ entry

/-- A 64-bit word of a progress record (R284). -/
def progressWord (e : EngEntry) (k : Nat) : DWord :=
  if k < 4 then (progressHead e).extractLsb' (64 * k) 64
  else if k < 20 then e.tsrA.extractLsb' (64 * (k - 4)) 64
  else e.tsrB.extractLsb' (64 * (k - 20)) 64

/-- The wait word of a sequencer (Table 9-6). -/
def seqWaitWord (q : Sequencer) : Nat :=
  (match q.wait with
    | .bwai b => 1 + 16 * b
    | .ordy => 2
    | .mwt _ => 3
    | .read .. => 4
    | .bendWait | .ended => 5
    | .none | .faulted => 0) + 256 * q.sflg.toNat

/-- The Burin area of one sequencer context with its entries, oldest first (Table 9-6). -/
def burinImage (q : Sequencer) (es : List EngEntry) : List Byte :=
  layout 3584 0
    [ (0x000, (q.y.take 16).flatMap fun y => leBytes 8 y.toNat),
      (0x080, (q.d.take 8).flatMap fun d => leBytes 128 d.toNat),
      (0x480, leBytes 8 q.pc.toNat),
      (0x488, leBytes 8 (seqWaitWord q)),
      (0x500, (es.take 8).flatMap fun e => (List.range 36).flatMap fun k => leBytes 8 (progressWord e k).toNat) ]

/-- A sequencer as its area, which the device kernel may have rewritten, gives it (R282, R284); a rewritten wait leaves it free to go on. -/
def readBurin (img : List Byte) (es : List EngEntry) (q : Sequencer) : Sequencer :=
  let old := burinImage q es
  let w (o n : Nat) : Nat := leNat ((img.drop o).take n)
  let same := (img.drop 0x488).take 8 == (old.drop 0x488).take 8
  { q with
    y := (List.range 16).map fun i => BitVec.ofNat 64 (w (8 * i) 8)
    d := (List.range 8).map fun i => BitVec.ofNat 1024 (w (0x80 + 128 * i) 128)
    pc := BitVec.ofNat 64 (w 0x480 8)
    sflg := BitVec.ofNat 7 (w 0x489 1)
    wait := if same then q.wait else .none }

/-- The workgroups of a context with groups on a core, which has records for 64 of them (Table 13-3). -/
def coreWgs (s : State) (core : CoreId) (ctx : BitVec 32) : List Workgroup :=
  (s.workgroups.filter fun w => w.wid != 0 && w.ctx == ctx && w.cores.contains core
    && s.groups.any fun g => g.wid == w.wid && g.core == core && g.wait != Wait.ended).take 64

/-- A workgroup record (R383); its fields stand in the order in which the rule lists them (log entry 13). -/
def wgRecord (s : State) (core : CoreId) (w : Workgroup) : List Byte :=
  let gs := s.groups.filter fun g => g.wid == w.wid && g.core == core && g.wait != Wait.ended
  let first := gs.foldl (fun m g => min m g.slot) 64
  let phases := ((gs.head?).map (·.bars)).getD []
  layout 256 0
    [ (0, w.coords.flatMap fun c => leBytes 4 c.toNat),
      (12, leBytes 2 first ++ leBytes 2 gs.length),
      (16, (w.nbars.take 16).flatMap fun b => leBytes 4 (b.count + 128 * b.expect + if b.seq.isSome then 2 ^ 14 else 0)),
      (80, (phases.take 8).flatMap fun b => leBytes 4 (b.phase % 2 ^ 31)) ]

/-- The progress of a command (R313): identifier, bytes moved and written; 64 of them stand in the frame (log entry 13). -/
def commandRecord (c : Command) : List Byte := leBytes 8 c.id ++ leBytes 8 c.progress ++ leBytes 8 c.written ++ List.replicate 40 0

/-- The commands of a context on a core. -/
def coreCommands (s : State) (core : CoreId) (ctx : BitVec 32) : List Command :=
  (s.fabric.commands.filter fun c => c.core == core && c.ctx == ctx).take 64

/-- Whether a workgroup has a group that has not ended, and with it its sequencer context (R26, R260). -/
def seqInUse (s : State) (w : Workgroup) : Bool := w.members.any fun gid => ((s.group? gid).map (·.wait != Wait.ended)).getD false

/-- The quad position 0 of a core's quad, whose frame holds the Burin area (Table 13-3). -/
def burinHome (core : CoreId) : CoreId := ⟨core.die, core.core / 4 * 4⟩

/-- The sequencers of a context on a quad: workgroup, core that starts it, sequencer and operations. -/
def quadSeqs (s : State) (core : CoreId) (ctx : BitVec 32) : List (Nat × CoreId × Sequencer × List EngEntry) :=
  s.workgroups.filterMap fun w =>
    if w.wid != 0 && w.ctx == ctx && w.first.die == core.die && w.first.core / 4 == core.core / 4 && s.seqInUse w then
      w.seq.map fun q => (w.wid, w.first, q, s.allEntries ⟨core.die, core.core / 4⟩ w.wid)
    else none

/-- What a core that its context leaves writes of the Burin area: the contexts of its own workgroups' sequencers, and zeros where no sequencer of
the quad has the context (R282, R284). -/
def burinImages (s : State) (core : CoreId) (ctx : BitVec 32) : List (Nat × List Byte) :=
  (List.range 16).filterMap fun k => match (s.quadSeqs core ctx).find? fun x => x.2.2.1.ctxNo == k with
    | some x => if x.2.1 == core then some (0x10000 + 3584 * k, burinImage x.2.2.1 x.2.2.2) else none
    | none => some (0x10000 + 3584 * k, List.replicate 3584 0)

/-- The images of a frame but for its header, its group records, its Burin area and its granules, with their offsets (Table 13-3). -/
def contextImages (s : State) (core : CoreId) (ctx : BitVec 32) : List (Nat × List Byte) :=
  let log := (s.errLog core ctx).entries
  let tags := ((s.dieAt core.die).tags.filter fun t => t.ctx == ctx && t.core == core.core).take 512
  [ (0x1000, (List.range 8).flatMap fun q => queueRecord (s.queueOf core ctx q)),
    (0x2000, layout 4096 0 [(0, (log.take 64).flatMap fun e =>
      leBytes 8 e.w0.toNat ++ leBytes 8 e.w1.toNat ++ leBytes 8 e.w2.toNat ++ List.replicate 40 0)]),
    (0x3000, layout 4096 0 [(0, (s.coreCommands core ctx).flatMap commandRecord)]),
    (0x4000, layout 16384 0 [(0, tags.flatMap s.tagRecord)]) ]
  ++ [ (0x20000, layout 16384 0 [(0, (s.coreWgs core ctx).flatMap (s.wgRecord core))]) ]

/-- The header of a core frame at a spill (Table 13-4). -/
def frameHeader (s : State) (core : CoreId) (r : CtxRegs) (split : Split) (state tout : Nat) : List Byte :=
  let slots := (s.groups.filter fun g => g.core == core && g.ctx == r.ctx && g.wait != Wait.ended && g.wait != Wait.suspended
    && (g.wait != Wait.parked || g.trapState.tip)).foldl (fun m g => m ||| ((1 : BitVec 64) <<< g.slot)) 0
  let quota := (((s.dieAt core.die).pinq.find? (·.1 == r.ctx)).map (·.2)).getD 0
  layout 4096 0
    [ (0x00, leBytes 4 r.ctx.toNat ++ leBytes 4 r.part.toNat ++ leBytes 8 r.ptbase.toNat ++ leBytes 8 r.tvb.toNat ++ leBytes 8 r.scopetab.toNat),
      (0x20, leBytes 4 (split.regs + 16 * split.scr + 512 * split.l1) ++ leBytes 4 state ++ leBytes 8 slots.toNat ++ leBytes 8 tout
        ++ leBytes 4 quota) ]

/-- The images of a context that has left a core are written: its group records and registers, and the rest of the frame, the reserved part
zero (Table 13-3). -/
def writeImages (s : State) (core : CoreId) (ctx : BitVec 32) (f : Nat) : State :=
  let gs := s.groups.filter fun g => g.core == core && g.ctx == ctx && g.place == .frame && g.wait != Wait.ended && g.wait != Wait.suspended
  let s := gs.foldl (fun s g => if g.rec_.isSome then s.writeGroup g.gid else s.saveGroup g.gid) s
  let s := (s.contextImages core ctx).foldl (fun s x => s.putBlock (f + x.1) x.2) s
  let s := match s.frameOf (burinHome core) ctx with
    | some f => (s.burinImages core ctx).foldl (fun (s : State) (x : Nat × List Byte) => s.putBlock (f + x.1) x.2) s
    | none => s
  s.zeroRange .pool (f + 0xF40000) 786432

/-! ## Changes while a group or a context is out (R211, R212, R376, R380, R384, R387) -/

/-- Whether a group's saved state stands in its frame. -/
def isSaved (g : Group) : Bool := g.rec_.isSome && (g.place == .frame || g.wait == Wait.parked)

/-- A saved group that a step has changed: what differs goes into its record and its register image. -/
def followGroup (before : State) (s : State) (g : Group) : State :=
  match before.group? g.gid, s.frameOf g.core g.ctx, g.rec_ with
  | some b, some f, some k =>
    if !isSaved b || b.rec_ != g.rec_ || b == g then s
    else
      let s := s.patch (recordAt f k) (groupImage b) (groupImage g)
      match g.vbase with
      | some v => if b.vbase == g.vbase then s.patch (f + 0x4C0000 + v) (regImage b) (regImage g) else s
      | none => s
  | _, _, _ => s

/-- A context that is out: what a step has changed of its queues, commands, faults, sequencers and barriers goes into its frame. -/
def followContext (before : State) (s : State) (x : CoreId × BitVec 32) : State :=
  match s.frameOf x.1 x.2 with
  | none => s
  | some f =>
    let s := (List.zip (before.contextImages x.1 x.2) (s.contextImages x.1 x.2)).foldl (fun s p => s.patch (f + p.1.1) p.1.2 p.2.2) s
    match s.frameOf (burinHome x.1) x.2 with
    | none => s
    | some f =>
      let old := before.burinImages x.1 x.2
      (s.burinImages x.1 x.2).foldl (fun (s : State) (y : Nat × List Byte) => match old.find? (·.1 == y.1) with
        | some o => s.patch (f + y.1) o.2 y.2
        | none => s.putBlock (f + y.1) y.2) s

/-- The frames follow a step: a group that has parked is saved, one whose slot another group has taken moves its record, and whatever changes
while it is out changes in the frame too. -/
def keepFrames (before s : State) : State :=
  let parked := s.groups.filter fun g => g.wait == Wait.parked && g.place == .core && g.rec_.isNone
  let s := parked.foldl (fun s g => s.saveGroup g.gid) s
  let moved := s.groups.filter fun g => isSaved g && s.groups.any fun o =>
    o.gid != g.gid && o.core == g.core && o.ctx == g.ctx && some o.slot == g.rec_ && occupies o && o.rec_.isNone
  let s := moved.foldl (fun s g => s.displace g.gid) s
  let saved := s.groups.filter isSaved
  let s := saved.foldl (followGroup before) s
  let outs := ((saved.filter fun g => g.place == .frame && ((before.group? g.gid).map isSaved).getD false).map fun g => (g.core, g.ctx)).eraseDups
  outs.foldl (followContext before) s

/-! ## Reading a frame back (R379) -/

/-- The CSRs that a frame header gives a context; reserved bits read as zero (R199, R374, R377). -/
def headerRegs (s : State) (f : Nat) (ctx : BitVec 32) : CtxRegs :=
  let w (o n : Nat) : DWord := BitVec.ofNat 64 (s.wordAt .pool (f + o) n)
  let scopetab := w 0x18 8 &&& 0x000FFFFFFFFFF800
  ⟨ctx, (w 4 1).setWidth 8, w 8 8 &&& 0x000FFFFFFFE00000, w 0x10 8 &&& ~~~0xFFFF, scopetab, s.hopsAt scopetab⟩

/-- The queues of a context take what its frame holds. -/
def readQueues (s : State) (core : CoreId) (ctx : BitVec 32) (f : Nat) : State :=
  (List.range 8).foldl (fun s q =>
    let x := s.queueOf core ctx q
    let y := readQueue (s.blockAt (f + 0x1000 + 384 * q) 384) x
    if y == x then s else s.setQueue y) s

/-- The sequencers that a core starts take what the Burin area holds. -/
def readSeqs (s : State) (core : CoreId) (ctx : BitVec 32) : State :=
  match s.frameOf (burinHome core) ctx with
  | none => s
  | some f =>
    ((s.quadSeqs core ctx).filter (·.2.1 == core)).foldl (fun s x =>
      let img := s.blockAt (f + 0x10000 + 3584 * x.2.2.1.ctxNo) 3584
      s.modWg x.1 fun w => { w with seq := w.seq.map (readBurin img x.2.2.2) }) s

/-- The commands of a context take the progress that its frame holds. -/
def readCommands (s : State) (core : CoreId) (ctx : BitVec 32) (f : Nat) : State :=
  (List.range 64).foldl (fun s i =>
    let img := s.blockAt (f + 0x3000 + 64 * i) 64
    let id := leNat (img.take 8)
    if id = 0 then s
    else s.modCommand id fun c => if c.core == core && c.ctx == ctx then
      { c with progress := leNat ((img.drop 8).take 8), written := leNat ((img.drop 16).take 8) } else c) s

/-- The groups and the rest of a saved context come back from its frame. A group whose bit in SLOTS the kernel has cleared is gone. -/
def readFrame (s : State) (core : CoreId) (ctx : BitVec 32) (f : Nat) (gs : List Group) : State :=
  let slots := s.wordAt .pool (f + 0x28) 8
  let s := gs.foldl (fun s g =>
    if g.rec_ == some g.slot && g.wait != Wait.parked && !slots.testBit g.slot then
      s.modGroup g.gid fun g => { g with wait := .ended, em := 0, live := 0, stroke := none, rec_ := none, vbase := none }
    else s.restoreGroup g.gid) s
  ((s.readQueues core ctx f).readSeqs core ctx).readCommands core ctx f

end State
end Sys2Proof.Machine
end

