-- ==== Sys2Proof/Machine/Exchange.lean ====
section
/-! DEFINITION. Parked groups that become ready, and the exchange of contexts: the shadow bank, the swap, the spill and the lazy exchange of
granules and tiles (R212, R377 to R385, R387). -/

namespace Sys2Proof.Machine

namespace State

/-! ## Parks -/

/-- A parked group becomes ready: with TIP clear in any free slot of its core, otherwise in its own (R212). A failed tag's cause is a
precise trap at the instruction (R387), and a fault of its sequencer is taken now (R70). It keeps its park until the instruction issues without
parking again (R385). A saved state that holds an uncorrectable word is found now (Table 13-6). A group whose context is not running, or for
which there is no slot yet, stays parked. -/
def unpark (s : State) (gid : Nat) : State :=
  match s.group? gid with
  | none => s
  | some g =>
    match g.park with
    | none => s
    | some p =>
      let c := s.coreAt g.core
      if g.wait != Wait.parked || c.regs.ctx != g.ctx || g.place != .core then s
      else match (if g.trapState.tip then some g.slot
                  else if s.hasRoom g.core g.ctx c.split g.launch.vregs 1 then s.freeSlot g.core g.ctx else none) with
        | none => s
        | some slot =>
          let s := ((s.settleSlot gid slot).modGroup gid fun g => { g with wait := .ready }).focus gid
          let s := match p.fail with
            | some cause => (s.modG fun g => { g with park := none }).trap cause p.pc (some p.va) (some p.lanes)
            | none =>
              match s.g.async.find? (fun e : AsyncErr => e.seq) with
              | some e => s.deliverError e (s.g.async.erase e)
              | none => s
          (s.issuerSelect g.core).checkRestored [gid]

/-- Groups that have come back to a core: parked ones reissue their instruction, whatever replies have come, and one whose saved state holds an
uncorrectable word takes cause 0x18 (R385, Table 13-6). -/
def wakeRestored (s : State) (core : CoreId) (gids : List Nat) : State :=
  let mine := s.groups.filter fun g => gids.contains g.gid && g.wait != Wait.ended
  let s := (mine.filter (·.wait == Wait.parked)).foldl (fun s g => s.unpark g.gid) s
  (s.checkRestored ((mine.filter (·.wait != Wait.parked)).map (·.gid))).issuerSelect core

/-! ## The swap -/

/-- The swap unit of a core. -/
def modSwap (s : State) (core : CoreId) (f : SwapUnit → SwapUnit) : State := s.modCore core fun c => { c with swap := f c.swap }

/-- Starts a load of a shadow bank (R379, R396). -/
def loadShadow (s : State) (core : CoreId) (base : Nat) (ctx : BitVec 32) : State :=
  (s.modDie core.die fun d => { d with frames := (ctx, base) :: d.frames.filter (·.1 != ctx) }).modSwap core fun w =>
    { w with load := .loading, frame := base + core.core * 0x1000000, incoming := some ⟨ctx, 0, 0, 0, 0, []⟩ }

/-- A load fails; its failure code is not given a value (log entry 17). -/
def failLoad (s : State) (core : CoreId) : State :=
  let (v, s) := s.freeValue
  s.modSwap core fun w => { w with load := .failed, failCode := v.toNat % 256, incoming := none }

/-- A load completes (R379): the header is checked, the CSRs are read and the groups stand in the shadow bank. -/
def finishLoad (s : State) (core : CoreId) : State :=
  let c := s.coreAt core
  match c.swap.incoming with
  | none => s
  | some r =>
    let f := c.swap.frame
    let w (o n : Nat) : Nat := s.wordAt .pool (f + o) n
    let state := s.frameState f
    if w 0 4 ≠ r.ctx.toNat || (state ≠ 0 && state ≠ 3) || s.frameSplit f != c.split then s.failLoad core
    else
      let regs := s.headerRegs f r.ctx
      let gs := (s.groups.filter fun g => g.core == core && g.ctx == r.ctx && g.place == .frame && g.wait != Wait.ended
        && g.wait != Wait.suspended)
      let s := if state = 3 then s.readFrame core r.ctx f gs else s
      let s := gs.foldl (fun s g => s.modGroup g.gid fun g => { g with place := .shadow }) s
      (s.modDie core.die fun d => { d with pinq := (r.ctx, w 0x38 4) :: d.pinq.filter (·.1 != r.ctx) }).modSwap core fun u =>
        { u with load := .loaded, incoming := some regs }

/-- Operations of the sequencers of a context whose workgroups start on a core leave the table as the context leaves: a running one stops first at
its next boundary (R282). -/
def saveEntries (s : State) (core : CoreId) (ctx : BitVec 32) : State :=
  let q : QuadId := ⟨core.die, core.core / 4⟩
  let mine (e : EngEntry) : Bool := e.ctx == ctx && (s.wgOf e.wid).first == core
  let runs (e : EngEntry) : Bool := mine e && e.state == .running && !(e.op == 3 && e.opsDone)
  let s := ((s.engineAt q).entries.filter runs).foldl (fun s e => s.stopEntry q e) s
  let t := s.engineAt q
  let out := (t.entries.filter mine).map fun e => if e.state == .running then { e with state := .preempted } else e
  let left := t.entries.filter (!mine ·)
  if out.isEmpty then s
  else s.setEngine { t with entries := left, saved := t.saved ++ out, pins := t.pins.filter (heldBy left), loose := t.loose.filter (heldBy left) }

/-- They return to the table as it comes back, in their relative age, and go on at KDONE. -/
def restoreEntries (s : State) (core : CoreId) (ctx : BitVec 32) : State :=
  let q : QuadId := ⟨core.die, core.core / 4⟩
  let t := s.engineAt q
  let mine (e : EngEntry) : Bool := e.ctx == ctx && (s.wgOf e.wid).first == core
  let back := (t.saved.filter mine).map fun e =>
    if e.state != .preempted then e else if e.op == 3 && e.opsDone then { e with state := .running } else { e with state := .eligible }
  if back.isEmpty then s else s.setEngine { t with entries := t.entries ++ back, saved := t.saved.filter (!mine ·) }

/-- One granule or tile changes hands: the outgoing image out, the incoming one in (R381), each where the SPLIT of its own frame puts it. A core that passes to another partition holds zero where no frame gives an image (R391). -/
def exchangeOne (s : State) (core : CoreId) (tile : Bool) (k : Nat) : State :=
  let c := s.coreAt core
  let sp : Space := if tile then .acc core else .scr core
  let at_ (regs : Nat) : Nat := (if tile then 0xC40000 else 0x4C0000 + regs * 262144) + 65536 * k
  let out := s.bytesAt sp (65536 * k) 65536
  let s := match s.frameOf core c.swap.outgoing with
    | some f => s.putBytes .pool (f + at_ (s.frameSplit f).regs) out
    | none => s
  let s := match s.frameOf core c.regs.ctx with
    | some f => s.putBytes sp (65536 * k) (s.bytesAt .pool (f + at_ (s.frameSplit f).regs) 65536)
    | none => if s.clears.contains (.core core) then s.putBytes sp (65536 * k) (List.replicate 65536 0) else s
  s.modSwap core fun w => { w with exchange := w.exchange.filter (· != (tile, k)) }

/-- The exchange at the swap (R380): what an earlier swap left to be exchanged is exchanged first; issue stops, groups and control state change places, L1 is invalidated, and with it the TLB if the core passes to another partition (R204), and granules and
tiles wait for their exchange (R381). -/
def doSwap (s : State) (core : CoreId) : State :=
  let c := s.coreAt core
  match c.swap.incoming with
  | none => s
  | some new =>
    let old := c.regs
    let now := s.dtime
    let leave (g : Group) : Bool := g.core == core && g.ctx == old.ctx && g.place == .core
    let enter (g : Group) : Bool := g.core == core && g.ctx == new.ctx && g.place == .shadow
    let s := c.swap.exchange.foldl (fun s e => s.exchangeOne core e.1 e.2) s
    let s := (s.modGroups leave fun g => { completeDivides g with place := .frame }).modGroups enter fun g => { g with place := .core }
    let granules := (List.range (4 * c.split.scr)).map fun k => (false, k)
    let tiles := (List.range 48).map fun k => (true, k)
    let s := s.modCore core fun c => { c with
      regs := new
      l1 := []
      tlb := if new.part = old.part then c.tlb else []
      issuers := c.issuers.map fun i => ⟨none, i.last⟩
      swap := { c.swap with
        load := .idle, incoming := none, armed := none, late := false, spilling := some old.ctx
        exchange := granules ++ tiles, outgoing := old.ctx } }
    let s := match s.frameOf core old.ctx with
      | some f => s.putBlock f (frameHeader s core old c.split 2 now)
      | none => s
    let s := s.putWord .pool (c.swap.frame + 0x24) 4 1
    let s : State := { s with clears := if new.part = old.part then s.clears else s.clears ++ [ClearUnit.core core] }
    let s := if new.part = old.part then s else s.setEngine { s.engineAt ⟨core.die, core.core / 4⟩ with tlb := [] }
    let s := (s.saveEntries core old.ctx).restoreEntries core new.ctx
    let s := s.modDie core.die fun d => { d with tags := d.tags.filter fun t => !(t.answered && t.ctx == new.ctx && t.core == core.core) }
    s.wakeRestored core ((s.groups.filter fun g => g.core == core && g.ctx == new.ctx && g.place == .core).map (·.gid))

/-- The swap of a core whose armed time has come (R380, R382): at once if its load is complete; otherwise issue of the outgoing context
stops and the swap is late. In strict mode issue also stops while the quad's other cores run another partition (R392). -/
def swapTime (s : State) (core : CoreId) : State :=
  let c := s.coreAt core
  match c.swap.armed with
  | none => s
  | some t =>
    if s.localTime core < t || c.status != .live then s
    else if c.swap.load == .loaded && !s.quadTaken core ((c.swap.incoming.map (·.part)).getD 0) then s.doSwap core
    else if c.swap.late then s
    else if c.swap.load == .loaded then s.modCore core fun c => { c with
      issuers := c.issuers.map fun i => ⟨none, i.last⟩
      swap := { c.swap with late := true } }
    else
      (s.modCore core fun c => { c with
        issuers := c.issuers.map fun i => ⟨none, i.last⟩
        swap := { c.swap with late := true } }).modDie core.die fun d => { d with lateSwaps := d.lateSwaps + 1 }

end State

/-- SWAP (R380, R382). -/
def execSwap (core : CoreId) (s : State) : Out := .next (s.swapTime core)

/-- SHADOW_LOAD_COMPLETE (R379). -/
def execShadowLoadComplete (core : CoreId) (s : State) : Out :=
  .next (if (s.coreAt core).swap.load == .loading then s.finishLoad core else s)

/-- SPILL_COMPLETE (R380): the outgoing frame is written and its STATE becomes 3. -/
def execSpillComplete (core : CoreId) (s : State) : Out :=
  .next (match (s.coreAt core).swap.spilling with
    | none => s
    | some ctx =>
      let s := match s.frameOf core ctx with
        | some f => (s.writeImages core ctx f).putWord .pool (f + 0x24) 4 3
        | none => s
      s.modSwap core fun w => { w with spilling := none })

/-- GRANULE_EXCHANGE (R381): the `k`-th granule or tile still to be exchanged changes hands. -/
def execGranuleExchange (core : CoreId) (k : Nat) (s : State) : Out :=
  .next (match (s.coreAt core).swap.exchange[k]? with
    | some (tile, i) => s.exchangeOne core tile i
    | none => s)

end Sys2Proof.Machine
end

