-- ==== Sys2Proof/Machine/FloatOps.lean ====
section
/-! DEFINITION. Floating-point, conversion and quantisation instructions (R157 to R174). -/

namespace Sys2Proof.Machine

/-- FADD (R159, R160). -/
def execFadd (f : Fields) (s : State) : Out :=
  .next (s.issueFloat (.fadd f) f f.ty.is64 fun g l => farith .add f.ty (g.rnd f) f.sat (g.fltA f l) (g.fltB f l) 0)
/-- FMUL (R159, R160). -/
def execFmul (f : Fields) (s : State) : Out :=
  .next (s.issueFloat (.fmul f) f f.ty.is64 fun g l => farith .mul f.ty (g.rnd f) f.sat (g.fltA f l) (g.fltB f l) 0)
/-- FFMA (R159, R160). -/
def execFfma (f : Fields) (s : State) : Out :=
  .next (s.issueFloat (.ffma f) f f.ty.is64 fun g l =>
    farith .fma f.ty (g.rnd f) f.sat (g.fltA f l) (g.fltB f l) (g.fltC f l))
/-- FMIN (R161). -/
def execFmin (f : Fields) (s : State) : Out :=
  .next (s.issueFloat (.fmin f) f f.ty.is64 fun g l => Machine.fmin false f.ty (g.fltA f l) (g.fltB f l))
/-- FMAX (R161). -/
def execFmax (f : Fields) (s : State) : Out :=
  .next (s.issueFloat (.fmax f) f f.ty.is64 fun g l => Machine.fmin true f.ty (g.fltA f l) (g.fltB f l))
/-- FCMP (R164). -/
def execFcmp (f : Fields) (s : State) : Out :=
  .next (s.issuePred (.fcmp f) f fun g l => floatCond f.cond f.ty.elem (elemOf f.ty (g.fltA f l) 0) (elemOf f.ty (g.fltB f l) 0))
/-- FCLS (R165). -/
def execFcls (f : Fields) (s : State) : Out :=
  .next (s.issuePred (.fcls f) f fun g l =>
    ((g.word f.b l).getLsbD (fclass f.ty.elem (elemOf f.ty (g.fltA f l) 0)), 0))
/-- FRND (R162). -/
def execFrnd (f : Fields) (s : State) : Out :=
  .next (s.issueFloat (.frnd f) f f.ty.is64 fun g l => Machine.frnd f.ty (g.rnd f) (g.fltB f l))
/-- FSCL (R163, Table 5-10). -/
def execFscl (f : Fields) (s : State) : Out :=
  .next (s.issueFloat (.fscl f) f f.fsclWide fun g l =>
    if f.sub == 0#8 then fldx f.ty (g.rnd f) f.sat (g.fltA f l) (g.word f.b l)
    else if f.sub == 1#8 then
      let r := fexpOf f.ty.elem (elemOf f.ty (g.fltA f l) 0)
      (r.1.setWidth 64, r.2)
    else
      let r := fmantOf f.ty.elem (elemOf f.ty (g.fltA f l) 0)
      (BitVec.ofNat 64 r.bits, r.flags))
/-- FSFN (R172, R173): deferred. -/
def execFsfn (f : Fields) (s : State) : Out :=
  .next (s.issue (.fsfn f) f false false fun s q =>
    let g := s.g
    let r (l : Nat) := Machine.special f.sub.toNat f.ty (g.rnd f) f.sat (g.fltB f l)
    (s.defer (.fsfn f) .special (State.vWrites false f.d.toNat q (fun l => (r l).1) [])
      ((lanesOf q).foldl (fun acc l => acc ||| (r l).2) (0 : FlagSet)) [] none).retire (.fsfn f))
/-- CVT (R166). -/
def execCvt (f : Fields) (s : State) : Out :=
  .next (s.issueFloat (.cvt f) f f.ty.is64 fun g l =>
    convert f.srcTy f.ty (g.rnd f) f.sat g.fmt (g.operand f.srcTy f.b l))
/-- CVTP (R167). -/
def execCvtp (f : Fields) (s : State) : Out :=
  .next (s.issueFloat (.cvtp f) f false fun g l =>
    convertPacked f.srcTy f.ty f.cvtpSel (g.rnd f) f.sat g.fmt
      (g.fltOperand f.srcTy f.a l) (g.fltOperand f.srcTy f.b l) (g.fltOperand f.ty f.c l))
/-- The elements of a QPK source run (R168). -/
def qpkElems (g : Group) (f : Fields) (l : Nat) : List Num :=
  let first := match f.a with
    | .v n => n.toNat
    | _ => 0
  (List.range (qpkRun f.ty g.fmt)).flatMap fun k =>
    (List.range f.ty.elems).map fun e => f.ty.elem.unpack (elemOf f.ty ((g.vget (first + k) l).setWidth 64) e)
/-- QPK mode 0 (R168, R169). -/
def execQpk (f : Fields) (s : State) : Out :=
  .next (s.issueFloat (.qpk f) f false fun g l =>
    let r := qpkWord g.fmt (g.rnd f) f.sat (qpkElems g f l) ((g.word f.b l).setWidth 8)
    (r.1.setWidth 64, r.2))
/-- QPK mode 1 (R143, R170). -/
def execQpkAmax (f : Fields) (s : State) : Out :=
  .next (s.issueFloat (.qpkAmax f) f false fun g l =>
    let r := scaleOf (fmtNfmt g.fmt) (FloatFmt.f32.unpack (g.fltOperand .f32 f.a l).toNat)
    (r.1.setWidth 64, r.2))
/-- The decoded word of a QUP in a lane (R171). -/
def qupLane (g : Group) (f : Fields) (l : Nat) : List Num × FlagSet :=
  let block : List Word := match f.a with
    | .v n => (List.range (qupSrcRun g.fmt)).map fun k => g.vget (n.toNat + k) l
    | o => [g.word o l]
  qupWord (fmtNfmt g.fmt) block f.sub.toNat ((g.word f.b l).setWidth 8)
/-- QUP (R171). -/
def execQup (f : Fields) (s : State) : Out :=
  .next (s.issue (.qup f) f false false fun s q =>
    let g := s.g
    let s := (List.range (qupDstRun f.ty g.fmt)).foldl (fun (s : State) k =>
      s.modG fun h => h.vset (f.d.toNat + k) q fun l => qupReg f.ty (qupLane g f l).1 k) s
    (s.raise ((lanesOf q).foldl (fun acc l => acc ||| (qupLane g f l).2) (0 : FlagSet))).retire (.qup f))

/-! ## Immediate forms (R174) -/

/-- FADDI (R174). -/
def execFaddi (f : Fields) (s : State) : Out :=
  .next (s.issueFloat (.faddi f) f f.ty.is64 fun g l => farith .add f.ty (g.rnd f) f.sat (g.fltA f l) (immAs f.ty f.x) 0)
/-- FMULI (R174). -/
def execFmuli (f : Fields) (s : State) : Out :=
  .next (s.issueFloat (.fmuli f) f f.ty.is64 fun g l => farith .mul f.ty (g.rnd f) f.sat (g.fltA f l) (immAs f.ty f.x) 0)
/-- FFMAI (R174): the immediate is the multiplier. -/
def execFfmai (f : Fields) (s : State) : Out :=
  .next (s.issueFloat (.ffmai f) f f.ty.is64 fun g l =>
    farith .fma f.ty (g.rnd f) f.sat (g.fltA f l) (immAs f.ty f.x) (g.fltB f l))
/-- FCMPI (R174). -/
def execFcmpi (f : Fields) (s : State) : Out :=
  .next (s.issuePred (.fcmpi f) f fun g l =>
    floatCond f.cond f.ty.elem (elemOf f.ty (g.fltA f l) 0) (elemOf f.ty (immAs f.ty f.x) 0))

end Sys2Proof.Machine
end

