-- ==== Sys2Proof/Machine/Journal.lean ====
section
/-! DEFINITION. The journal unit (R356 to R369). -/

namespace Sys2Proof.Machine

/-! ## Records (Table 12-1) -/

namespace JRec
def seq (r : JRec) : Word := r.extractLsb' 32 32
def pos (r : JRec) : Word := r.extractLsb' 64 32
def kind (r : JRec) : Nat := (r.extractLsb' 28 4).toNat
def ord (r : JRec) : BitVec 8 := r.extractLsb' 16 8
def rpl (r : JRec) : Bool := r.getLsbD 27
/-- A record from its fields. -/
def build (kind : BitVec 4) (eos : Bool) (ord : BitVec 8) (tag : BitVec 16) (seq pos token : Word) (gctr route : DWord) : JRec :=
  route ++ gctr ++ token ++ pos ++ seq ++ kind ++ 0#3 ++ BitVec.ofBool eos ++ ord ++ tag
/-- Whether a record carries a key (R356). -/
def hasKey (r : JRec) (seq pos : Word) (kind : Nat) (ord : BitVec 8) : Bool :=
  JRec.seq r == seq && JRec.pos r == pos && JRec.kind r == kind && JRec.ord r == ord
/-- Whether TOKEN, GCTR, ROUTE, EOS or TAG differ (R358). -/
def differs (a b : JRec) : Bool :=
  a.extractLsb' 96 160 != b.extractLsb' 96 160 || a.getLsbD 24 != b.getLsbD 24 || a.extractLsb' 0 16 != b.extractLsb' 0 16
end JRec

namespace State

/-- A precise trap of cause 0x16 (Table 12-7). -/
def journalTrap (s : State) (code : Nat) : State := s.trapHere 0x16 (some (BitVec.ofNat 64 code)) none

/-- A record is appended at JI: into the window and into the local copy (R356). -/
def appendRecord (s : State) (x : Stream) (r : JRec) : State :=
  (s.putBytes .pool (x.base + 32 * (x.ji % 2 ^ x.lcap)) (recordBytes r)).modStream x.die x.ctx fun y =>
    { y with recs := y.recs ++ [r], ji := y.ji + 1 }

/-- The stream of the issuing context, when it is not replaying; otherwise cause 0x16 or a wait (R364, R368). -/
def withStream (s : State) (ctx : BitVec 32) (k : Stream → State → State) : State :=
  match s.stream? s.g.core.die ctx with
  | none => s.journalTrap 0x01
  | some x => if x.replay.isSome then s.waitOn .journal else k x s

/-- JTOK and JRTE once the record is formed (R358, R368). -/
def journalise (s : State) (i : Instr) (x : Stream) (r : JRec) : State :=
  if s.commandHeld s.g then s
  else match x.recs.find? fun e => JRec.hasKey e (JRec.seq r) (JRec.pos r) (JRec.kind r) (JRec.ord r) with
  | some e =>
    if JRec.differs e r then
      (s.modStream x.die x.ctx fun y => { y with
        disagree := y.disagree + 1
        replayDisagree := y.replayDisagree + (if JRec.rpl e then 1 else 0) }).retire i
    else s.retire i
  | none => if 2 ^ x.lcap ≤ x.ji - x.jt then s.waitOn .journal else (s.appendRecord x r).retire i

/-- The index in the window of the earliest record with a key. -/
def keyIndex (seq pos : Word) (kind : Nat) (ord : BitVec 8) : List JRec → Nat → Option (Nat × JRec)
  | [], _ => none
  | r :: rs, n => if JRec.hasKey r seq pos kind ord then some (n, r) else keyIndex seq pos kind ord rs (n + 1)

/-- A pool address that a journal ring may have (Table 12-6): aligned to 64 KiB and homed on this package. -/
def ringBaseOk (s : State) (base : DWord) : Bool :=
  base.toNat % 65536 == 0 && base.toNat < 2 ^ 52 && (s.homeOf (base.toNat / 65536)).1.val == s.pkg % 64

/-- A package that may hold this package's records: below the pod's count and in another tray (Table 12-7). -/
def partnerOk (s : State) (pkg : Nat) : Bool := pkg < s.podPackages && pkg / 4 != s.pkg / 4

/-- A JTRN operation on the stream of the context in S[d] (R369). -/
def jtrn (s : State) (i : Instr) (f : Fields) (k : Stream → State → State) : State :=
  s.issue i f true true fun s _ => s.withStream (s.g.sget f.d.toNat) k

end State

/-- JTOK (R367, R368). -/
def execJtok (f : Fields) (s : State) : Out :=
  .next (s.issue (.jtok f) f true false fun s _ => s.withStream s.g.ctx fun x s =>
    let g := s.g
    let d := f.d.toNat
    let w := g.sget (d + 3)
    if w >>> 17 ≠ 0 then s.journalTrap 0x02
    else s.journalise (.jtok f) x
      (JRec.build 0 (w.getLsbD 16) 0 (w.setWidth 16) (g.sget d) (g.sget (d + 1)) (g.sget (d + 2)) (g.sval true (d + 4)) 0))

/-- JRTE (R367, R368). -/
def execJrte (f : Fields) (s : State) : Out :=
  .next (s.issue (.jrte f) f true false fun s _ => s.withStream s.g.ctx fun x s =>
    let g := s.g
    let d := f.d.toNat
    let w := g.sget (d + 3)
    if w >>> 24 ≠ 0 then s.journalTrap 0x02
    else s.journalise (.jrte f) x
      (JRec.build (0#2 ++ f.sub.extractLsb' 0 2) false (w.extractLsb' 16 8) (w.setWidth 16) (g.sget d) (g.sget (d + 1)) (g.sget (d + 2))
        (g.sval true (d + 4)) (g.sval true (d + 6))))

/-- What JRD delivers (R368): the standing record with DUR, or the mark for none. -/
def jrdResult (x : Stream) (seq pos : Word) (kind : Nat) (ord : BitVec 8) : JRec :=
  match State.keyIndex seq pos kind ord x.recs x.jt with
  | some (n, r) => if n < x.ja then r ||| ((1 : JRec) <<< 25) else r &&& ~~~((1 : JRec) <<< 25)
  | none => BitVec.ofNat 256 0xF0000000

/-- JRD (R368). -/
def execJrd (f : Fields) (s : State) : Out :=
  .next (s.issue (.jrd f) f true false fun s _ => s.withStream s.g.ctx fun x s =>
    let g := s.g
    let a := match f.a with
      | .s n => n.toNat
      | _ => 63
    let w := g.sget (a + 2)
    if 4 < (w.extractLsb' 0 4).toNat || w >>> 24 ≠ 0 || w.extractLsb' 4 12 ≠ 0 then s.journalTrap 0x02
    else
      let r := jrdResult x (g.sget a) (g.sget (a + 1)) (w.extractLsb' 0 4).toNat (w.extractLsb' 16 8)
      let writes := (List.range 8).map fun k => RegWrite.s (f.d.toNat + k) (r.extractLsb' (32 * k) 32) []
      (s.defer (.jrd f) .journal writes 0 [] none).retire (.jrd f))

/-- JTRN.cfg (R369). The removal of a stream ends its window at the partner too: a truncate packet with JT at its JI (log entry 37). -/
def execJtrnCfg (f : Fields) (s : State) : Out :=
  .next (s.issue (.jtrnCfg f) f true true fun s _ =>
    let g := s.g
    let d := f.d.toNat
    let ctx := g.sget d
    let lcap := (g.sget (d + 1)).toNat
    let base := g.sval true (d + 2)
    let partner := ((g.sget (d + 4)).extractLsb' 0 12).toNat
    match s.stream? g.core.die ctx with
    | some x =>
      if x.replay.isSome then s.waitOn .journal
      else if lcap ≠ 0 || x.ja ≠ x.ji then s.journalTrap 0x03
      else (({ s with streams := s.streams.filter fun y => !(y.die == x.die && y.ctx == x.ctx) } : State).send
        (.journalTruncate x.partner x.die (s.stamp x.partner) x.ctx x.ji)).retire (.jtrnCfg f)
    | none =>
      if lcap = 0 then s.journalTrap 0x01
      else if lcap < 10 || 20 < lcap || !s.ringBaseOk base then s.journalTrap 0x03
      else if !s.partnerOk partner then s.journalTrap 0x04
      else
        let x : Stream := ⟨g.core.die, ctx, lcap, base.toNat, partner, 0, 0, 0, [], 0, [], 0, 0, 0, none, none⟩
        ({ s with streams := s.streams ++ [x] } : State).retire (.jtrnCfg f))

/-- JTRN.host (R369). -/
def execJtrnHost (f : Fields) (s : State) : Out :=
  .next (s.issue (.jtrnHost f) f true true fun s _ =>
    let g := s.g
    let d := f.d.toNat
    let lcap := (g.sget (d + 1)).toNat
    let base := g.sval true (d + 2)
    if lcap < 12 || 24 < lcap || !s.ringBaseOk base then s.journalTrap 0x03
    else
      let r : HostRing := ⟨g.core.die, lcap, base.toNat, []⟩
      ({ s with rings := s.rings.filter (·.die != g.core.die) ++ [r] } : State).retire (.jtrnHost f))

/-- JTRN.part (R363). -/
def execJtrnPart (f : Fields) (s : State) : Out :=
  .next (s.jtrn (.jtrnPart f) f fun x s =>
    let p := ((s.g.sget (f.d.toNat + 1)).extractLsb' 0 12).toNat
    if !s.partnerOk p then s.journalTrap 0x04
    else (s.modStream x.die x.ctx fun y => { y with partner := p, ja := y.jt, sent := y.jt, sentAt := [] }).retire (.jtrnPart f))

/-- JTRN.ckpt (R369). -/
def execJtrnCkpt (f : Fields) (s : State) : Out :=
  .next (s.jtrn (.jtrnCkpt f) f fun x s =>
    let d := f.d.toNat
    if 2 ^ x.lcap ≤ x.ji - x.jt then s.waitOn .journal
    else
      let r := JRec.build 4 false 0 0 0xFFFFFFFF 0 0 (s.g.sval true (d + 2)) 0
      ((s.appendRecord x r).modG fun g => g.sput true (d + 4) (BitVec.ofNat 64 x.ji)).retire (.jtrnCkpt f))

/-- JTRN.trunc (R363, R369). -/
def execJtrnTrunc (f : Fields) (s : State) : Out :=
  .next (s.jtrn (.jtrnTrunc f) f fun x s =>
    let c := (s.g.sval true (f.d.toNat + 2)).toNat
    let r := x.recs.getD (c - x.jt) 0
    if c < x.jt || x.ja ≤ c || JRec.kind r ≠ 4 then s.journalTrap 0x05
    else ((s.modStream x.die x.ctx fun y => { y with jt := c, recs := y.recs.drop (c - y.jt), sent := max y.sent c, sentAt := y.sentAt.drop (c - y.jt) }).send
      (.journalTruncate x.partner x.die (s.stamp x.partner) x.ctx c)).retire (.jtrnTrunc f))

/-- JTRN.sync (R369): waits for the value that JI held at issue. -/
def execJtrnSync (f : Fields) (s : State) : Out :=
  .next (s.jtrn (.jtrnSync f) f fun x s =>
    let goal := match s.g.captured with
      | some (pc, n) => if pc = s.g.pc then n else x.ji
      | none => x.ji
    if goal ≤ x.ja then (s.modG fun g => { g with captured := none }).retire (.jtrnSync f)
    else (s.modG fun g => { g with captured := some (g.pc, goal) }).waitOn .journal)

/-- JTRN.rply (R364, R369): the fetch is asked for, and the group waits until the answer is there. The stream remembers who asked, so that the
instruction ends where it issues again after a trap that it met while it waited (log entry 38). -/
def execJtrnRply (f : Fields) (s : State) : Out :=
  .next (s.issue (.jtrnRply f) f true true fun s _ =>
    let g := s.g
    let d := f.d.toNat
    let holder := (g.sget (d + 1)).toNat
    match s.stream? g.core.die (g.sget d) with
    | none => s.journalTrap 0x01
    | some x =>
      if x.replay.isSome then s.waitOn .journal
      else if x.asker = some (g.gid, g.pc) then
        let s := s.modStream x.die x.ctx fun y => { y with asker := none }
        if x.ji = 0 then s.journalTrap 0x06 else s.retire (.jtrnRply f)
      else if x.ji ≠ 0 then s.journalTrap 0x06
      else if !s.partnerOk holder then s.journalTrap 0x04
      else
        let r : Replay := ⟨holder, (g.sget (d + 2)).toNat, ((g.sget (d + 3)).extractLsb' 0 3).toNat, g.sget (d + 4)⟩
        ((s.modStream x.die x.ctx fun y => { y with replay := some r, asker := some (g.gid, g.pc) }).send
          (.journalFetch holder (s.stamp holder) r.spkg r.sdie r.sctx x.die x.ctx 0)).waitOn .journal)

/-! ## The partner protocol -/

/-- Records `first` to `first + n - 1` of the window go to the partner, and the time of their sending is noted (R362). -/
def sendRecords (s : State) (x : Stream) (first n : Nat) : State :=
  let note (i t : Nat) : Nat := if first ≤ x.jt + i && x.jt + i < first + n then s.dtime else t
  let old : List Nat := x.sentAt ++ List.replicate (first + n - max first x.sent) 0
  let times := old.zipIdx.map fun (e : Nat × Nat) => note e.2 e.1
  (s.modStream x.die x.ctx fun y => { y with sent := max y.sent (first + n), sentAt := times }).send
    (.journal x.partner x.die (s.stamp x.partner) x.ctx x.jt first ((x.recs.drop (first - x.jt)).take n))

/-- JOURNAL_APPEND_SEND (R362): the next records of the window go to the partner, up to 127 in a packet. -/
def execJournalAppendSend (die : Nat) (ctxid : BitVec 32) (count : Nat) (s : State) : Out :=
  .next (match s.stream? die ctxid with
    | some x =>
      if count = 0 || 127 < count || x.ji < x.sent + count || x.replay.isSome then s else sendRecords s x x.sent count
    | none => s)

/-- Whether record `i` was sent, is not acknowledged, and was last sent 10 µs ago or more. -/
def Stream.dueAgain (x : Stream) (now i : Nat) : Bool :=
  x.ja ≤ i && i < x.sent && (x.sentAt.getD (i - x.jt) 0) + 10000 ≤ now

/-- JOURNAL_RESEND_TIMER (R362): records unacknowledged for 10 µs are sent again, up to 127 in a packet, and each is counted. -/
def execJournalResendTimer (die : Nat) (ctxid : BitVec 32) (s : State) : Out :=
  .next (match s.stream? die ctxid with
    | some x =>
      match ((List.range (x.sent - x.ja)).map (x.ja + ·)).dropWhile fun i => !x.dueAgain s.dtime i with
      | [] => s
      | i :: is =>
        let n := 1 + ((is.takeWhile (x.dueAgain s.dtime)).take 126).length
        sendRecords (s.modStream die ctxid fun y => { y with resends := y.resends + n }) { x with resends := x.resends + n } i n
    | none => s)

/-- JOURNAL_ACK_ARRIVAL (R321, R362): JA rises on an acknowledgement of the current partner in the current incarnations. -/
def execJournalAckArrival (die : Nat) (ctxid : BitVec 32) (spkg : BitVec 12) (sinc dinc : BitVec 16) (upto : Nat) (s : State) : Out :=
  .next (if !s.fresh? ⟨spkg, sinc, dinc⟩ then s.countStale die
    else match s.stream? die ctxid with
    | some x => if x.partner ≠ spkg.toNat then s else s.modStream die ctxid fun y => { y with ja := max y.ja (min upto y.sent) }
    | none => s)

/-- Whether hosted records are a stream's: its package, die and context (R362). -/
def Hosted.isFor (h : Hosted) (pkg die : Nat) (ctx : BitVec 32) : Bool := h.spkg == pkg && h.sdie == die && h.ctx == ctx

/-- The ring that hosts a stream: one that holds its records, otherwise that of the die (R362, R364). -/
def State.ringFor (s : State) (pkg die : Nat) (ctx : BitVec 32) : Option HostRing :=
  (s.rings.find? fun r => r.hosted.any fun h => h.isFor pkg die ctx).or (s.rings.find? (·.die == die))

/-- Hosted records with the next ones in index order. A record already held stays, one that finds the ring full is not taken, and one past a
gap waits for the lost ones (R362). Records below the stream's JT are gone: the window starts there. JT never falls in one stream, so a JT below the
window is that of a stream configured anew, and nothing of it is held yet (log entry 37). -/
def hostRecords (room jt first : Nat) (h : Hosted) (recs : List JRec) : Hosted :=
  let h := if h.first + h.recs.length < jt || jt < h.first then { h with first := jt, recs := [] } else h
  let have_ := h.first + h.recs.length
  if first ≤ have_ then { h with recs := h.recs ++ (recs.drop (have_ - first)).take room } else h

/-- JOURNAL_APPEND_ARRIVAL (R321, R362): the partner's side. Records of an earlier incarnation of the sender are not this stream's. -/
def execJournalAppendArrival (die : Nat) (from_ : Stamp) (ctxid : BitVec 32) (jt first : Nat) (recs : List JRec) (s : State) : Out :=
  .next (
    let pkg := from_.spkg.toNat
    if !s.fresh? from_ then s.countStale die
    else match s.ringFor pkg die ctxid with
    | none => s
    | some r =>
      let h := (r.hosted.find? fun h => h.isFor pkg die ctxid && h.inc == from_.sinc).getD ⟨from_.sinc, pkg, die, ctxid, jt, []⟩
      let used := r.hosted.foldl (fun n h => n + h.recs.length) 0
      let h := hostRecords (2 ^ r.lcap - used) jt first h recs
      let r' := { r with hosted := (r.hosted.filter fun h => !h.isFor pkg die ctxid) ++ [h] }
      ({ s with rings := s.rings.map fun x => if x.die == r.die then r' else x } : State).send
        (.journalAck pkg die (s.stamp pkg) ctxid (h.first + h.recs.length)))

/-- JOURNAL_TRUNCATE_ARRIVAL (R363). -/
def execJournalTruncateArrival (die : Nat) (from_ : Stamp) (ctxid : BitVec 32) (jt : Nat) (s : State) : Out :=
  let cut (h : Hosted) : Hosted :=
    if h.isFor from_.spkg.toNat die ctxid && h.first ≤ jt && jt ≤ h.first + h.recs.length
    then { h with first := jt, recs := h.recs.drop (jt - h.first) } else h
  .next (if !s.fresh? from_ then s.countStale die
    else { s with rings := s.rings.map fun r => { r with hosted := r.hosted.map cut } })

/-- JOURNAL_FETCH_REQUEST (R364): the holder re-keys its records to the new owner, and answers with those from the first index wanted, as many as a
packet carries (Table 12-2, log entry 38). -/
def execJournalFetchRequest (die : Nat) (requester : Requester) (spkg : BitVec 12) (sdie : Nat) (sctxid nctxid : BitVec 32) (s : State) : Out :=
  .next (
    let to_ := requester.stamp.spkg.toNat
    let mine (h : Hosted) : Bool := h.isFor spkg.toNat sdie sctxid
    let again (h : Hosted) : Bool := h.isFor to_ requester.die nctxid && h.inc == requester.stamp.sinc
    let wanted (h : Hosted) : List JRec := (h.recs.drop (requester.first - h.first)).take 127
    if !s.fresh? requester.stamp then s.countStale die
    else match s.rings.findSome? fun r => r.hosted.find? fun h => if requester.first = 0 then mine h else again h with
    | none => s.send (.journalRecords to_ requester.die (s.stamp to_) nctxid requester.first [])
    | some h =>
      let rekey (h : Hosted) : Hosted :=
        if mine h then { h with inc := requester.stamp.sinc, spkg := to_, sdie := requester.die, ctx := nctxid } else h
      let s : State := if requester.first = 0 then { s with rings := s.rings.map fun r => { r with hosted := r.hosted.map rekey } } else s
      s.send (.journalRecords to_ requester.die (s.stamp to_) nctxid (max h.first requester.first) (wanted h)))

/-- Writes installed records into the local copy. -/
def copyRecords (x : Stream) : State → Nat → List JRec → State
  | s, _, [] => s
  | s, n, r :: rs => copyRecords x (s.putBytes .pool (x.base + 32 * (n % 2 ^ x.lcap)) (State.recordBytes r)) (n + 1) rs

/-- JOURNAL_FETCH_RESPONSE (R364): the records are installed with RPL set after those that have come, the holder becomes the partner, and the next
ones are asked for, until a response brings none. A window that the new stream cannot hold is installed up to its capacity (log entry 38). -/
def execJournalFetchResponse (die : Nat) (ctxid : BitVec 32) (from_ : Stamp) (run : JRun) (s : State) : Out :=
  .next (if !s.fresh? from_ then s.countStale die
    else match s.stream? die ctxid with
    | some x =>
      match x.replay with
      | none => s
      | some r =>
        if r.holder ≠ from_.spkg.toNat then s
        else if run.recs.isEmpty then s.modStream die ctxid fun y => { y with replay := none }
        else if !x.recs.isEmpty && run.first ≠ x.ji then s
        else
          let new := (run.recs.take (2 ^ x.lcap - x.recs.length)).map fun e => e ||| ((1 : JRec) <<< 27)
          let recs := x.recs ++ new
          let low := if x.recs.isEmpty then run.first else x.jt
          let top := low + recs.length
          let full := 2 ^ x.lcap ≤ recs.length
          let s := (copyRecords x s run.first new).modStream die ctxid fun y =>
            { y with jt := low, ji := top, ja := top, sent := top, sentAt := List.replicate recs.length 0, recs := recs, partner := r.holder,
                     replay := if full then none else y.replay }
          if full then s else s.send (.journalFetch r.holder (s.stamp r.holder) r.spkg r.sdie r.sctx die ctxid top)
    | none => s)

end Sys2Proof.Machine
end

