-- ==== Sys2Proof/Machine/Queues.lean ====
section
/-! DEFINITION. Queue engines: the scanner, packets and their errors, dispatch, completion and signals (R404 to R412, R415, R417). -/

namespace Sys2Proof.Machine

/-! ## Kernel descriptors (Table 14-3) -/

namespace Desc
def nat (d : Desc) (lo n : Nat) : Nat := (d.extractLsb' lo n).toNat
/-- V registers of a group. -/
def vregs (d : Desc) : Nat := 8 * d.nat 0 6
/-- Groups of a workgroup. -/
def groups (d : Desc) : Nat := d.nat 8 6 + 1
def quad (d : Desc) : Bool := d.getLsbD 14
def cores (d : Desc) : Bool := d.getLsbD 15
def super (d : Desc) : Bool := d.getLsbD 16
def defsplit (d : Desc) : Bool := d.getLsbD 17
def aff (d : Desc) : Nat := d.nat 18 2
def rc (d : Desc) : Nat := d.nat 20 4
def sreg (d : Desc) : Nat := d.nat 24 4
def sl1 (d : Desc) : Nat := d.nat 28 5
def entry (d : Desc) : Nat := d.nat 64 64
def bentry (d : Desc) : Nat := d.nat 128 64
def ahbase (d : Desc) : Nat := d.nat 192 64
/-- Signed bytes per step in x, y and z. -/
def step (d : Desc) (k : Nat) : Int := (d.extractLsb' (256 + 32 * k) 32).toInt
def table (d : Desc) : Nat := d.nat 384 64
/-- The pool split that the launch asks for (R17). -/
def split (d : Desc) : Split := if d.defsplit then ⟨10, 16, 6⟩ else ⟨d.sreg, 32 - d.sreg - d.sl1, d.sl1⟩

/-- Error 0x03: a field outside Table 14-3, or an entry that is not a canonical line address (Table 14-5). -/
def valid (d : Desc) : Bool :=
  d.nat 448 1600 == 0 && d.nat 352 32 == 0 && d.nat 33 31 == 0 && d.nat 6 2 == 0
  && 2 ≤ d.nat 0 6 && d.nat 0 6 ≤ 32 && d.aff != 3 && (d.quad || d.groups ≤ 16)
  && (if d.defsplit then d.sreg == 0 && d.sl1 == 0 else 4 ≤ d.sreg && d.sreg ≤ 10 && 2 ≤ d.sl1 && d.sreg + d.sl1 ≤ 32)
  && d.entry % 64 == 0 && d.bentry % 64 == 0 && canonical d.entry && canonical d.bentry && (d.aff != 2 || d.table % 8 == 0)

/-- Groups on each core of a quad workgroup: as even as they divide, lower positions first (R175, log entry 25). -/
def shares (d : Desc) : List Nat := (List.range 4).map fun i => d.groups / 4 + (if i < d.groups % 4 then 1 else 0)
end Desc

namespace State

/-! ## Packet checks (Table 14-5) -/

/-- Whether a packet uses only the fields its TYPE has, with no reserved bit or value, and carries the queue's tag and the ring index. -/
def packetForm (q : HostQueue) (p : Packet) : Bool :=
  let t := p.type
  let signalOnly := p.nat 64 256 == 0 && p.nat 448 16 == 0 && p.nat 472 40 == 0
  p.nat 9 7 == 0 && p.nat 478 2 == 0 && p.nat 486 2 == 0 && (t ≤ 3 || t == 0x10) && p.sigop ≤ 2
  && p.qtag == q.qtag && p.idx == BitVec.ofNat 32 q.ri
  && (if p.lset = 0 then p.lsetn == 0 else 2 ≤ p.lsetn && p.lsetn ≤ 2304)
  && (t == 1 || t == 0x10 || signalOnly) && (t != 2 || p.sigop == 0) && (t != 1 || p.kdesc.toNat % 256 == 0)

/-- Logical cores in the die's core map (R15). -/
def diePresent (s : State) (die : Nat) : Bool := (dieCores die).any fun c => (s.coreAt c).status == .live

/-- The package's index in its Vuvosum. -/
def pkgIndex (s : State) : Nat := s.pkg % 64

/-- Whether a launch may use this package. -/
def pkgAllowed (s : State) (p : Packet) : Bool := p.pkgFirst ≤ s.pkgIndex && s.pkgIndex ≤ p.pkgLast

/-- The dies of this package that a launch may use and that are present. -/
def allowedDies (s : State) (p : Packet) : List Nat :=
  if s.pkgAllowed p then (List.range 8).filter fun d => p.diemask.testBit d && s.diePresent d else []

/-- The other packages of the Vuvosum that a launch may use: those that the peer table names are taken to be present, with all their dies (log
entry 96). -/
def othersAllowed (s : State) (p : Packet) : List Nat := (s.vuvPeers.map (· % 64)).filter fun k => p.pkgFirst ≤ k && k ≤ p.pkgLast

/-- Whether an allowed die of a package of the Vuvosum is present (R417). -/
def presentOn (s : State) (p : Packet) (pkg die : Nat) : Bool :=
  if pkg = s.pkgIndex then (s.allowedDies p).contains die else (s.othersAllowed p).contains pkg && p.diemask.testBit die

/-- Workgroups of a grid. -/
def gridSize (p : Packet) : Nat := p.gridX * p.gridY * p.gridZ

/-- Translation of a signal address by a queue engine (R410). -/
def signalOk (s : State) (q : HostQueue) (kind : AccKind) (va : Nat) : Bool :=
  match s.ctxTables q.ctx with
  | none => false
  | some r => match s.engineTranslate r false kind va with
    | .ok _ => true
    | .fail .. => false

/-- The first error of a packet before its descriptor is read (Table 14-5, log entry 25). -/
def packetError (s : State) (q : HostQueue) (p : Packet) : Option Nat :=
  let t := p.type
  let signals := p.sigop != 0 || t == 2
  if !packetForm q p then some 0x01
  else if signals && p.sigaddr.toNat % 8 != 0 then some 0x07
  else if t = 0x10 && (!q.kq || p.nat 64 8 = 0 || 4 < p.nat 64 8) then some 0x05
  else if t = 1 && (gridSize p = 0 || p.pkgLast < p.pkgFirst || ((s.allowedDies p).isEmpty && (s.othersAllowed p).isEmpty)) then some 0x04
  else if signals && !s.signalOk q (if t = 2 then .load else .store) p.sigaddr.toNat then some 0x07
  else none

/-- Workgroups that a quad with some live cores can hold when empty. -/
def quadCapacity (d : Desc) (live : Nat) : Nat :=
  let per := min 64 (d.split.regs * 262144 / (384 * d.vregs))
  let n := if d.quad then (if live = 4 then per / (d.shares.headD 1) else 0) else live * (per / d.groups)
  if d.bentry != 0 then min n 16 else n

/-- Workgroups that a die of this package can hold when empty. -/
def dieCapacity (s : State) (d : Desc) (die : Nat) : Nat :=
  let live (q : Nat) : Nat := ((List.range 4).filter fun k => (s.coreAt ⟨die, 4 * q + k⟩).status == .live).length
  (List.range 12).foldl (fun n q => n + quadCapacity d (live q)) 0

/-- Error 0x06 (R418): the allowed cores of all allowed dies together cannot hold a co-resident grid. -/
def gridFits (s : State) (p : Packet) (d : Desc) : Bool :=
  let others := (s.othersAllowed p).length
  let here := (s.allowedDies p).foldl (fun n die => n + s.dieCapacity d die) 0
  gridSize p ≤ here + others * ((List.range 8).filter p.diemask.testBit).length * (12 * quadCapacity d 4)

/-- The first error of a launch's descriptor. -/
def descError (s : State) (q : HostQueue) (p : Packet) (d : Desc) : Option Nat :=
  if !d.valid then some 0x03
  else if d.super && !q.kq then some 0x05
  else if (p.lset != 0 && !d.cores) || (d.cores && !s.gridFits p d) then some 0x06
  else none

/-! ## The head of a queue -/

/-- The packet at RI of a slot's queue goes to `k` when the engine may act on it; its errors stop the queue (R405 to R410). `takes` says which
packets the caller acts on. -/
def withHead (s : State) (slot : Nat) (takes : Packet → Bool) (k : State → HostQueue → Packet → State) : State :=
  match s.queueOnSlot slot with
  | none => s
  | some q =>
    if q.state != .mapped || q.wic ≤ q.ri then s
    else
      let got : Option (Packet × State) := match q.inline_ with
        | some p => some (p, s)
        | none => (s.tableRead q.ctx (q.ring.toNat + 64 * (q.ri % 2 ^ q.log2n)) 64).map fun r => (BitVec.ofNat 512 (leNat r.1), r.2)
      match got with
      | none => s.queueStops q 0x08
      | some (p, s) =>
        if !takes p then s
        else match s.packetError q p with
          | some c => s.queueStops q c
          | none => if p.bar && q.ci < q.ri then s else k s q p

/-- The flight of a packet. -/
def flightOf (q : HostQueue) (p : Packet) (launch : Option Nat) : InFlight := ⟨q.ri, p.sigop, p.sigaddr, p.sigval, launch, false, none⟩

/-- The dispatch step (R405): RI passes the packet before any effect of it. -/
def takePacket (s : State) (q : HostQueue) (f : InFlight) : State :=
  s.putQueue { q with ri := q.ri + 1, wic := max q.wic (q.ri + 1), inline_ := none, flights := q.flights ++ [f] }

/-- CI passes the packets that have completed (Table 14-1). -/
def passCi (q : HostQueue) : HostQueue :=
  let open_ := q.flights.filter (!·.done)
  { q with flights := q.flights.dropWhile (·.done), ci := match open_.head? with
      | some f => f.idx
      | none => q.ri }

/-- SIGOP on the signal word (Table 14-2), with the access that is still to be performed; `none` where the address fails its check now (R410). In
aperture 0b10 it is a transaction (R206, R242). On an EMIT page it is held in the store path as every engine write is (R209, R361), by the stream
of the context on its lowest die (log entry 36). -/
def performSignal (s : State) (q : HostQueue) (f : InFlight) : Option (State × Option Nat) :=
  if f.sigop = 0 then some (s, none)
  else match s.ctxTables q.ctx with
    | none => none
    | some r => match s.engineTranslate r false .store f.sigaddr.toNat with
      | .fail .. => none
      | .ok l =>
        let at_ := l.phys f.sigaddr.toNat
        let s := s.markLeaf l true
        if l.apt = 2 && s.hostGone at_ then some ({ s with host := { s.host with pcieErrors := s.host.pcieErrors + 1 } }, none)
        else if l.apt = 2 then
          some (s.sendIo (if f.sigop = 1 then .ioWrite at_ (leBytes 8 f.sigval.toNat) else .ioAtomic at_ 0 .n64 f.sigval 0), none)
        else if l.emit then
          let die := (((List.range 8).find? fun d => (s.stream? d q.ctx).isSome)).getD 0
          let w := s.enqueue (engineCore die) 0 l.space at_ 8
            (if f.sigop = 1 then .write (leBytes 8 f.sigval.toNat) else .rmw 0 .n64 f.sigval 0 none) []
            (some (q.ctx, s.gateOf die q.ctx))
          some (w.2, some w.1)
        else
          let old := s.wordAt l.space at_ 8
          some (s.putWord l.space at_ 8 (if f.sigop = 1 then f.sigval.toNat else old + f.sigval.toNat), none)

/-- A packet completes: its signal, then, once that is performed, CI; a signal that fails stops the queue below the packet (R410, R415). -/
def completePacket (s : State) (rec_ idx : Nat) : State :=
  match s.queueAt rec_ with
  | none => s
  | some q =>
    match q.flights.find? (·.idx == idx) with
    | none => s
    | some f =>
      match s.performSignal q f with
      | none => s.queueStops q 0x07
      | some (s, w) => s.putQueue (passCi { q with flights := q.flights.map fun x =>
          if x.idx == idx then { x with done := w.isNone, write := w } else x })

/-- The packets whose signals have been performed let CI pass. -/
def settleSignals (s : State) : State :=
  let passed (f : InFlight) : Bool := !f.done && (match f.write with
    | some id => !s.outstanding id
    | none => false)
  (s.host.queues.filter fun q => q.flights.any passed).foldl (fun s q =>
    s.putQueue (passCi { q with flights := q.flights.map fun f => if passed f then { f with done := true, write := none } else f })) s

/-! ## Homes of workgroups (R417) -/

/-- The `k`-th set bit of a die mask. -/
def nthDie (mask k : Nat) : Nat := (((List.range 8).filter mask.testBit)[k]?).getD 0

/-- Coordinates of a workgroup. -/
def coordsOf (p : Packet) (w : Nat) : Nat × Nat × Nat := (w % p.gridX, w / p.gridX % p.gridY, w / (p.gridX * p.gridY))

/-- The placement address of AFF 0 and AFF 1. -/
def placementAddress (s : State) (q : HostQueue) (p : Packet) (d : Desc) (w : Nat) : Nat :=
  let linear := w * 65536 % 2 ^ 52
  if d.aff = 1 then
    let c := coordsOf p w
    let va := ((d.ahbase : Int) + c.1 * d.step 0 + c.2.1 * d.step 1 + c.2.2 * d.step 2) % 2 ^ 64 |>.toNat
    match (s.ctxTables q.ctx).map fun r => s.engineTranslate r false .load va with
    | some (.ok l) => if l.apt = 0 then l.phys va else linear
    | _ => linear
  else linear

/-- The home of a workgroup before restriction: package index, die, preferred quad and named core. -/
def rawHome (s : State) (q : HostQueue) (p : Packet) (d : Desc) (w : Nat) : Nat × Nat × Option Nat × Option Nat :=
  let hashed : Nat × Nat × Option Nat × Option Nat :=
    let h := s.homeOf (s.placementAddress q p d w / 65536)
    (h.1.val, h.2.1.val, if d.aff = 1 then some (h.2.2.val / 2) else none, none)
  if d.aff = 2 then
    match s.tableRead q.ctx (d.table + 2 * w) 2 with
    | some (bs, _) =>
      let e := leNat bs
      (e % 64, e / 64 % 8, none, if e / 32768 = 1 then none else some (e / 512 % 64))
    | none => hashed
  else hashed

/-- The next present allowed die from one: on its package in ascending order with wrapping, then on the next allowed packages in the same way
(R417). -/
def nextPresent (s : State) (p : Packet) (pkg die : Nat) : Option (Nat × Nat) :=
  let n := p.pkgLast + 1 - p.pkgFirst
  (List.range n).findSome? fun j =>
    let k := p.pkgFirst + (pkg - p.pkgFirst + j) % n
    (((List.range 8).map fun i => (die + i) % 8).find? (s.presentOn p k)).map fun d => (k, d)

/-- The home of a workgroup with DIEMASK and the package range applied (R417): the package index, the die and the entry. A place that the
restriction changes keeps no preferred quad, but the core that a table names. -/
def homeOfWg (s : State) (q : HostQueue) (p : Packet) (d : Desc) (w : Nat) : Nat × Nat × PendWg :=
  let h := s.rawHome q p d w
  let n := p.pkgLast + 1 - p.pkgFirst
  let mask := p.diemask
  let m := ((List.range 8).filter mask.testBit).length
  let pkg := if p.pkgFirst ≤ h.1 && h.1 ≤ p.pkgLast then h.1 else p.pkgFirst + h.1 % n
  let die := if mask.testBit h.2.1 then h.2.1 else nthDie mask (h.2.1 % m)
  let place := (s.nextPresent p pkg die).getD (pkg, die)
  (place.1, place.2, ⟨w, if place == (h.1, h.2.1) then h.2.2.1 else none, h.2.2.2⟩)

/-- A workgroup of a launch as another package's distributors are given it. -/
def shareOf (s : State) (l : Launch) (die : Nat) (p : PendWg) : Share :=
  let o := l.origin.getD (s.pkg, l.lid)
  ⟨o.1, o.2, l.ctx, l.part, l.idx, l.packet, l.desc, die, p.w, p.pref, p.named⟩

/-- A launch goes to the distributors (R410, R417, R418): this package's share is listed by die, the rest leaves. -/
def distribute (s : State) (q : HostQueue) (p : Packet) (d : Desc) (part : Byte) : State :=
  let (lid, s) := s.fresh
  let homes := (List.range (gridSize p)).map (s.homeOfWg q p d)
  let here := homes.filter fun h => h.1 == s.pkgIndex
  let pending := (List.range 8).map fun k => (k, (here.filter fun h => h.2.1 == k).map (·.2.2))
  let away := homes.filter fun h => h.1 != s.pkgIndex
  let l : Launch := ⟨lid, q.rec_, q.ri, q.ctx, part, p, d, pending, false, none, here.length, away.length, [], false, [], false⟩
  let s := s.takePacket q (flightOf q p (some lid))
  let s := { s with host := { s.host with launches := s.host.launches ++ [l] } }
  away.foldl (fun s h => s.send (.share (64 * s.vuv + h.1) (shareOf s l h.2.1 h.2.2))) s

/-- Whether the head of a queue is a launch of a linked set that only the others of its set hold back (R410). -/
def linkedHead (s : State) (set : Nat) (q : HostQueue) : Bool :=
  let got : Option Packet := match q.inline_ with
    | some p => some p
    | none => (s.tableRead q.ctx (q.ring.toNat + 64 * (q.ri % 2 ^ q.log2n)) 64).map fun r => BitVec.ofNat 512 (leNat r.1)
  q.slot.isSome && q.state == .mapped && q.ri < q.wic && (match got with
    | none => false
    | some p => p.type == 1 && p.lset == set && (s.packetError q p).isNone && !(p.bar && q.ci < q.ri)
        && (match s.tableRead q.ctx p.kdesc.toNat 256 with
          | some (bs, _) => (s.descError q p (BitVec.ofNat 2048 (leNat bs))).isNone
          | none => false))

/-- The linked set of a number. -/
def linkedAt (s : State) (set : Nat) : LinkedSet := (s.host.linked.find? (·.set == set)).getD ⟨set, 0, [], 0⟩

/-- Changes a linked set; one that has nothing more to do is forgotten. -/
def setLinked (s : State) (x : LinkedSet) (drop : Bool) : State :=
  let rest := s.host.linked.filter (·.set != x.set)
  { s with host := { s.host with linked := if drop then rest else rest ++ [x] } }

/-- The other packages of the pod are told how many launches of a set stand ready here. -/
def tellLinked (s : State) (set n : Nat) : State :=
  let x := s.linkedAt set
  if x.told = n then s
  else s.podPeers.foldl (fun s p => s.send (.notice p (s.stamp p) (.linked set n))) (s.setLinked { x with told := n } false)

/-- A launch of a linked set at its head: `k` dispatches it once all of the set stand ready at the heads of their queues in the pod, and then each
of this package's in its turn (R410, log entry 96). -/
def whenLinked (s : State) (p : Packet) (k : State → State) : State :=
  let n := (s.host.queues.filter (s.linkedHead p.lset)).length
  let s := s.tellLinked p.lset n
  let x := s.linkedAt p.lset
  let go := if x.go ≠ 0 then x.go else if p.lsetn ≤ n + x.theirs.foldl (fun n y => n + y.2) 0 then n else 0
  if go = 0 then s else k (s.setLinked { x with go := go - 1 } (go = 1))

/-- A launch packet at the head: its descriptor is read and checked, and it is dispatched, a linked one with the others of its set (R409, R410). -/
def launchHead (s : State) (q : HostQueue) (p : Packet) : State :=
  match s.tableRead q.ctx p.kdesc.toNat 256 with
  | none => s.queueStops q 0x02
  | some (bs, s) =>
    let d : Desc := BitVec.ofNat 2048 (leNat bs)
    match s.descError q p d with
    | some c => s.queueStops q c
    | none =>
      let part := ((s.ctxTables q.ctx).map (·.part)).getD 0
      if p.lset = 0 then s.distribute q p d part else s.whenLinked p fun s => s.distribute q p d part

/-- Packets that another event acts on. -/
def otherPacket (p : Packet) : Bool := p.type == 2 || p.type == 3 || (p.type == 0x10 && 1 ≤ p.nat 64 8 && p.nat 64 8 ≤ 4)

/-- The signal packets whose earlier packets have all completed perform their signal (R408). -/
def ripeSignal (q : HostQueue) : Option Nat :=
  match q.flights.head? with
  | some f => if q.state == .mapped && !f.done && f.write.isNone && f.launch.isNone then some f.idx else none
  | none => none

end State

/-- WINDOW_STORE (R406, R434): a store into a launch window, or the update of a queue's write index by the kernel's pair: the former holder's, for a
kernel queue, is dropped and counted, and any other is performed at the word's home. -/
def execWindowStore (at_ : WindowTarget) (data : BitVec 512) (from_ : Option Nat) (s : State) : Out :=
  .next (match at_ with
    | .slot k => s.windowArrives k data from_
    | .index rec_ => match s.queueAt rec_ with
      | none => s
      | some q =>
        if s.formerHolder from_ && q.kq then s.putQueue { q with drops := q.drops + 1 }
        else match (s.ctxTables q.ctx).map fun r => s.engineTranslate r false .store q.wiaddr.toNat with
          | some (.ok l) => if l.apt = 0 then s.putWord .pool (l.phys q.wiaddr.toNat) 8 (data.toNat % 2 ^ 64) else s
          | _ => s)

/-- QUEUE_SCAN (R407): WI is read when its time has come. -/
def execQueueScan (slot : Nat) (s : State) : Out :=
  .next (match s.queueOnSlot slot with
    | none => s
    | some q =>
      if q.state != .mapped || s.dtime < q.next then s
      else match s.tableRead q.ctx q.wiaddr.toNat 8 with
        | none => s.queueStops q 0x08
        | some (bs, s) =>
          let wi := leNat bs
          let interval := if wi ≤ q.ri then min (2 * q.interval) 1024000 else 1000
          s.putQueue { q with wic := max q.wic wi, interval := interval, next := s.dtime + interval })

/-- LAUNCH_DISPATCH (R405, R408 to R410, R415, R417): a launch or a no-operation packet, or a packet that names neither and is in error. -/
def execLaunchDispatch (slot : Nat) (s : State) : Out :=
  .next (s.withHead slot (fun p => !State.otherPacket p) fun s q p =>
    if p.type = 1 then s.launchHead q p
    else (s.takePacket q (State.flightOf q p none)).completePacket q.rec_ q.ri)

/-- WAIT_PACKET (R408): it holds dispatch until its word is reached, and then completes. -/
def execWaitPacket (slot : Nat) (s : State) : Out :=
  .next (s.withHead slot (fun p => p.type == 2) fun s q p =>
    match s.tableRead q.ctx p.sigaddr.toNat 8 with
    | none => s.queueStops q 0x07
    | some (bs, s) =>
      if State.reached (BitVec.ofNat 64 (leNat bs)) p.sigval then (s.takePacket q (State.flightOf q p none)).completePacket q.rec_ q.ri else s)

/-- SIGNAL_PACKET (R408): the oldest packet of the queue performs its signal, or the next packet is dispatched as a signal. -/
def execSignalPacket (slot : Nat) (s : State) : Out :=
  .next (match (s.queueOnSlot slot).bind fun q => (State.ripeSignal q).map fun i => (q.rec_, i) with
    | some (rec_, i) => s.completePacket rec_ i
    | none => s.withHead slot (fun p => p.type == 3) fun s q p =>
        let s := s.takePacket q (State.flightOf q p none)
        if q.ci = q.ri then s.completePacket q.rec_ q.ri else s)

end Sys2Proof.Machine
end

