-- ==== Sys2Proof/Machine/Trailer.lean ====
section
/-! DEFINITION. The trailer: the end of a stroke, the effects of tail instructions, and the implicit join that may follow
(R36 to R40, R82, R83, R89, R179). -/

namespace Sys2Proof.Machine

namespace State

/-- YLD (R103): the group is not ready for some clocks; with none it goes behind every group that is ready. -/
def yieldFor (s : State) (clocks : Nat) : State :=
  if clocks = 0 then
    let others := (s.groups.filter fun x => x.core == s.g.core && x.gid != s.g.gid && s.isReady x && !s.held x).map (·.gid)
    s.modG fun g => { g with behind := others }
  else s.modG fun g => { g with wait := .yld clocks }

/-- What a tail instruction does when its trailer has retired (R38); PC is at next. -/
def applyTail (s : State) (t : Tail) : State :=
  match t with
  | .none => s
  | .jump target => s.modG fun g => { g with pc := target }
  | .brp t f target => s.brpAction t f target
  | .join => s.joinAction
  | .call target => (s.pushEntry 2 s.g.pc 0).modG fun g => { g with pc := target }
  | .ret => s.retAction
  | .exit x => s.exitAction x
  | .trap code => s.trap 0x0D s.g.pc (some (code.setWidth 64)) none
  | .yld n => s.yieldFor n
  | .kret => s.kretReturn
  | .regroup k => (s.modG fun g => { g with wait := .step }).settleMove s.g.gid k
  | .tsus _ slot _ => s.tsusAction slot
  | .tend scope discard => (s.retireTask scope discard).endGroup
  | .arm t =>
    let core := s.g.core
    (s.modSwap core fun w => { w with armed := some t }).swapTime core

/-- The steps of the stroke that the trailer still waits for (R179). -/
def stepsOpen (s : State) (g : Group) : Bool :=
  match g.stroke with
  | some st => st.steps.any fun x => !s.neighboursIssued g x.1
  | none => false

/-- The first failed step of the stroke. -/
def failedStep (g : Group) : Option (Nat × DWord) :=
  match g.stroke with
  | some st => st.steps.find? fun x => stepFails g x.1
  | none => none

/-- A step that differs from a neighbour's traps at the trailer, and none of the stroke's failed steps writes its destination (R179). The
PC at which the trap is taken is the trailer's, so that a KRET to TEPC begins a stroke at the step and issues it again (R375; log entry 88,
DEDUCED). -/
def stepMismatch (s : State) (at_ : DWord) : State :=
  let failed : List Nat := match s.g.stroke with
    | some st => (st.steps.filter fun (x : Nat × DWord) => stepFails s.g x.1).map (·.1)
    | none => []
  (s.modG fun g => { g with deferred := g.deferred.filter fun d => match d.step with
      | some k => !failed.contains k
      | none => true }).trap 0x14 at_ (some 0x20) none

/-- A stroke that left EM = 0 joins, or the group ends (R89). -/
def joinOrEnd (s : State) : State :=
  if s.g.wait != Wait.ready || s.g.em != 0 then s
  else match (s.modG fun g => { g with stroke := none }).settleJoin with
    | (s, true) => s.finishGroup
    | (s, false) => s

/-- The trailer retires (R36, R38, R83): the issuer that held the group takes the next ready group, the tail takes effect, and the group is
ready again unless the tail makes it wait. -/
def retireTrailer (s : State) : State :=
  let tail := match s.g.stroke with
    | some st => st.tail
    | none => .none
  let core := s.g.core
  let s := (s.modG fun g => { g with pc := g.pc + 1, stroke := none, wait := .step }).release s.g
  let s := (s.issuerSelect core).modG fun g => { g with wait := .ready }
  ((s.applyTail tail).joinOrEnd).issuerSelect core

end State

/-- TRL (R36, R40, R179). -/
def execTrl (_ : Trailer) (s : State) : Out :=
  .next (if s.stepsOpen s.g then s.waitOn .step
    else match State.failedStep s.g with
      | some (_, at_) => s.stepMismatch at_
      | none => s.retireTrailer)

end Sys2Proof.Machine
end

