-- ==== Sys2Proof/Machine/Waits.lean ====
section
/-! DEFINITION. Waiting groups that become ready, delivery at points, and what the fetch unit, the walk scheduler and the caches do
of themselves (R31, R34, R102, R103, R205, R247, R299, R376, R448). -/

namespace Sys2Proof.Machine

namespace State

/-- .ctl of the BAR at which a group waits. -/
def waitingCtl (g : Group) : Bool :=
  match decode (currentSlot g) with
  | .ok (.bar f) => f.sub.getLsbD 7
  | _ => false

/-- Whether the condition for which a group waits holds (R247). A wait for room in a unit, or for a journal answer, ends whenever the
instruction may find its condition changed: it evaluates it again. -/
def waitDone (s : State) (g : Group) : Bool :=
  match g.wait with
  | .bar scope => s.barDone g scope (waitingCtl g)
  | .nbar b => s.nbarDone g b (waitingCtl g)
  | .fwt t => fwtDone g t
  | .fnc => g.fc - g.fd < 16
  | .wtctScr off t => reached (s.counterAt g off) t
  | .wtctQ q t =>
    let x := s.queueOf g.core g.ctx q
    x.state == .error || x.state == .unconfigured || queueReached x t
  | .hlt => g.signal.isSome
  | .ewt n => g.ec ≤ n
  | .ec => g.ec < 32
  | .drain ids => !(ids.any fun i => s.outstanding i || s.fabric.tlbis.any (·.1 == i))
  | .step => g.stroke.isSome && !s.stepsOpen g
  | .room | .journal => true
  | _ => false

/-- Whether a group stands at a point where an error or a signal may reach it (R70, R247, R299, R376). -/
def atPoint (g : Group) : Bool :=
  atStart g || Wait.isPoint g.wait ||
  (match g.wait with
    | .hlt => true
    | .yld _ => g.stroke.isNone
    | .step => g.stroke.isSome
    | _ => false)

/-- The code sector of a line comes into L1; a copy that fails parity is dropped and fetched once more (R34). -/
def fetchSector (s : State) (g : Group) (va : Nat) : State :=
  match s.translate g.core (s.regsOf g) g.trapState.mode .fetch va with
  | .fail .. => s
  | .ok l =>
    let s := s.useLeaf g.core (s.regsOf g) l false
    if l.apt ≠ 0 then s
    else
      let sector := l.phys va / 64
      let s := s.l1Fill g.core sector
      if (s.fetchLine g.core l (va / 64 * 64)).parityOk then s else (s.l1Drop g.core (· == sector)).l1Fill g.core sector

end State

/-- WAIT_RESUME (R247): a waiting group to which an error stands is given it (R70, R299); one whose condition holds becomes ready; a parked one does so when a slot is free (R212). -/
def execWaitResume (gid : Nat) (s : State) : Out :=
  .next (match s.group? gid with
    | some g =>
      if g.wait == Wait.parked then
        (match g.park with
          | some p => if p.npg ≤ p.replies || p.fail.isSome then s.unpark gid else s
          | none => s)
      else if s.errorWaits g then s.deliverWaiting gid
      else if s.waitDone g then s.wake gid else s
    | none => s)

/-- WAITT_WAKE (R102). -/
def execWaittWake (gid : Nat) (s : State) : Out :=
  .next (match s.group? gid with
    | some g =>
      match g.wait with
      | .waitt t =>
        if s.errorWaits g then s.deliverWaiting gid
        else if t ≤ s.localTime g.core then s.wake gid else s
      | _ => s
    | none => s)

/-- YLD_WAKE (R103): the clock count has expired (log entry 15), and the group is ready behind those that are ready now. -/
def execYldWake (gid : Nat) (s : State) : Out :=
  .next (match s.group? gid with
    | some g =>
      match g.wait with
      | .yld _ =>
        let others := (s.groups.filter fun x => x.core == g.core && x.gid != gid && s.isReady x && !s.held x).map (·.gid)
        (s.modGroup gid fun g => { g with behind := others }).wake gid
      | _ => s
    | none => s)

/-- SIGNAL_DELIVERY (R376). -/
def execSignalDelivery (gid : Nat) (s : State) : Out :=
  .next (match s.group? gid with
    | some g =>
      match g.signal with
      | some v =>
        if State.atPoint g && g.wait != Wait.hlt && !g.trapState.tip && g.async.isEmpty && s.inCore g then
          ((s.focus gid).deliverSignal v).issuerSelect g.core
        else s
      | none => s
    | none => s)

/-- ASYNC_ERROR_DELIVERY (R299). -/
def execAsyncErrorDelivery (gid : Nat) (s : State) : Out :=
  .next (match s.group? gid with
    | some g =>
      match g.async with
      | e :: rest => if State.atPoint g && s.inCore g then ((s.focus gid).deliverError e rest).issuerSelect g.core else s
      | [] => s
    | none => s)

/-- FETCH_LINE (R34, R207): a line that a group will need comes into its core. -/
def execFetchLine (gid : Nat) (va : DWord) (s : State) : Out :=
  .next (match s.group? gid with
    | some g => if s.inCore g then s.fetchSector g va.toNat else s
    | none => s)

/-- The die whose walk scheduler serves a requester. -/
def walkerDie : Walker → Nat
  | .core c => c.die
  | .fetchUnit q => q.die

/-- WALK (R203, R205, R277): a walk in flight completes, with A, and M for a write, set, and the requester's TLB holds the leaf. A page that
is absent, or fails a check, loads nothing. -/
def execWalk (who : Walker) (va : DWord) (write : Bool) (s : State) : Out :=
  .next (let die := walkerDie who
    match (s.dieAt die).walks.find? fun w => w.started && w.who == who && w.page == va.toNat / 65536 && w.write == write with
    | none => s
    | some w =>
      let s := (s.modDie die fun d => { d with walks := d.walks.erase w }).startWalks die
      let r : CtxRegs := ⟨w.ctx, w.part, w.ptbase, 0, 0, []⟩
      let kind : AccKind := match who, w.write with
        | .core _, true => .store
        | .core _, false => .load
        | .fetchUnit _, true => .engineWrite
        | .fetchUnit _, false => .engineRead
      match s.engineTranslate r w.super kind (65536 * w.page) with
      | .fail .. => s
      | .ok l => match who with
        | .core c => if w.mark then s.fillTlb c r l w.write else s.loadTlb c r l l.bits
        | .fetchUnit q => s.fillAhead q r l w.write)

/-- CACHE_EVICTION (R206, R448). -/
def execCacheEviction (e : Evict) (s : State) : Out :=
  .next (match e with
    | .l1 c sector => s.l1Drop c (· == sector)
    | .l2 line => if s.pinned line then s else (s.writeBack (256 * line) 256).evictLoose line
    | .tlb c vpn => s.modCore c fun x => { x with tlb := x.tlb.filter fun t => !(t.va ≤ 65536 * vpn && 65536 * vpn < t.va + t.size) })

end Sys2Proof.Machine
end

