-- ==== Sys2Proof/Machine/System.lean ====
section
/-! DEFINITION. System instructions, fault replies, machine checks, core fencing and partitions (R212, R371 to R401, R423). -/

namespace Sys2Proof.Machine

namespace State

/-- A parameter error of an SY instruction (Table 13-8). -/
def systemTrap (s : State) (sub : Nat) : State := s.engineTrap sub 0xFF

/-- An instruction that first completes every earlier instruction of its group (R394): it stalls while a result is in flight. -/
def serialised (s : State) (k : State → State) : State := if s.g.deferred.isEmpty then k s else s

/-! ## Control and status registers (R377, R378) -/

/-- The value of a CSR as the issuing group reads it. -/
def csrRead (s : State) (n : Nat) : DWord :=
  let g := s.g
  let t := g.trapState
  let r := s.regsOf g
  match n with
  | 0x000 => r.tvb
  | 0x001 => t.tcause.setWidth 64
  | 0x002 => t.tepc
  | 0x003 => t.tval
  | 0x004 => (t.tlane.extractLsb' 0 32).setWidth 64
  | 0x005 => (t.tlane.extractLsb' 32 32).setWidth 64
  | 0x006 => (t.tlane.extractLsb' 64 32).setWidth 64
  | 0x007 => (kstat g).setWidth 64
  | 0x010 => r.ctx.setWidth 64
  | 0x011 => r.ptbase
  | 0x012 => r.part.setWidth 64
  | 0x013 => r.scopetab
  | _ => BitVec.ofNat 64 (s.localTime g.core)

/-- The trap state after a CSR write of a group; read-only and reserved bits keep their values (R4, R373, R377, R378). -/
def csrTrap (t : TrapState) (n : Nat) (x : DWord) : TrapState :=
  let lane (k : Nat) : Mask :=
    (t.tlane &&& ~~~(((0xFFFFFFFF : Mask)) <<< (32 * k))) ||| (((x.setWidth 32).setWidth 96) <<< (32 * k))
  match n with
  | 0x001 => { t with tcause := x.setWidth 32 &&& 0x1FF }
  | 0x002 => { t with tepc := x }
  | 0x003 => { t with tval := x }
  | 0x004 => { t with tlane := lane 0 }
  | 0x005 => { t with tlane := lane 1 }
  | 0x006 => { t with tlane := lane 2 }
  | 0x007 => { t with pmode := x.getLsbD 30, tip := x.getLsbD 29 }
  | _ => t

/-- A CSR write of the issuing group (R199, R374, R377). -/
def csrWrite (s : State) (n : Nat) (x : DWord) : State :=
  let core (f : CtxRegs → CtxRegs) : State := s.modCore s.g.core fun c => { c with regs := f c.regs }
  match n with
  | 0x000 => core fun r => { r with tvb := x &&& ~~~0xFFFF }
  | 0x011 => core fun r => { r with ptbase := x &&& 0x000FFFFFFFE00000 }
  | 0x013 =>
    let t := x &&& 0x000FFFFFFFFFF800
    let h := s.hopsAt t
    core fun r => { r with scopetab := t, hops := h }
  | 0x007 => s.modG fun g => { g with trapState := csrTrap g.trapState n x, flags := x.extractLsb' 0 7 }
  | _ => s.modG fun g => { g with trapState := csrTrap g.trapState n x }

/-- CSRW (R394): the old value goes to D, then the write, set or clear is made. -/
def csrw (s : State) (i : Instr) (f : Fields) : State :=
  s.issue i f true true fun s _ => s.serialised fun s =>
    let n := f.csrNum
    let wide := f.csrWide
    let src := s.g.intOperand wide f.a 0
    let old := s.csrRead n
    let new := match (f.sub.extractLsb' 0 2).toNat with
      | 0 => src
      | 1 => old ||| src
      | _ => old &&& ~~~src
    (((s.modG fun g => g.sput wide f.d.toNat old).csrWrite n new).retire i)

/-! ## TLBI (R395) -/

end State

end Sys2Proof.Machine

/-- The entries that a TLBI drops. -/
def Sys2Proof.TlbiKind.drops : Sys2Proof.TlbiKind → Sys2Proof.Machine.TlbEntry → Bool
  | .page va n k, e => Sys2Proof.Machine.overlaps e.va e.size (va / 65536 * 65536) (65536 * n) && (e.ctx == none || e.ctx == some k)
  | .ctx c, e => e.ctx == some c
  | .part p, e => e.part == p
  | .all, _ => true

namespace Sys2Proof.Machine

namespace State

/-- Drops the TLB entries that a test selects: in one core's TLB alone, or in those of every core and tile fetch unit of the package. -/
def dropTlb (s : State) (only : Option CoreId) (p : TlbEntry → Bool) : State :=
  { s with
    cores := s.cores.map fun c => if only.isNone || only == some c.id then { c with tlb := c.tlb.filter fun e => !p e } else c
    engines := s.engines.map fun q => if only.isNone then { q with tlb := q.tlb.filter fun e => !p e } else q }

/-- Whether an entry translates to the location of an access. -/
def entryCovers (e : TlbEntry) (p : Pending) : Bool :=
  let l : Leaf := ⟨e.leaf, e.at_, e.va, e.size⟩
  l.space == p.space && overlaps (l.phys e.va) e.size p.off p.size

/-- Whether an access of the store path may have been translated through an entry that a test selects: such an entry of its core's TLB reaches
its location, or none of the TLB does, so that its own is gone. The engines keep none, and every write of theirs counts (R395, log entry 97). -/
def throughDropped (s : State) (only : Option CoreId) (p : TlbEntry → Bool) (e : Pending) : Bool :=
  let tlb := (s.coreAt e.core).tlb
  e.gate.isNone && !e.space.isLocal && e.effect != .confirm &&
    (if 64 ≤ e.core.core then only.isNone
     else (only.isNone || only == some e.core) && (tlb.any (fun x => p x && entryCovers x e) || !tlb.any fun x => entryCovers x e))

/-- The accesses through what a TLBI drops; writes held at the EMIT gate keep their locations (R209, R395). -/
def tlbiNeeds (s : State) (only : Option CoreId) (p : TlbEntry → Bool) : List Nat :=
  (s.stores.filter (s.throughDropped only p)).map (·.id)

/-- Other packages are told of a TLBI, and each has to answer. -/
def askTlbi (s : State) (id : Nat) (k : TlbiKind) : State :=
  let ps := s.vuvPeers
  let s : State := { s with fabric := { s.fabric with tlbis := s.fabric.tlbis ++ ps.map fun p => (id, p) } }
  ps.foldl (fun s p => s.send (.notice p (s.stamp p) (.tlbi id k))) s

/-- TLBI after its checks: the entries go, here and, without .core, in the Vuvosum's other packages, and the group waits until every access through
one of them has been performed. The instruction issues again once they have, and completes. -/
def tlbi (s : State) (i : Instr) (f : Fields) (k : TlbiKind) : State :=
  let only := if f.sub.getLsbD 2 then some s.g.core else none
  if (s.g.captured.map (·.1)) = some s.g.pc then (s.modG fun g => { g with captured := none }).retire i
  else
    let needs := s.tlbiNeeds only k.drops
    let s := s.dropTlb only k.drops
    let far := only.isNone && !s.vuvPeers.isEmpty
    if needs.isEmpty && !far then s.retire i
    else
      let (id, s) := s.fresh
      let s := if far then s.askTlbi id k else s
      (s.modG fun g => { g with captured := some (g.pc, id) }).waitOn (.drain (needs ++ if far then [id] else []))

/-- Another package's TLBI: what it names is dropped here, and it is answered once the accesses through it are performed (R395). -/
def farTlbi (s : State) (pkg id : Nat) (k : TlbiKind) : State :=
  let needs := s.tlbiNeeds none k.drops
  let s := s.dropTlb none k.drops
  { s with fabric := { s.fabric with farWaits := s.fabric.farWaits ++ [⟨pkg, .tlbiDone id, needs⟩] } }

/-- Other packages are answered once what they wait for here is performed. -/
def settleFar (s : State) : State :=
  let open_ (t : FarWait) : Bool := t.needs.any s.outstanding
  let done := s.fabric.farWaits.filter (!open_ ·)
  if done.isEmpty then s
  else
    let s' : State := { s with fabric := { s.fabric with farWaits := s.fabric.farWaits.filter open_ } }
    done.foldl (fun s t => s.send (.notice t.pkg (s.stamp t.pkg) t.reply)) s'

/-! ## SWCX (R379, R382, R396) -/

/-- The cores on which an SWCX acts. -/
def swcxCores (s : State) (f : Fields) : List CoreId :=
  if f.sub.getLsbD 2 then [s.g.core] else (dieCores s.g.core.die).filter fun c => (s.coreAt c).status == .live

/-- Whether a core refuses a load: it is armed or still spilling (R379). -/
def loadRefused (s : State) (core : CoreId) : Bool :=
  let w := (s.coreAt core).swap
  w.armed.isSome || w.spilling.isSome

/-- Whether a core has no load to arm for (Table 13-8). -/
def noLoad (s : State) (core : CoreId) : Bool :=
  let l := (s.coreAt core).swap.load
  l == .idle || l == .failed

/-- A core is armed; a time already passed swaps it at once (R396). -/
def armCore (s : State) (t : Nat) (core : CoreId) : State := (s.modSwap core fun w => { w with armed := some t }).swapTime core

/-- A core that has not reached its time is disarmed (R382). -/
def disarm (s : State) (core : CoreId) : State :=
  match (s.coreAt core).swap.armed with
  | some t => if s.localTime core < t then s.modSwap core fun w => { w with armed := none } else s
  | none => s

/-! ## ENGR (R397) -/

/-- The load and swap status of a core (Table 13-9a). -/
def swapStatus (w : SwapUnit) : DWord :=
  if w.load == .failed then BitVec.ofNat 64 (5 + 256 * (w.failCode % 256))
  else if w.armed.isSome then 3
  else if w.load == .loading then 1
  else if w.load == .loaded then 2
  else if w.spilling.isSome then 4
  else 0

/-- The value of a selector (Table 13-9a). -/
def engrValue (s : State) (sel : Nat) (x : BitVec 32) : DWord :=
  let g := s.g
  let die := s.dieAt g.core.die
  let log := s.errLog g.core g.ctx
  let num (n : Nat) : DWord := BitVec.ofNat 64 n
  match sel with
  | 0 =>
    match log.entries[(x.extractLsb' 0 6).toNat]? with
    | none => 0
    | some e => match (x.extractLsb' 6 3).toNat with
      | 0 => e.w0
      | 1 => e.w1
      | 2 => e.w2
      | _ => 0
  | 1 => num log.count
  | 2 => num (((die.streaming.find? (·.1 == g.ctx)).map (·.2)).getD 0)
  | 3 => num (((s.stream? g.core.die x).map (·.disagree)).getD 0)
  | 4 => num (((s.stream? g.core.die x).map (·.replayDisagree)).getD 0)
  | 5 => num (((s.slotAt x.toNat).map (·.dups)).getD 0)
  | 6 => num (s.fabric.stale.getD x.toNat 0)
  | 7 => (die.mcLog.getD (x.extractLsb' 0 8).toNat 0).extractLsb' (64 * (x.extractLsb' 8 2).toNat) 64
  | 8 => num s.fq.prod
  | 9 => num die.droppedReplies
  | 10 =>
    let es := (s.engineAt ⟨g.core.die, g.core.core / 4⟩).entries.filter fun e => e.ctx == g.ctx && e.seqNo == (x.extractLsb' 0 4).toNat
    match es[(x.extractLsb' 4 3).toNat]? with
    | some e => progressWord e (x.extractLsb' 7 4).toNat
    | none => 0
  | 11 => num die.droppedSignals
  | 12 => num die.lateSwaps
  | 13 => if x < 48 then swapStatus (s.coreAt ⟨g.core.die, x.toNat⟩).swap else 0
  | _ => 0

/-! ## Fault replies (R387) -/

/-- The sequencer of a workgroup gets the answer to a stalled fetch or read (R290, R450). -/
def sequencerReply (s : State) (wid : Nat) (tag : BitVec 16) (va : Nat) (fail : Option Nat) : State :=
  let w := s.wgOf wid
  match w.seq with
  | none => s
  | some q =>
    match q.wait with
    | .read t fetch =>
      if t != tag then s
      else match fail with
        | none => s.modWg wid fun w => { w with seq := w.seq.map fun q => { q with wait := .none } }
        | some cause =>
          if fetch then (s.logError w.first w.ctx 0x06 0xFF cause 0 0 (BitVec.ofNat 64 va) q.pc).seqFault wid 0x06 q.pc
          else s.seqFault wid 0x16 q.pc
    | _ => s

/-- The answer for a finished record whose output write waited for a tag: it goes on, or drops the output (R339). -/
def settleOutput (tag : BitVec 16) (failed : Bool) (f : Finished) : Finished :=
  if f.tag == some tag then { f with tag := none, dropOut := f.dropOut || failed } else f

/-- A tag is answered: its owner goes on, or fails with a cause (R212, R281, R306, R310, R387). -/
def answerTag (s : State) (t : FaultTag) (fail : Option Nat) : State :=
  match t.owner with
  | .group gid =>
    let s := s.modGroup gid fun g => { g with park := g.park.map fun p =>
      if p.tag == t.tag then { p with replies := p.npg, fail := fail, va := if fail.isSome then BitVec.ofNat 64 t.va else p.va } else p }
    if (((s.group? gid).bind (·.park)).map (·.tag)) == some t.tag then s.unpark gid else s
  | .queue core q =>
    let x := s.queueOf core t.ctx q
    if x.tag != some t.tag then s
    else match fail with
      | none => s.setQueue { x with tag := none }
      | some cause => s.queueError { x with tag := none } 0x24 cause t.va
  | .command id =>
    match s.command? id with
    | none => s
    | some c => match fail with
      | none => s.modCommand id fun c => { c with tag := none }
      | some cause => s.failCommand c 0x27 cause t.va
  | .engine q age =>
    match ((s.engineAt q).entries ++ (s.engineAt q).saved).find? (·.age == age) with
    | none => s
    | some e => match fail with
      | none => s.modEntry q age fun x => { x with state := .eligible, ftag := 0 }
      | some cause => s.abortEntry q e (if e.op = 3 then 0x18 else 0x17) cause t.va
  | .sequencer wid => s.sequencerReply wid t.tag t.va fail
  | .slalom die ctx k =>
    let s := match fail with
      | some cause => match s.slalom? die ctx k with
        | some x => s.logError x.owner ctx 0x35 0xFF cause 0 0 (BitVec.ofNat 64 t.va) 0
        | none => s
      | none => s
    s.modSlalom die ctx k fun x => { x with finishing := x.finishing.map (settleOutput t.tag fail.isSome) }

/-- The entry of a die's tag in the pending fault table of a context that is out (R387). -/
def writeTagEntry (s : State) (die : Nat) (t : FaultTag) : State :=
  let core : CoreId := ⟨die, t.core⟩
  if (s.coreAt core).regs.ctx = t.ctx then s
  else match s.frameOf core t.ctx with
    | none => s
    | some f =>
      let mine := (s.dieAt core.die).tags.filter fun x => x.ctx == t.ctx && x.core == t.core
      let i := (mine.takeWhile (· != t)).length
      s.putBytes .pool (f + 0x4000 + 32 * i) (s.tagRecord t)

/-- VADDR of the record of a tag that the next reply answers (log entry 35). -/
def replyVa (s : State) (t : FaultTag) : Nat :=
  match t.owner with
  | .group gid => ((((s.group? gid).bind (·.park)).bind (·.vas[t.replies]?)).map (·.toNat)).getD t.va
  | _ => t.va

/-- A reply reaches its die (R387). The entry of a tag that is answered while its context is out stays in that context's table. -/
def replyArrives (s : State) (r : FaultReply) : State :=
  match (s.dieAt r.die).tags.find? fun t => t.tag == r.tag && t.ctx == r.ctx && !t.answered with
  | none => s.modDie r.die fun d => { d with droppedReplies := d.droppedReplies + 1 }
  | some t =>
    let ended := r.status = 1 || t.npg ≤ t.replies + r.k
    let out := (s.coreAt ⟨r.die, t.core⟩).regs.ctx != t.ctx
    let va := if r.status = 1 then s.replyVa t else t.va
    let new := { t with replies := t.replies + r.k, va := va, status := r.status.toNat, answered := ended && out }
    let s := s.modDie r.die fun d => { d with tags := d.tags.map fun x => if x == t then new else x }
    let s := s.writeTagEntry r.die new
    if ended then
      (s.modDie r.die fun d => { d with tags := d.tags.filter fun x => x != new || x.answered }).answerTag new
        (if r.status = 1 then some r.cause.toNat else none)
    else match t.owner with
      | .group gid => s.modGroup gid fun g => { g with park := g.park.map fun p =>
          if p.tag == t.tag then { p with replies := p.replies + r.k } else p }
      | _ => s

/-! ## Signals (R376, R400) -/

/-- A signal reaches a slot of this package, or is dropped and counted. -/
def postSignal (s : State) (core : CoreId) (slot : Nat) (ctx : BitVec 32) (v : Word) : State :=
  match s.groups.find? fun g => g.core == core && g.slot == slot && g.ctx == ctx && occupies g with
  | some g => s.modGroup g.gid fun g => { g with signal := some (g.signal.getD 0 ||| v) }
  | none => s.modDie core.die fun d => { d with droppedSignals := d.droppedSignals + 1 }

/-! ## Partitions (R390, R391, R401) -/

/-- SCPW.vault: a vault that another partition owned has to be cleared before the first access (R391). -/
def grantVaults (s : State) (die : Nat) (part : Byte) (mask : Nat) : State :=
  let old := (s.dieAt die).vaults
  let passes := (List.range 12).filter fun v => mask.testBit v && (match old.getD v none with
    | some p => p != part
    | none => false)
  let s : State := { s with clears := s.clears ++ passes.map fun v => ClearUnit.vault die v }
  s.modDie die fun d => { d with vaults := (List.range 12).map fun v => if mask.testBit v then some part else d.vaults.getD v none }

/-- SCPW.l2way; ways that were last another partition's have to be cleared before this one's first access (R391). -/
def setWays (s : State) (die : Nat) (part : Byte) (mask : BitVec 16) : State :=
  let old := (s.dieAt die).wayOwners
  let moved := (List.range 16).any fun w => mask.getLsbD w && (match old.getD w none with
    | some p => p != part
    | none => false)
  let s : State := { s with clears := if moved then s.clears ++ [ClearUnit.way die part []] else s.clears }
  s.modDie die fun d => { d with
    ways := (part, mask) :: d.ways.filter (·.1 != part)
    wayOwners := (List.range 16).map fun w => if mask.getLsbD w then some part else d.wayOwners.getD w none }

/-- The notification bit FQ is set exactly while the fault queue holds records (R423). -/
def settleFq (s : State) : State := if s.fq.prod = s.fq.cons then s.unnotify 0 else s

/-- A store queue with writes that never reach a lost peer: it errs with sub-code 0x29, and its WP stays below the first of them (R304, R306,
R321). -/
def loseStored (ids : List Nat) (s : State) (x : Queue) : State :=
  match x.ahead.find? fun a => a.2.any ids.contains with
  | none => s
  | some a =>
    let va := ((x.covering a.1).map fun u => u.va a.1).getD 0
    let y : Queue := { x with ahead := x.ahead.filter fun a => !a.2.any ids.contains }
    if x.state == .store then s.queueError y 0x29 0xFF va else s.setQueue y

/-- A peer's table entry changes: the package's outstanding requests to it end (R321). -/
def losePeer (s : State) (pkg : Nat) : State :=
  let lost := s.stores.filter fun p => (match p.space with
    | .peer _ => true
    | _ => false) && s.homePackage p.space p.off == pkg
  let cmds := s.fabric.commands.filter fun c => match c.kind with
    | .put _ _ p _ _ _ | .get _ _ p _ _ => p == pkg && p != s.pkg
    | .red slot .. => Config.behind slot pkg
    | _ => lost.any fun p => c.writes.contains p.id
  let s := cmds.foldl (fun s c => s.failCommand c 0x29 0xFF 0) s
  let s := s.fabric.queues.foldl (loseStored (lost.map (·.id))) s
  let s : State := { s with fabric := { s.fabric with
    tlbis := s.fabric.tlbis.filter (·.2 != pkg), farWaits := s.fabric.farWaits.filter (·.pkg != pkg) } }
  let s : State := { s with host := { s.host with queues := s.host.queues.map fun q => { q with quiesce := q.quiesce.filter (·.1 != pkg) } } }
  let s := s.modGroups (fun _ => true) fun g => { g with deferred := g.deferred.map (Deferred.loseFar pkg) }
  lost.foldl (fun s p =>
    let s : State := { s with stores := s.stores.filter (·.id != p.id) }
    match p.effect with
    | .rmw _ _ _ _ (some r) => s.returnOld p.id r 0 true
    | _ => s) s

/-- SCPW.peer (R321): for the package's own number, its own incarnation. -/
def setPeer (s : State) (pkg : Nat) (inc : BitVec 16) : State :=
  if s.peerInc pkg = inc then s
  else if pkg = s.pkg then { s with fabric := { s.fabric with incarnation := inc } }
  else
    let s := s.losePeer pkg
    { s with fabric := { s.fabric with peers := (pkg, inc) :: s.fabric.peers.filter (·.1 != pkg) } }

/-! ## Core fencing (R388, R389) -/

/-- A machine-check record of an error that is not a group's: its slot and PC are given no value (log entry 17). -/
def postCoreCheck (s : State) (code : Nat) (core : CoreId) : State :=
  let (a, s) := s.freeValue
  let (b, s) := s.freeValue
  s.postMcheck code core (a.toNat % 64) (s.coreAt core).regs.ctx b 0

/-- A workgroup may go to other cores: it uses no scratchpad and no Burin stream (R389). -/
def Workgroup.movable (w : Workgroup) : Bool := !w.usesScratch && w.seq.isNone

/-- The core to which a fenced core's groups of a workgroup go: of the die, or of the quad for a quad workgroup, running the context and
with room for all of them (R389). -/
def refuge (s : State) (w : Workgroup) (from_ : CoreId) (gs : List Group) : Option CoreId :=
  let vregs := gs.foldl (fun n g => max n g.launch.vregs) 0
  let ok (c : CoreId) : Bool :=
    let k := s.coreAt c
    c != from_ && k.status == .live && k.regs.ctx == w.ctx && (!w.quadwg || c.core / 4 == from_.core / 4)
      && s.hasRoom c w.ctx k.split vregs gs.length
  s.leastLoaded w.ctx ((dieCores from_.die).filter ok)

/-- A saved group is restored from its frame on another core, and its spilled stack entries go with it (R86, R389). -/
def carryGroup (s : State) (gid : Nat) (dest : CoreId) (slot : Nat) : State :=
  let s := s.restoreGroup gid
  match s.group? gid with
  | none => s
  | some g =>
    let put (f : Group → Group) (s : State) : State := s.modGroup gid fun g =>
      { f g with core := dest, slot := slot, place := .core, rec_ := none, vbase := none }
    match s.frameOf g.core g.ctx, s.frameOf dest g.ctx with
    | some f, some f' => put id ((s.vacate dest g.ctx slot gid).moveStack g f f' slot)
    | some f, none =>
      let es := s.spilledEntries f g g.spilled
      put (fun g => { g with stack := g.stack ++ es, spilled := 0 }) s
    | none, _ => put id s

/-- The saved groups of one workgroup are restored on another core, whose L1 may hold copies older than what they have read (R227, R389). -/
def relocate (s : State) (from_ dest : CoreId) (wid : Nat) (gs : List Group) : State :=
  let s := gs.foldl (fun s g => s.carryGroup g.gid dest ((s.freeSlot dest g.ctx).getD 0)) s
  (s.modWg wid fun w => { w with
    cores := w.cores.map fun c => if c == from_ then dest else c
    first := if w.first == from_ then dest else w.first }).l1Clear dest

/-- The workgroups with saved groups on a fenced core that may go elsewhere do so. -/
def redistribute (s : State) (core : CoreId) : State :=
  s.workgroups.foldl (fun s w =>
    let gs := s.groups.filter fun g => g.wid == w.wid && g.core == core && g.place == .frame && g.wait != Wait.ended && g.wait != Wait.suspended
    if gs.isEmpty || !Workgroup.movable w then s
    else match s.refuge w core gs with
      | some dest => (s.relocate core dest w.wid gs).wakeRestored dest (gs.map (·.gid))
      | none => s) s

/-- A core is fenced (R389). -/
def fenceCore (s : State) (core : CoreId) (poisoned : List Nat) : State :=
  let c := s.coreAt core
  let mine (g : Group) : Bool := g.core == core && g.place != .frame && g.wait != Wait.ended && g.wait != Wait.suspended
  let runners := (s.groups.filter fun g => mine g && retries g).map (·.gid)
  let s := s.modCore core fun c => { c with
    status := .fenced
    issuers := c.issuers.map fun i => ⟨none, i.last⟩
    swap := { c.swap with load := .idle, incoming := none, armed := none, late := false } }
  let s := s.modGroups mine fun g => { g with place := .frame, badSave := poisoned.contains g.gid }
  let frames := (c.regs :: c.swap.incoming.toList).filterMap fun r => (s.frameOf core r.ctx).map fun f => (r, f)
  let s := frames.foldl (fun s (x : CtxRegs × Nat) =>
    (s.writeImages core x.1.ctx x.2).putBlock x.2 (frameHeader s core x.1 c.split 4 s.dtime)) s
  let s := runners.foldl (fun s gid => s.retryTask gid) s
  let life := s.host.life
  let s : State := { s with host := { s.host with life := { life with
    fenced := saturated life.fenced 1, fences := ((core, 0x04, s.dtime) :: life.fences).take 64 } } }
  s.redistribute core

/-- A spare takes the logical number of a fenced core, and the frame of its context is restored there (R15, R389). -/
def takeSpare (s : State) (core : CoreId) : State :=
  let d := s.dieAt core.die
  let c := s.coreAt core
  if c.status != .fenced || d.spares = 0 then s
  else
    let s := s.modDie core.die fun d => { d with spares := d.spares - 1 }
    let s := s.modCore core fun c => { c with status := .live, tlb := [], l1 := [] }
    let back (g : Group) : Bool := g.core == core && g.ctx == c.regs.ctx && g.place == .frame && g.wait != Wait.ended && g.wait != Wait.suspended
    let gids := (s.groups.filter back).map (·.gid)
    let s := match s.frameOf core c.regs.ctx with
      | some f =>
        let regs := s.headerRegs f c.regs.ctx
        let s := (s.readFrame core c.regs.ctx f (s.groups.filter back)).modCore core fun c => { c with regs := regs }
        s.putWord .pool (f + 0x24) 4 1
      | none => s
    let s := s.modGroups (fun g => gids.contains g.gid) fun g => { g with place := .core }
    s.wakeRestored core gids

/-- An SCPW operation after its checks: it takes effect, and the group goes on (R401). Where Table 13-9 gives a word's bit positions, a word
with other bits set is outside the table (log entry 45, DEDUCED). -/
def scpw (s : State) (i : Instr) (f : Fields) (ok : (Nat → Word) → Bool) (eff : (Nat → Word) → State → State) : State :=
  s.issue i f true true fun s _ =>
    let r (k : Nat) : Word := s.g.sget (f.d.toNat + k)
    if ok r then (eff r s).retire i else s.systemTrap 0x44

end State

/-! ## Instructions -/

/-- KRET (R375, R394): its checks are made at issue, its return when the trailer retires. -/
def execKret (f : Fields) (s : State) : Out :=
  .next (s.issue (.kret f) f true true fun s _ => s.kretChecks fun s => s.retireTail .kret)

/-- CSRR (R377, R378, R394). -/
def execCsrr (f : Fields) (s : State) : Out :=
  .next (s.issue (.csrr f) f true true fun s _ =>
    let n := f.csrNum
    let go (s : State) : State := (s.modG fun g => g.sput f.csrWide f.d.toNat (s.csrRead n)).retire (.csrr f)
    if 1 ≤ n && n ≤ 7 then s.serialised go else go s)

/-- CSRW (R377, R378, R394). -/
def execCsrw (f : Fields) (s : State) : Out := .next (s.csrw (.csrw f) f)

/-- CSRW of SCOPETAB, which caches the hop table (R377). -/
def execScopetabWrite (f : Fields) (s : State) : Out := .next (s.csrw (.scopetabWrite f) f)

/-- TLBI.page (R395). -/
def execTlbiPage (f : Fields) (s : State) : Out :=
  .next (s.issue (.tlbiPage f) f true true fun s _ =>
    let va := (s.g.intOperand true f.a 0).toNat
    let ctx := s.g.word f.b 0
    let n := f.x.toNat
    if n = 0 || !canonical va then s.systemTrap 0x41
    else s.tlbi (.tlbiPage f) f (.page va n ctx))

/-- TLBI.ctx (R395). -/
def execTlbiCtx (f : Fields) (s : State) : Out :=
  .next (s.issue (.tlbiCtx f) f true true fun s _ =>
    let ctx := s.g.word f.b 0
    s.tlbi (.tlbiCtx f) f (.ctx ctx))

/-- TLBI.part (R395). -/
def execTlbiPart (f : Fields) (s : State) : Out :=
  .next (s.issue (.tlbiPart f) f true true fun s _ =>
    let part : Byte := (s.g.word f.b 0).setWidth 8
    s.tlbi (.tlbiPart f) f (.part part))

/-- TLBI.all (R395). -/
def execTlbiAll (f : Fields) (s : State) : Out :=
  .next (s.issue (.tlbiAll f) f true true fun s _ => s.tlbi (.tlbiAll f) f .all)

/-- SWCX.load (R379, R396). -/
def execSwcxLoad (f : Fields) (s : State) : Out :=
  .next (s.issue (.swcxLoad f) f true true fun s _ =>
    let cores := s.swcxCores f
    let base := (s.g.sval true f.d.toNat).toNat
    let ctx := s.g.sget (f.d.toNat + 2)
    if cores.any s.loadRefused then s.systemTrap 0x40
    else (cores.foldl (fun s c => s.loadShadow c base ctx) s).retireTail .none)

/-- SWCX.arm (R382, R396): a swap of the issuing core comes after the trailer. -/
def execSwcxArm (f : Fields) (s : State) : Out :=
  .next (s.issue (.swcxArm f) f true true fun s _ =>
    let cores := s.swcxCores f
    let t := (s.g.sval true f.d.toNat).toNat
    if cores.any s.noLoad then s.systemTrap 0x40
    else ((cores.filter (· != s.g.core)).foldl (fun s c => s.armCore t c) s).retireTail
      (if cores.contains s.g.core then .arm t else .none))

/-- SWCX.cancel (R382, R396). -/
def execSwcxCancel (f : Fields) (s : State) : Out :=
  .next (s.issue (.swcxCancel f) f true true fun s _ =>
    ((s.swcxCores f).foldl (fun s c => s.disarm c) s).retireTail .none)

/-- ENGR (R397). -/
def execEngr (f : Fields) (s : State) : Out :=
  .next (s.issue (.engr f) f true true fun s _ =>
    let sel := (s.g.word f.b 0).toNat
    let v := s.engrValue sel f.x
    let s := if sel = 1 && f.x.getLsbD 31 then
        s.modCore s.g.core fun c => { c with errLogs := c.errLogs.map fun l => if l.ctx == s.g.ctx then { l with count := 0 } else l }
      else s
    (s.modG fun g => g.sput true f.d.toNat v).retire (.engr f))

/-- FLTR (R398): the reply sets out for its die. -/
def execFltr (f : Fields) (s : State) : Out :=
  .next (s.issue (.fltr f) f true true fun s _ =>
    let d := f.d.toNat
    let w := s.g.sget (d + 1)
    let k := (s.g.sget (d + 2)).toNat
    let status : BitVec 4 := w.extractLsb' 20 4
    let cause : Byte := w.extractLsb' 24 8
    if 2 ≤ status.toNat || (status = 1 && !([0x07, 0x08, 0x09, 0x0A, 0x0C].contains cause.toNat)) || k = 0 || 96 < k then s.systemTrap 0x42
    else ({ s with replies := s.replies ++ [⟨s.g.sget d, (w.extractLsb' 16 3).toNat, w.setWidth 16, status, cause, k⟩] } : State).retire (.fltr f))

/-- HLT (R399). -/
def execHlt (f : Fields) (s : State) : Out :=
  .next (s.issue (.hlt f) f true true fun s _ =>
    match s.g.signal with
    | some v => (s.modG fun g => { (g.sset f.d.toNat v) with signal := none }).retire (.hlt f)
    | none => s.waitOn .hlt)

/-- SIGT (R400). -/
def execSigt (f : Fields) (s : State) : Out :=
  .next (s.issue (.sigt f) f true true fun s _ =>
    let d := f.d.toNat
    let w := (s.g.sget d).toNat
    let ctx := s.g.sget (d + 1)
    let v := s.g.sget (d + 2)
    let pkg := w % 4096
    let core : CoreId := ⟨w / 4096 % 8, w / 32768 % 64⟩
    let slot := w / 2097152 % 64
    if s.podPackages ≤ pkg || 47 < core.core || w / 134217728 ≠ 0 then s.systemTrap 0x43
    else (if pkg = s.pkg then s.postSignal core slot ctx v else s.send (.signal pkg core.die core.core slot ctx v)).retire (.sigt f))

/-- SCPW.vault (R390, R391, R401). -/
def execScpwVault (f : Fields) (s : State) : Out :=
  .next (s.scpw (.scpwVault f) f (fun r => r 0 < 256 && r 1 < 4096)
    fun r s => s.grantVaults s.g.core.die ((r 0).setWidth 8) (r 1).toNat)

/-- SCPW.l2way (R390, R401). -/
def execScpwL2way (f : Fields) (s : State) : Out :=
  .next (s.scpw (.scpwL2way f) f (fun r => r 0 < 256 && r 1 < 65536)
    fun r s => s.setWays s.g.core.die ((r 0).setWidth 8) ((r 1).setWidth 16))

/-- SCPW.pinq (R276, R401). -/
def execScpwPinq (f : Fields) (s : State) : Out :=
  .next (s.scpw (.scpwPinq f) f (fun r => (r 1).toNat ≤ 14336)
    fun r s => s.modDie s.g.core.die fun d => { d with pinq := (r 0, (r 1).toNat) :: d.pinq.filter (·.1 != r 0) })

/-- SCPW.slot (R318, R401): a slot starts with round 0 closed; freeing it ends an open round without a result. -/
def execScpwSlot (f : Fields) (s : State) : Out :=
  .next (s.scpw (.scpwSlot f) f (fun r => r 0 < 65536 && r 2 &&& ~~~0x7F07 = 0)
    fun r s =>
      let n := (r 0).toNat
      let rest := s.fabric.slots.filter (·.slot != n)
      let gone := (s.fabric.slots.filter (·.slot == n)).flatMap fun x => (x.contribs.filter (·.from_.spkg.toNat = s.pkg)).map (·.tag)
      let new : RedSlot := ⟨n, r 1, ((r 2).extractLsb' 0 2).toNat, (r 2).getLsbD 2, ((r 2).extractLsb' 8 7).toNat + 1, r 5 ++ r 4,
        0, false, 0, 0, [], 0, 1, 0⟩
      { s with fabric := { s.fabric with
        slots := if r 1 = 0xFFFFFFFF then rest else rest ++ [new]
        commands := s.fabric.commands.filter fun c => !gone.contains c.id } })

/-- SCPW.task (R333, R401). -/
def execScpwTask (f : Fields) (s : State) : Out :=
  .next (s.scpw (.scpwTask f) f (fun r => (r 3 ++ r 2).toNat % 512 = 0 && (r 3 ++ r 2).toNat < 2 ^ 52)
    fun r s => s.modTaskUnit s.g.core.die (r 0) fun u => { u with areaBase := (r 3 ++ r 2).toNat, areaSlots := (r 4).toNat })

/-- SCPW.fq (R386, R401): the indices become 0, and the records that wait are posted. -/
def execScpwFq (f : Fields) (s : State) : Out :=
  .next (s.scpw (.scpwFq f) f
    (fun r => (r 1 ++ r 0).toNat % 4096 = 0 && (r 1 ++ r 0).toNat < 2 ^ 52 && 8 ≤ (r 2).toNat && (r 2).toNat ≤ 16)
    fun r s =>
      let s : State := { s with fq := { s.fq with configured := true, base := (r 1 ++ r 0).toNat, log2 := (r 2).toNat, prod := 0, cons := 0 } }
      (s.drainFaults s.fq.waiting.length).settleFq)

/-- SCPW.fqack (R386, R401): an index outside the records that stand frees none. -/
def execScpwFqack (f : Fields) (s : State) : Out :=
  .next (s.scpw (.scpwFqack f) f (fun _ => true)
    fun r s =>
      let n := (r 0 - BitVec.ofNat 32 s.fq.cons).toNat
      let s : State := if s.fq.cons + n ≤ s.fq.prod then { s with fq := { s.fq with cons := s.fq.cons + n } } else s
      (s.drainFaults s.fq.waiting.length).settleFq)

/-- SCPW.strict (R392, R401). -/
def execScpwStrict (f : Fields) (s : State) : Out :=
  .next (s.scpw (.scpwStrict f) f (fun r => r 0 < 2)
    fun r s => s.modDie s.g.core.die fun d => { d with strict := (r 0).getLsbD 0 })

/-- SCPW.peer (R321, R401). -/
def execScpwPeer (f : Fields) (s : State) : Out :=
  .next (s.scpw (.scpwPeer f) f (fun r => (r 0).toNat < s.podPackages && r 1 < 65536)
    fun r s => s.setPeer (r 0).toNat ((r 1).setWidth 16))

/-- SCPW.spare (R389, R401). -/
def execScpwSpare (f : Fields) (s : State) : Out :=
  .next (s.scpw (.scpwSpare f) f (fun r => r 0 < 48)
    fun r s => s.takeSpare ⟨s.g.core.die, (r 0).toNat⟩)

/-! ## Events -/

/-- FAULT_REPLY_ARRIVAL (R387): a reply that FLTR has sent reaches its die. -/
def execFaultReplyArrival (ctxid : BitVec 32) (die : Nat) (tag : BitVec 16) (status : BitVec 4) (cause : Byte) (k : Nat) (s : State) : Out :=
  let r : FaultReply := ⟨ctxid, die, tag, status, cause, k⟩
  .next (if s.replies.contains r then ({ s with replies := s.replies.erase r } : State).replyArrives r else s)

/-- MACHINE_CHECK (R213, R388, R389): an uncorrectable error. -/
def execMachineCheck (e : McEvent) (s : State) : Out :=
  .next (match e with
    | .restoredState gid =>
      match s.group? gid with
      | some g =>
        if g.wait == Wait.suspended then
          (if State.retries g then s.retryTask gid else s.modGroup gid fun g => { g with badSave := true })
        else if s.inCore g && g.wait != Wait.ended && g.wait != Wait.halted then s.restoredBad gid
        else s
      | none => s
    | .buffer gid entry =>
      match (s.group? gid).bind (·.task), entry with
      | some t, none => if ((s.group? gid).map State.retries).getD false then s.retryTask gid else
          s.modGroup gid fun g => { g with task := some { t with buffer := t.buffer.map fun e => { e with bad := true } } }
      | some t, some k =>
        s.modGroup gid fun g => { g with
          task := some { t with buffer := (t.buffer.zipIdx).map fun e => if e.2 = k then { e.1 with bad := true } else e.1 } }
      | none, _ => s
    | .coreLogic core poisoned =>
      if (s.coreAt core).status == .live then (s.postCoreCheck 0x04 core).fenceCore core poisoned else s
    | .shadowLoad core =>
      if (s.coreAt core).swap.load == .loading then (s.postCoreCheck 0x05 core).failLoad core else s
    | .data keys => { s with poison := keys.filter (fun k => !s.poison.contains k) ++ s.poison })

/-- PARTITION_CLEAR (R391): a core whose granules and tiles still hold another partition's data exchanges them all and drops its L1;
a vault becomes zero, once the stores that its old partition had there are performed; what L2 ways hold, given by its sectors, goes back to HBM
(log entry 12). -/
def execPartitionClear (u : ClearUnit) (s : State) : Out :=
  .next (match u with
    | .core c =>
      if s.clears.contains u then
        let s := ((s.coreAt c).swap.exchange).foldl (fun s e => s.exchangeOne c e.1 e.2) s
        (({ s with clears := s.clears.filter (· != u) } : State).l1Clear c).modCore c fun k => { k with
          tlb := k.tlb.filter (·.part == k.regs.part) }
      else s
    | .vault die v =>
      if s.clears.contains u && !(s.stores.any (·.space == .vlt die v)) then
        let lo := (Space.vlt die v).key 0
        let out (k : Nat) : Bool := k < lo || lo + 2 ^ 64 ≤ k
        { s with mem := s.mem.filter fun c => out c.1, poison := s.poison.filter out, clears := s.clears.filter (· != u) }
      else s
    | .way die part sectors =>
      if s.clears.contains (.way die part []) then
        (sectors.filter fun k => s.homePackage .pool (64 * k) == s.pkg && (s.homeOf (64 * k / 65536)).2.1.val == die).foldl
          (fun s k => s.writeBack (64 * k) 64) { s with clears := s.clears.filter (· != ClearUnit.way die part []) }
      else s)

end Sys2Proof.Machine
end

