-- ==== Sys2Proof/Machine/Launch.lean ====
section
/-! DEFINITION. The distributors, the end of a launch, queue control operations, and firmware commands and leases (R402, R410 to R419,
R434). -/

namespace Sys2Proof.Machine

namespace State

/-! ## Places for workgroups (R17, R18, R26, R418) -/

/-- Whether a core holds no group of any context (R17). -/
def drained (s : State) (core : CoreId) : Bool :=
  !(s.groups.any fun g => g.core == core && g.place != .frame && g.wait != Wait.ended && g.wait != Wait.suspended)

/-- The sequencer contexts of a quad that are in use (R26, R260). -/
def sequencersUsed (s : State) (q : QuadId) : List Nat :=
  s.workgroups.filterMap fun w =>
    if w.quad == q && s.seqInUse w then w.seq.map (·.ctxNo) else none

/-- The lowest free sequencer context of a quad. -/
def freeSequencer (s : State) (q : QuadId) : Option Nat := (List.range 16).find? fun k => !(s.sequencersUsed q).contains k

/-- Whether a core can take some groups of a launch (R17, R18): it runs the launch's context, it has or may take the launch's split, and
there is room. -/
def coreTakes (s : State) (l : Launch) (n : Nat) (core : CoreId) : Bool :=
  let c := s.coreAt core
  core.core < 48 && c.status == .live && c.regs.ctx == l.ctx && !c.swap.late && !s.quadTaken core c.regs.part && (c.split == l.desc.split || s.drained core)
    && s.hasRoom core l.ctx l.desc.split l.desc.vregs n

/-- Whether a core can hold a workgroup of a launch, with its sequencer context. -/
def coreHolds (s : State) (l : Launch) (core : CoreId) : Bool :=
  s.coreTakes l l.desc.groups core && (l.desc.bentry = 0 || (s.freeSequencer ⟨core.die, core.core / 4⟩).isSome)

/-- The four cores of a quad. -/
def quadCores (q : QuadId) : List CoreId := (List.range 4).map fun k => ⟨q.die, 4 * q.quad + k⟩

/-- Whether a quad can hold a quad workgroup: each core its share. -/
def quadHolds (s : State) (l : Launch) (q : QuadId) : Bool :=
  ((quadCores q).zip l.desc.shares).all (fun x => s.coreTakes l x.2 x.1) && (l.desc.bentry = 0 || (s.freeSequencer q).isSome)

/-- The quad with the fewest resident groups, the lower number on a tie. -/
def leastQuad (s : State) (ctx : BitVec 32) : List QuadId → Option QuadId
  | [] => none
  | q :: qs =>
    let load (q : QuadId) : Nat := (quadCores q).foldl (fun n c => n + (s.residents c ctx).length) 0
    match leastQuad s ctx qs with
    | some r => if load r < load q then some r else some q
    | none => some q

/-- The cores of a die on which a workgroup of a launch goes, none of them in `avoid` (R418): the named core, one of the preferred quad, or the
least loaded. -/
def findPlace (s : State) (l : Launch) (die : Nat) (avoid : List CoreId) (p : PendWg) : Option (List CoreId) :=
  if l.desc.quad then
    let ok := ((List.range 12).map (QuadId.mk die)).filter fun q => s.quadHolds l q && !((quadCores q).any avoid.contains)
    match p.named with
    | some c => (ok.find? (·.quad == c / 4)).map quadCores
    | none =>
      let near := ok.filter fun q => p.pref == some q.quad
      (s.leastQuad l.ctx (if near.isEmpty then ok else near)).map quadCores
  else
    let ok := (dieCores die).filter fun c => s.coreHolds l c && !avoid.contains c
    match p.named with
    | some c => (ok.find? (·.core == c)).map ([·])
    | none =>
      let near := ok.filter fun c => p.pref == some (c.core / 4)
      (s.leastLoaded l.ctx (if near.isEmpty then ok else near)).map ([·])

/-! ## The start of a workgroup (R411, Table 14-4, R260) -/

/-- S0 to S59 of a group at kernel entry. -/
def entryRegs (l : Launch) (w grp : Nat) : List Word :=
  let c := coordsOf l.packet w
  [l.packet.karg.setWidth 32, l.packet.karg.extractLsb' 32 32, BitVec.ofNat 32 c.1, BitVec.ofNat 32 c.2.1, BitVec.ofNat 32 c.2.2,
    BitVec.ofNat 32 grp, BitVec.ofNat 32 l.desc.groups, BitVec.ofNat 32 l.idx] ++ List.replicate 52 0

/-- What a launch gives its groups. -/
def launchVals (l : Launch) (w : Nat) : LaunchVals :=
  let c := coordsOf l.packet w
  let p := l.packet
  let sp := l.desc.split
  ⟨l.lid, l.desc.groups, [BitVec.ofNat 32 c.1, BitVec.ofNat 32 c.2.1, BitVec.ofNat 32 c.2.2],
    [BitVec.ofNat 32 p.gridX, BitVec.ofNat 32 p.gridY, BitVec.ofNat 32 p.gridZ], p.karg, l.desc.vregs, l.desc.cores,
    if p.lset = 0 then none else some p.lset, l.desc.rc, (sp.regs, sp.scr, sp.l1), l.desc.super⟩

/-- A group at kernel entry (R81, R411). -/
def entryGroup (l : Launch) (w wid gid grp : Nat) (core : CoreId) (slot : Nat) : Group :=
  { Group.initial with
    gid := gid, core := core, slot := slot, ctx := l.ctx, part := l.part, wid := wid, grp := grp, placed := core
    launch := launchVals l w, v := List.replicate l.desc.vregs (List.replicate 96 0), s := entryRegs l w grp
    em := ~~~0, live := ~~~0, thrd := lanes.map fun k => BitVec.ofNat 32 (96 * grp + k), pc := BitVec.ofNat 64 (l.desc.entry / 64 * 5), wait := .ready
    trapState := { Group.initial.trapState with mode := l.desc.super } }

/-- A sequencer at its stream entry (Table 9-2). -/
def entrySequencer (l : Launch) (w ctxNo : Nat) : Sequencer :=
  let c := coordsOf l.packet w
  { ctxNo := ctxNo, pc := BitVec.ofNat 64 (l.desc.bentry / 64 * 5)
    y := [l.packet.karg, BitVec.ofNat 64 (c.2.1 * 2 ^ 32 + c.1), BitVec.ofNat 64 c.2.2, BitVec.ofNat 64 l.desc.groups] ++ List.replicate 12 0
    d := List.replicate 8 0, sflg := 0, wait := .none, arrivals := List.replicate 16 none, waited := false, entered := false }

/-- The core of each group of a workgroup, in GRP order. -/
def groupCores (l : Launch) (cores : List CoreId) : List CoreId :=
  if l.desc.quad then (cores.zip l.desc.shares).flatMap fun x => List.replicate x.2 x.1
  else List.replicate l.desc.groups (cores.headD ⟨0, 0⟩)

/-- The first fetch of a group that has just been placed: an entry that fails R35 or R98 takes its cause there. -/
def enterGroup (s : State) (gid : Nat) : State :=
  let s := s.focus gid
  let s := s.enterSlot
  s.issuerSelect s.g.core

/-- A core takes the launch's split if it has another; its L1 starts empty (R17). -/
def takeSplit (s : State) (sp : Split) (core : CoreId) : State :=
  if (s.coreAt core).split == sp then s else s.modCore core fun c => { c with split := sp, l1 := [] }

/-- A workgroup of a launch starts on its cores. -/
def startWorkgroup (s : State) (l : Launch) (w : Nat) (cores : List CoreId) : State :=
  let d := l.desc
  let s := cores.foldl (fun s c => s.takeSplit d.split c) s
  let first := cores.headD ⟨0, 0⟩
  let ctxNo := s.freeSequencer ⟨first.die, first.core / 4⟩
  let (wid, s) := s.fresh
  let place (acc : List Nat × State) (x : CoreId × Nat) : List Nat × State :=
    let (gid, s) := acc.2.fresh
    (acc.1 ++ [gid], s.addGroup (entryGroup l w wid gid x.2 x.1 ((s.freeSlot x.1 l.ctx).getD 0)))
  let placed := ((groupCores l cores).zipIdx).foldl place ([], s)
  let wg : Workgroup := { Workgroup.initial with
    wid := wid, launch := l.lid, ctx := l.ctx, part := l.part, cores := cores, quadwg := d.quad
    coords := (launchVals l w).coords, members := placed.1, split := if d.quad then d.shares else [d.groups]
    first := (groupCores l cores).headD first
    seq := if d.bentry = 0 then none else some (entrySequencer l w (ctxNo.getD 0))
    supervisor := d.super, karg := l.packet.karg, usesScratch := d.split.scr != 0 }
  placed.1.foldl enterGroup (placed.2.addWg wg)

/-! ## Die distributors (R418, R419) -/

def pendingOn (l : Launch) (die : Nat) : List PendWg := ((l.pending.find? (·.1 == die)).map (·.2)).getD []

def modLaunch (s : State) (lid : Nat) (f : Launch → Launch) : State :=
  { s with host := { s.host with launches := s.host.launches.map fun l => if l.lid == lid then f l else l } }

/-- The pending list of a die for a launch changes. -/
def setPending (s : State) (lid die : Nat) (ps : List PendWg) : State :=
  s.modLaunch lid fun l => { l with pending := l.pending.map fun x => if x.1 == die then (die, ps) else x }

/-- No workgroup starts before NOTBEFORE, nor before DTIME has the tree's value (R418, R426). -/
def mayStart (s : State) (l : Launch) : Bool := l.packet.notBefore ≤ s.dtime && s.host.stepped

/-- Workgroups of a launch for which a die has free room, counted core by core (log entry 25). -/
def roomOn (s : State) (l : Launch) (die : Nat) : Nat :=
  let count (c : CoreId) : Nat := ((List.range 64).filter fun k => s.coreTakes l (l.desc.groups * (k + 1)) c).length
  if l.desc.quad then (((List.range 12).map (QuadId.mk die)).filter (s.quadHolds l)).length
  else ((dieCores die).map count).foldl (· + ·) 0

/-- The dies on which a workgroup of a co-resident launch may go, its home die first, then those with the most free room (R418). -/
def searchOrder (s : State) (l : Launch) (home : Nat) : List Nat :=
  let others := (s.allowedDies l.packet).filter (· != home)
  let more (x y : Nat × Nat) : Bool := y.1 < x.1 || (y.1 == x.1 && x.2 < y.2)
  let insert (x : Nat × Nat) (xs : List (Nat × Nat)) : List (Nat × Nat) := xs.takeWhile (more · x) ++ x :: xs.dropWhile (more · x)
  home :: ((others.map fun d => (s.roomOn l d, d)).foldl (fun acc x => insert x acc) []).map (·.2)

/-- The cores that drain for other launches: nothing of this one is placed there (R17). -/
def keptFor (s : State) (l : Launch) : List CoreId := (s.host.launches.filter (·.lid != l.lid)).flatMap draining

/-- A place for a workgroup of a co-resident launch. -/
def reservePlace (s : State) (l : Launch) (home : Nat) (p : PendWg) : Option (List CoreId) :=
  (s.searchOrder l home).findSome? fun die => s.findPlace l die (s.keptFor l) (if die = home then p else { p with pref := none })

/-- The workgroups of a co-resident launch that this package has are placed whole, or not at all (R251, R418); with the cores that they take. -/
def placeTogether (s : State) (l : Launch) : Option (State × List CoreId) :=
  let all := l.pending.flatMap fun x => x.2.map fun p => (x.1, p)
  let one (acc : Option (State × List CoreId)) (x : Nat × PendWg) : Option (State × List CoreId) :=
    acc.bind fun a => (a.1.reservePlace l x.1 x.2).map fun cs => (a.1.startWorkgroup l x.2.w cs, a.2 ++ cs)
  (all.foldl one (some (s, []))).map fun a =>
    (a.1.modLaunch l.lid fun l => { l with placed := true, reserved := false, drain := [], pending := l.pending.map fun x => (x.1, []) }, a.2)

/-- Whether a co-resident launch has workgroups in several packages: no group starts before all of them have reserved their places (R418). -/
def acrossPackages (l : Launch) : Bool := l.origin.isSome || l.away != 0

/-- A co-resident launch's share here is reserved its places: nothing else is placed on their cores. Another package's launch reports it
there. -/
def reserveShare (s : State) (l : Launch) : Option State :=
  if l.reserved then none
  else (s.placeTogether l).map fun a =>
    let s := s.modLaunch l.lid fun l => { l with reserved := true, drain := a.2 }
    match l.origin with
    | some o => s.send (.notice o.1 (s.stamp o.1) (.reserved o.2 l.took))
    | none => s

/-- The whole grid of an own launch has its places: every package that has a share is told to start. -/
def startAll (s : State) (l : Launch) : Option State :=
  if l.reserved && !l.go && l.origin.isNone && l.away ≤ l.heard.foldl (fun n x => n + x.2) 0 then
    some (l.heard.foldl (fun s x => s.send (.notice x.1 (s.stamp x.1) (.start l.lid))) (s.modLaunch l.lid fun l => { l with go := true }))
  else none

/-- What a co-resident launch does next: within the package it is placed; across packages its share is reserved, and placed once the whole grid
has its places (R251, R418). -/
def placeGrid (s : State) (l : Launch) : Option State :=
  if !acrossPackages l || l.go then (if l.pending.all (·.2.isEmpty) then none else (s.placeTogether l).map (·.1))
  else match s.reserveShare l with
    | some t => some t
    | none => s.startAll l

/-- The head of a die's pending list is placed. -/
def placeHead (s : State) (l : Launch) (die : Nat) : Option State :=
  match pendingOn l die with
  | [] => none
  | p :: rest => (s.findPlace l die (s.keptFor l) p).map fun cores =>
    ((s.setPending l.lid die rest).modLaunch l.lid fun l => { l with drain := l.drain.filter (!cores.contains ·) }).startWorkgroup l p.w cores

/-- The cores, or the quads with their four, on which the head of a die's list could go once they have its split (R17, R18). -/
def drainChoices (s : State) (l : Launch) (die : Nat) : List (List CoreId) :=
  let kept := s.keptFor l
  let named := (pendingOn l die).head?.bind (·.named)
  let may (c : CoreId) : Bool := (s.coreAt c).status == .live && (s.coreAt c).regs.ctx == l.ctx && !kept.contains c
  if l.desc.quad then
    ((List.range 12).filter fun k => named.all (· / 4 == k)).map (fun k => quadCores ⟨die, k⟩) |>.filter (·.all may)
  else ((dieCores die).filter fun c => may c && named.all (· == c.core)).map ([·])

/-- Resident groups of a context on some cores. -/
def loadOf (s : State) (ctx : BitVec 32) (cs : List CoreId) : Nat := cs.foldl (fun n c => n + (s.residents c ctx).length) 0

/-- The choice with the fewest resident groups, the lowest on a tie. -/
def leastOf (s : State) (ctx : BitVec 32) : List (List CoreId) → List CoreId
  | [] => []
  | x :: xs => let y := leastOf s ctx xs; if y.isEmpty || s.loadOf ctx x ≤ s.loadOf ctx y then x else y

/-- The cores that a die's distributor starts to drain for a launch: where none has its split and none drains for it already (R17). -/
def drainFor (s : State) (l : Launch) (die : Nat) : List CoreId :=
  let choices := s.drainChoices l die
  if (pendingOn l die).isEmpty || (draining l).any (·.die == die)
      || choices.any fun cs => cs.all fun c => (s.coreAt c).split == l.desc.split then []
  else s.leastOf l.ctx choices

/-- The first launch, in dispatch order, that can place a workgroup on a die, or has to drain a core for it, does so. -/
def placeNext (s : State) (die : Nat) : List Launch → Option State
  | [] => none
  | l :: ls =>
    if !s.mayStart l || l.placed then s.placeNext die ls
    else match (if l.desc.cores then s.placeGrid l else s.placeHead l die) with
      | some t => some t
      | none =>
        let cs := if l.reserved then [] else s.drainFor l die
        if cs.isEmpty then s.placeNext die ls else some (s.modLaunch l.lid fun l => { l with drain := l.drain ++ cs })

/-- The die of the package with the most pending workgroups of a launch, the lower number on a tie (R419). -/
def fullest (l : Launch) : Option Nat :=
  (l.pending.foldl (fun (best : Nat × Option Nat) x => if best.1 < x.2.length then (x.2.length, some x.1) else best) (0, none)).2

/-- A die takes up to four workgroups of a launch from the tail of a sibling's list (R419). -/
def steal (s : State) (l : Launch) (die : Nat) : Option State :=
  if l.desc.cores || l.desc.aff = 2 || !(s.allowedDies l.packet).contains die || (s.findPlace l die (s.keptFor l) ⟨0, none, none⟩).isNone then none
  else (fullest l).map fun from_ =>
    let ps := pendingOn l from_
    let n := ps.length - 4
    (s.setPending l.lid from_ (ps.take n)).setPending l.lid die ((ps.drop n).map fun p => { p with pref := none })

/-! ## Other packages' distributors (R22, R410, R418, R419) -/

/-- Pending workgroups with another one, in ascending linear index. -/
def insertWg (p : PendWg) (ps : List PendWg) : List PendWg := ps.takeWhile (·.w < p.w) ++ p :: ps.dropWhile (·.w < p.w)

/-- The launch of this package that a share belongs to: its own, or one that stands for another package's. -/
def launchOfShare (s : State) (x : Share) : Option Launch :=
  s.host.launches.find? fun l => l.origin.getD (s.pkg, l.lid) == (x.pkg, x.lid)

/-- The distributors of this package are given a workgroup, for its die, or for an allowed one where that is not present (R417, R418). A co-resident
launch reserves its share anew. -/
def takeShare (s : State) (x : Share) : State :=
  let ok := s.allowedDies x.packet
  let die := if ok.contains x.die then x.die else ok.headD x.die
  let add (l : Launch) : Launch := { l with
    took := l.took + 1
    away := if l.origin.isNone then l.away - 1 else 0
    placed := false
    reserved := false
    drain := if l.reserved then [] else l.drain
    pending := l.pending.map fun y => if y.1 == die then (y.1, insertWg ⟨x.w, x.pref, x.named⟩ y.2) else y }
  match s.launchOfShare x with
  | some l => s.modLaunch l.lid add
  | none =>
    if x.pkg = s.pkg then s
    else
      let (lid, s) := s.fresh
      let l : Launch := ⟨lid, 0, x.idx, x.ctx, x.part, x.packet, x.desc, (List.range 8).map fun k => (k, []), false, some (x.pkg, x.lid), 0, 0, [],
        false, [], false⟩
      { s with host := { s.host with launches := s.host.launches ++ [add l] } }

/-- Of a die's pending workgroups some stay and the others go to another package. -/
def giveAway (s : State) (l : Launch) (die : Nat) (stay out : List PendWg) (pkg : Nat) : State :=
  let s := (s.setPending l.lid die stay).modLaunch l.lid fun l => { l with
    took := l.took - out.length, reserved := false, drain := if l.reserved then [] else l.drain
    away := if l.origin.isNone then l.away + out.length else 0 }
  out.foldl (fun s p => s.send (.share pkg (shareOf s l die { p with pref := none }))) s

/-- Whether a search may go from this package to another: one of its tray first, and others where no package of the tray is allowed, or where the
workgroup has come from one of them (R418, R419). Which of several has the most room the distributors know, and the event says (log entry 51). -/
def mayGoTo (s : State) (l : Launch) (index : Nat) : Bool :=
  let here := s.pkgIndex / 4
  let others := s.othersAllowed l.packet
  others.contains index && (index / 4 == here || l.origin.isSome || !(others.any (· / 4 == here)))

/-- A workgroup of a co-resident launch that cannot be reserved places in this package takes one in another allowed package (R418). -/
def placeElsewhere (s : State) (l : Launch) (w index : Nat) : State :=
  match l.pending.find? fun x => x.2.any (·.w == w) with
  | none => s
  | some x =>
    if l.desc.cores && !l.placed && !l.reserved && s.mayGoTo l index && (s.placeTogether l).isNone then
      s.giveAway l x.1 (x.2.filter (·.w != w)) (x.2.filter (·.w == w)) (64 * s.vuv + index)
    else s

/-- An idle distributor of another allowed package of the Vuvosum takes up to four workgroups from the tail of the fullest list (R419). That this
package has the most pending of those it may take from, the event says (log entry 51). -/
def yieldShares (s : State) (pkg : Nat) (l : Launch) : State :=
  match fullest l with
  | none => s
  | some die =>
    let ps := pendingOn l die
    let out := ps.drop (ps.length - 4)
    if l.desc.cores || l.desc.aff = 2 || pkg / 64 != s.vuv || !(s.othersAllowed l.packet).contains (pkg % 64) then s else s.giveAway l die (ps.take (ps.length - 4)) out pkg

/-! ## The end of a launch (R410) -/

/-- The groups of a launch. -/
def groupsOf (s : State) (lid : Nat) : List Group := s.groups.filter (·.launch.launch == lid)

/-- Whether a pending access may belong to a launch: one of its groups issued it, or an engine or router did under its context. -/
def storeOf (gids : List Nat) (ctx : BitVec 32) (p : Pending) : Bool :=
  gids.contains p.gid || (p.gid == 0 && (match p.gate with
    | some g => g.1 == ctx
    | none => true))

/-- Whether everything of a launch has finished: its groups, tasks, records, commands, engine operations and writes. -/
def launchDone (s : State) (l : Launch) : Bool :=
  let gs := s.groupsOf l.lid
  let gids := gs.map (·.gid)
  let wids := (s.workgroups.filter (·.launch == l.lid)).map (·.wid)
  l.pending.all (·.2.isEmpty) && l.away == 0
    && gs.all (fun g => g.wait == Wait.ended)
    && s.tasks.all (fun u => u.spawned.all (·.vals.launch != l.lid) && u.batches.all (·.vals.launch != l.lid)
        && u.contins.all (fun k => !gids.contains k.gid)
        && u.sets.all fun x => x.vals.launch != l.lid || x.inFlight == 0)
    && s.fabric.commands.all (fun c => !gids.contains c.gid)
    && s.engines.all (fun e => (e.entries ++ e.saved).all fun x => !wids.contains x.wid || x.finished)
    && !(s.stores.any (storeOf gids l.ctx))

/-! ## Reset of a queue (R416) -/

/-- A group ends as by EXIT of every live lane; its task is discarded and its held writes are dropped. -/
def killGroup (g : Group) : Group :=
  { g with wait := .ended, em := 0, live := 0, stroke := none, task := none, deferred := [], async := [], park := none, ec := 0 }

/-- The stream queues that the killed launches' groups configured go, as by QSUB.drop (R416). -/
def killQueues (s : State) (lids : List Nat) : State :=
  { s with fabric := { s.fabric with queues := s.fabric.queues.filter fun x => !lids.contains x.owner } }

/-- The writes that the matrix engine and the router have in the store path for some launches. -/
def engineWrites (s : State) (lids wids : List Nat) : List Nat :=
  (s.engines.flatMap fun e => ((e.entries ++ e.saved).filter fun x => wids.contains x.wid).flatMap (·.writes))
    ++ s.tasks.flatMap fun u => (u.sets.filter fun x => lids.contains x.vals.launch).flatMap fun x =>
      x.finishing.flatMap fun f => f.commit.getD [] ++ f.late.getD [] ++ f.out.getD []

/-- Issuers that hold killed groups become idle. -/
def freeIssuers (gids : List Nat) (c : Core) : Core :=
  { c with issuers := c.issuers.map fun i => if (i.group.map gids.contains).getD false then (⟨none, i.last⟩ : Issuer) else i }

/-- The accesses that the commands, the queues, the matrix engine and the router have in the store path for some launches. -/
def workWrites (s : State) (lids gids wids : List Nat) : List Nat :=
  s.engineWrites lids wids ++ ((s.fabric.commands.filter fun c => gids.contains c.gid).flatMap (·.writes))
    ++ (s.fabric.queues.filter fun x => lids.contains x.owner).flatMap fun x => x.ahead.flatMap (·.2)

/-- The work of some launches ends (R416 step 2): what it holds at the EMIT gate and in write buffers is discarded. The answer is the accesses of it
that have gone on to be performed, which step 3 waits for. -/
def killWork (s : State) (ls : List Launch) : List Nat × State :=
  let lids := ls.map (·.lid)
  let mine (g : Group) : Bool := lids.contains g.launch.launch && g.wait != Wait.ended
  let gids := (s.groups.filter fun g => lids.contains g.launch.launch).map (·.gid)
  let cores := ((s.groups.filter mine).map (·.core)).eraseDups
  let wids := (s.workgroups.filter fun w => lids.contains w.launch).map (·.wid)
  let ctxs := (ls.map (·.ctx)).eraseDups
  let cmds := (s.fabric.commands.filter fun c => gids.contains c.gid).map (·.id)
  let ids := s.workWrites lids gids wids
  let dead (p : Pending) : Bool := gids.contains p.gid || ids.contains p.id
  let s := { s with stores := s.stores.filter fun p => !(dead p && p.gate.isSome) }
  let left := (s.stores.filter fun p => dead p && p.effect != .confirm).map (·.id)
  let s := s.killQueues lids
  let s := (s.modGroups mine killGroup).modGroups (fun g => gids.contains g.gid) fun g => { g with signal := none }
  let tasks := s.tasks.map fun u => { u with
    spawned := u.spawned.filter fun t => !lids.contains t.vals.launch
    batches := u.batches.filter fun b => !lids.contains b.vals.launch
    contins := u.contins.filter fun k => !gids.contains k.gid
    completions := u.completions.filter fun c => !(ctxs.contains c.ctx && !(c.needs.any s.outstanding))
    sets := u.sets.filter fun x => !lids.contains x.vals.launch }
  let fab := { s.fabric with
    commands := s.fabric.commands.filter fun c => !cmds.contains c.id
    flight := s.fabric.flight.filter fun f => !((f.cmd.map cmds.contains).getD false)
    results := s.fabric.results.filter fun r => !cmds.contains r.cmd }
  let engines := s.engines.map fun e => { e with
    entries := e.entries.filter fun x => !wids.contains x.wid
    saved := e.saved.filter fun x => !wids.contains x.wid
    pins := e.pins.filter fun p => e.entries.any fun x => x.age == p.age && !wids.contains x.wid }
  let s := { s with tasks := tasks, fabric := fab, engines := engines }
  let s := wids.foldl (fun s w => s.modWg w fun w => { w with seq := w.seq.map fun q => { q with wait := .ended } }) s
  let s := { s with host := { s.host with launches := s.host.launches.filter fun l => !lids.contains l.lid } }
  (left, cores.foldl (fun s c => (s.modCore c (freeIssuers gids)).issuerSelect c) s)

/-- The other packages that a launch's work or traffic has reached (R416 step 3): those that may have its workgroups, and those to which its commands
have sent what is not answered. -/
def reached? (s : State) (l : Launch) : List Nat :=
  let gids := (s.groupsOf l.lid).map (·.gid)
  let shares := if l.away = 0 then [] else (s.othersAllowed l.packet).map (64 * s.vuv + ·)
  let traffic := s.fabric.commands.filterMap fun c => if !gids.contains c.gid then none else match c.kind with
    | .put _ _ p _ _ _ | .get _ _ p _ _ => if p = s.pkg then none else some p
    | _ => none
  ((shares ++ traffic).filter s.podPeers.contains).eraseDups

/-- The end of a reset (R416 step 4): RI := WI, CI := RI, and STATE 4. -/
def finishReset (s : State) (rec_ : Nat) : State :=
  match s.queueAt rec_ with
  | none => s
  | some q =>
    match s.tableRead q.ctx q.wiaddr.toNat 8 with
    | some (bs, s) =>
      let wi := leNat bs
      s.putQueue { q with state := .resetDone, slot := none, inline_ := none, flights := [], ri := wi, ci := wi, wic := wi, err := 0, drains := [] }
    | none => s.putQueue { q with state := .resetDone, slot := none, inline_ := none, flights := [], ci := q.ri, wic := q.ri, err := 0, drains := [] }

/-- Reset of a queue (R416): steps 1 and 2, with a marker to every package that its work has reached; step 4 at once where nothing has to be waited
for. -/
def resetQueue (s : State) (rec_ : Nat) : State :=
  match s.queueAt rec_ with
  | none => s
  | some q =>
    let ls := s.host.launches.filter fun l => l.rec_ == rec_ && l.origin.isNone
    let far := ls.flatMap fun l => (s.reached? l).map fun p => (p, l.lid)
    let (left, s) := s.killWork ls
    let s := s.putQueue { q with state := .resetting, slot := none, inline_ := none, flights := [], quiesce := far, drains := left }
    let s := far.foldl (fun s x => s.send (.notice x.1 (s.stamp x.1) (.kill x.2))) s
    if far.isEmpty && left.isEmpty then s.finishReset rec_ else s

/-- Another package's launch is killed: what is here of it ends, and the marker goes back once its accesses here are performed (R416). -/
def farKill (s : State) (pkg lid : Nat) : State :=
  let (left, s) := s.killWork (s.host.launches.filter fun l => l.origin == some (pkg, lid))
  { s with fabric := { s.fabric with farWaits := s.fabric.farWaits ++ [⟨pkg, .killed lid, left⟩] } }

/-! ## Control operations (R412) -/

/-- A queue as its record describes it (Table 14-1). -/
def recordQueue (s : State) (rec_ : Nat) : HostQueue :=
  let r : BitVec 512 := BitVec.ofNat 512 (s.wordAt .pool rec_ 64)
  let n (lo w : Nat) : Nat := (r.extractLsb' lo w).toNat
  ⟨rec_, r.extractLsb' 320 64, r.extractLsb' 256 64, r.extractLsb' 224 32, r.extractLsb' 208 16, n 155 5, r.getLsbD 154, n 150 4,
    n 448 64, n 384 64, .registered, 0, n 0 64, none, n 384 64, 1000, 0, none, [], [], [], (0, 0)⟩

/-- The checks of operation 0x01. -/
def recordOk (s : State) (rec_ : Nat) (q : HostQueue) : Bool :=
  rec_ < 2 ^ 52 && 4 ≤ q.log2n && q.log2n ≤ 20 && q.wiaddr.toNat % 8 == 0 && q.ring.toNat % (64 * 2 ^ q.log2n) == 0
    && q.qtag != 0 && !(s.host.queues.any fun x => x.qtag == q.qtag || x.rec_ == rec_) && (s.ctxTables q.ctx).isSome
    && s.wordAt .pool rec_ 64 / 2 ^ 64 % 2 ^ 86 == 0

def addQueue (s : State) (q : HostQueue) : State :=
  ({ s with host := { s.host with queues := s.host.queues ++ [q] } } : State).writeRecord q

/-- A control packet at the head of a kernel queue (R412): the packet is taken, `k` carries the operation out on the operand, and the packet
completes. An operation whose check fails does nothing (log entry 25). -/
def withControl (s : State) (slot op : Nat) (k : State → Nat → State) : State :=
  s.withHead slot (fun p => p.type == 0x10 && p.nat 64 8 == op) fun s q p =>
    let f := flightOf q p none
    let s := k (s.takePacket q f) (p.nat 72 56)
    match s.queueAt q.rec_ with
    | none => s
    | some x =>
      if x.flights.isEmpty then (match s.performSignal x f with
        | some (s, _) => s
        | none => s.queueStops x 0x07)
      else s.completePacket q.rec_ q.ri

/-- The control packet of a reset that has not ended waits with it; `resetQueue` has left its queue in STATE 3 (R412, R416). -/
def resetControl (s : State) (slot : Nat) : State :=
  s.withHead slot (fun p => p.type == 0x10 && p.nat 64 8 == 3) fun s q p =>
    let rec_ := 64 * p.nat 72 56
    let f := flightOf q p none
    let s := (s.takePacket q f).resetQueue rec_
    match s.queueAt rec_, s.queueAt q.rec_ with
    | some x, some k =>
      if x.state == .resetting then s.putQueue { x with resetter := (q.rec_, q.ri) }
      else if k.flights.isEmpty then (match s.performSignal k f with
        | some (s, _) => s
        | none => s.queueStops k 0x07)
      else s.completePacket q.rec_ q.ri
    | _, _ => s.completePacket q.rec_ q.ri

/-- The resets that have nothing more to wait for end, and their control packets complete. -/
def settleResets (s : State) : State :=
  (s.host.queues.filter fun q => q.state == .resetting && q.quiesce.isEmpty && !(q.drains.any s.outstanding)).foldl (fun s q =>
    (s.finishReset q.rec_).completePacket q.resetter.1 q.resetter.2) s

/-! ## Firmware commands and leases (R413, R414) -/

/-- A firmware command with an epoch: an older one than the newest accepted is rejected (R413). -/
def underEpoch (s : State) (epoch : Nat) (k : State → State) : State :=
  if epoch < s.host.maxEpoch then s else k { s with host := { s.host with maxEpoch := epoch } }

/-- The lowest free queue engine slot of 1,024. -/
def freeEngineSlot (s : State) : Option Nat := (List.range 1024).find? fun k => (s.queueOnSlot k).isNone

/-- A queue record is bound to a slot. A record with KQ set that is not yet known is one that firmware made at boot (R403). -/
def mapQueue (s : State) (rec_ : Nat) : State :=
  let fromRec := s.recordQueue rec_
  let s := if (s.queueAt rec_).isNone && fromRec.kq && s.recordOk rec_ fromRec then s.addQueue fromRec else s
  match s.queueAt rec_, s.freeEngineSlot with
  | some q, some k =>
    if q.slot.isSome then s
    else s.putQueue { q with
      slot := some k, state := if q.state == .error then .error else .mapped, ri := fromRec.ri, wic := fromRec.ri
      ci := if q.flights.isEmpty then fromRec.ci else q.ci, drops := fromRec.drops, interval := 1000, next := s.dtime + 1000, inline_ := none }
  | _, _ => s

/-- A slot stops; launches that have been dispatched run on (R413). -/
def unmapQueue (s : State) (slot : Nat) : State :=
  match s.queueOnSlot slot with
  | some q => s.putQueue { q with slot := none, inline_ := none, state := if q.state == .error then .error else .registered }
  | none => s

/-- The cores of a die that hold a logical number. -/
def liveCores (s : State) (die : Nat) : List CoreId := (dieCores die).filter fun c => (s.coreAt c).status == .live

/-- Switch on one die: SWCX.load and SWCX.arm of every core, or nothing where a core refuses (R396, R413). -/
def switchDie (ctx : BitVec 32) (frame time : Nat) (s : State) (die : Nat) : State :=
  let cs := s.liveCores die
  if cs.any s.loadRefused then s
  else cs.foldl (fun s c => s.armCore time c) (cs.foldl (fun s c => s.loadShadow c frame ctx) s)

def leaseOf (s : State) (k : LeaseKind) : Lease := (s.host.leases.find? (·.kind == k)).getD ⟨k, 0, 0, 0⟩

def setLease (s : State) (l : Lease) : State :=
  { s with host := { s.host with leases := s.host.leases.map fun x => if x.kind == l.kind then l else x } }

/-- Length of a lease in nanoseconds (R414, R434). -/
def leaseTime : LeaseKind → Nat
  | .package => 2000000
  | .vuvosum | .kernel => 20000000

/-- A lease passes to a holder. -/
def takeLease (s : State) (l : Lease) (holder : Nat) : State :=
  s.setLease { l with holder := holder, epoch := l.epoch + 1, expiry := s.dtime + leaseTime l.kind }

/-- The notification bits that are set are sent again (R423). -/
def resendBits (s : State) : State :=
  let bits := (List.range 5).filter s.notif.getLsbD
  { s with fabric := { s.fabric with outbound := s.fabric.outbound ++ bits.flatMap fun b => [.interrupt b, .msix b] } }

end State

/-! ## Events -/

/-- WORKGROUP_PLACE (R22, R417, R418): a share that the Vuvosum's distributors send arrives, a co-resident workgroup goes elsewhere, or the
die places a workgroup. -/
def execWorkgroupPlace (p : Placing) (s : State) : Out :=
  .next (match p with
    | .arrives x => s.takeShare x
    | .elsewhere lid w index => match s.host.launches.find? (·.lid == lid) with
      | some l => s.placeElsewhere l w index
      | none => s
    | .here die => (s.placeNext die s.host.launches).getD s)

/-- Whether a distributor of a die may steal: nothing is pending there. -/
def State.idleDie (s : State) (die : Nat) : Bool := s.host.launches.all fun l => (State.pendingOn l die).isEmpty

/-- A share as the launch that it would belong to. -/
def launchOf (x : Share) : Launch :=
  ⟨0, 0, x.idx, x.ctx, x.part, x.packet, x.desc, [], false, some (x.pkg, x.lid), 0, 0, [], false, [], false⟩

/-- Whether an idle die may be handed work of another package: up to four workgroups of one launch that may be stolen from, to a die that it allows,
with a core able to hold one, and only where no sibling die has any for it (R419). -/
def State.mayBeHanded (s : State) (die : Nat) (xs : List Share) : Bool :=
  s.idleDie die && xs.length ≤ 4
    && xs.all (fun x => !Desc.cores x.desc && Desc.aff x.desc != 2 && (s.allowedDies x.packet).contains die
        && (s.findPlace (launchOf x) die (s.host.launches.flatMap State.draining) ⟨0, none, none⟩).isSome
        && xs.head?.map (fun y => (y.pkg, y.lid)) == some (x.pkg, x.lid))
    && s.host.launches.all fun l => (s.steal l die).isNone

/-- WORK_STEAL (R22, R419): a die with nothing pending takes from a sibling die, or its package's distributor from another package's list; or
another package takes from this one. -/
def execWorkSteal (x : Steal) (s : State) : Out :=
  .next (match x with
    | .sibling die => if s.idleDie die then (s.host.launches.findSome? fun l => s.steal l die).getD s else s
    | .package die xs =>
      if s.mayBeHanded die xs then xs.foldl (fun s x => s.takeShare { x with die := die, pref := none, named := none }) s else s
    | .taken pkg lid => match s.host.launches.find? (·.lid == lid) with
      | some l => s.yieldShares pkg l
      | none => s)

/-- LAUNCH_COMPLETE (R410): the signal is performed, and only then CI passes. What this package has of another's launch is reported to
it. -/
def execLaunchComplete (e : LaunchEnd) (s : State) : Out :=
  let s := s.modLaunch e.lid fun l => { l with away := l.away - e.ended }
  .next (match s.host.launches.find? (·.lid == e.lid) with
    | none => s
    | some l =>
      if !s.launchDone l then s
      else
        let s : State := { s with host := { s.host with launches := s.host.launches.filter (·.lid != e.lid) } }
        match l.origin with
        | some o => s.send (.ended o.1 o.2 l.took)
        | none => s.completePacket l.rec_ l.idx)

/-- QUEUE_REGISTER (R412). -/
def execQueueRegister (slot : Nat) (s : State) : Out :=
  .next (s.withControl slot 1 fun s x =>
    let q := s.recordQueue (64 * x)
    if s.recordOk (64 * x) q && !q.kq then s.addQueue q else s)

/-- QUEUE_DEREGISTER (R412). -/
def execQueueDeregister (slot : Nat) (s : State) : Out :=
  .next (s.withControl slot 2 fun s x =>
    match s.queueAt (64 * x) with
    | some q =>
      if q.state == .registered || q.state == .resetDone then
        { s with host := { s.host with queues := s.host.queues.filter (·.rec_ != 64 * x) } }
      else s
    | none => s)

/-- QUEUE_RESET (R416). -/
def execQueueReset (slot : Nat) (s : State) : Out := .next (s.resetControl slot)

/-- QUEUE_PRIORITY (R412): PRI of the record and of the run lists changes. -/
def execQueuePriority (slot : Nat) (s : State) : Out :=
  .next (s.withControl slot 4 fun s x =>
    let rec_ := 64 * (x / 256)
    match s.queueAt rec_ with
    | some q =>
      let w : Word := BitVec.ofNat 32 (s.wordAt .pool (rec_ + 16) 4)
      let pri := x % 16
      (s.putWord .pool (rec_ + 16) 4 ((w &&& ~~~(0x3C00000 : Word)) ||| BitVec.ofNat 32 (pri * 2 ^ 22)).toNat).putQueue { q with pri := pri }
    | none => s)

/-- MAP (R413). -/
def execMap (epoch record : Nat) (s : State) : Out := .next (s.underEpoch epoch fun s => s.mapQueue record)

/-- UNMAP (R413). -/
def execUnmap (epoch slot : Nat) (s : State) : Out := .next (s.underEpoch epoch fun s => s.unmapQueue slot)

/-- SWITCH (R413). -/
def execSwitch (epoch : Nat) (dies : List Nat) (ctxid : BitVec 32) (frame time : DWord) (s : State) : Out :=
  .next (s.underEpoch epoch fun s => dies.foldl (State.switchDie ctxid frame.toNat time.toNat) s)

/-- The queues that a new package leader has unmapped are mapped again, under its epoch (R413, R414). -/
def State.remapQueues (s : State) : State :=
  s.underEpoch (s.leaseOf .package).epoch fun s =>
    s.host.remap.foldl (fun s r => s.mapQueue r) { s with host := { s.host with remap := [] } }

/-- LEASE_RENEW (R414, R434): the holder renews while the lease has not lapsed; a new package leader maps its queues again no later than that (log
entry 19). -/
def execLeaseRenew (k : LeaseKind) (s : State) : Out :=
  .next (
    let l := s.leaseOf k
    if s.dtime ≤ l.expiry then
      let s := s.setLease { l with expiry := s.dtime + State.leaseTime k }
      if k == .package && !s.host.remap.isEmpty then s.remapQueues else s
    else s)

/-- A new package leader unmaps every slot of its package, under its epoch, and will map them again (R413, R414). -/
def State.newLeader (s : State) : State :=
  s.underEpoch (s.leaseOf .package).epoch fun s =>
    let qs := s.host.queues.filter (·.slot.isSome)
    (qs.filterMap (·.slot)).foldl (fun s k => s.unmapQueue k) { s with host := { s.host with remap := qs.map (·.rec_) } }

/-- Who may take a lease (R414): another of the package's nine die controller cores, numbered by die with the host die last, or another leader of a
package of the Vuvosum, by package index. Followers try in ascending order; the event names the first that does (log entry 19). -/
def State.mayTake (s : State) (k : LeaseKind) (holder : Nat) : Bool :=
  holder != (s.leaseOf k).holder && (match k with
    | .package => holder ≤ 8
    | .vuvosum => holder == s.pkgIndex || (s.vuvPeers.map (· % 64)).contains holder
    | .kernel => false)

/-- LEASE_TAKEOVER (R414): a follower takes a lease that has lapsed by more than 1 µs, and its epoch rises by 1. -/
def execLeaseTakeover (k : LeaseKind) (holder : Nat) (s : State) : Out :=
  .next (
    let l := s.leaseOf k
    if s.mayTake k holder && l.expiry + 1000 < s.dtime then
      let s := (s.takeLease l holder).notify 3
      if k == .package then s.newLeader else s
    else s)

/-- KERNEL_TAKEOVER (R434): the standby host die of the pair takes the lapsed lease, and every set notification bit is sent to it. -/
def execKernelTakeover (s : State) : Out :=
  .next (
    let l := s.leaseOf .kernel
    if l.expiry < s.dtime then (s.takeLease l (1 - l.holder)).resendBits else s)

end Sys2Proof.Machine
end

