-- ==== Sys2Proof/Machine/Links.lean ====
section
/-! DEFINITION. Keloma links: flits, their segments and packets, replay, and key rotation (R13, R321 to R323, Tables 10-8, 10-9 and 12-2). -/

/-! ## Segments -/

namespace Sys2Proof.Flit
def nat (f : Flit) (lo n : Nat) : Nat := (f.head.extractLsb' lo n).toNat
def fseq (f : Flit) : BitVec 16 := f.head.extractLsb' 32 16
def ackseq (f : Flit) : BitVec 16 := f.head.extractLsb' 48 16
def kg (f : Flit) : Bool := f.head.getLsbD 18
/-- What segment `i` holds: 0 empty, 1 request header, 2 response header, 3 data. -/
def smap (f : Flit) (i : Nat) : Nat := f.nat (2 * i - 2) 2
end Sys2Proof.Flit

namespace Sys2Proof.Machine

/-! Fields of a header segment (Table 10-9). A response header has the same layout, with a sub-code in its first OPS word (log entry 18). -/
namespace Segment
def nat (h : BitVec 512) (lo n : Nat) : Nat := (h.extractLsb' lo n).toNat
/-- OPS word `k`. -/
def ops (h : BitVec 512) (k : Nat) : Word := h.extractLsb' (288 + 32 * k) 32
def cnt (h : BitVec 512) : Word := h.extractLsb' 256 32
def addr (h : BitVec 512) : Nat := nat h 192 64
def part (h : BitVec 512) : Byte := h.extractLsb' 160 8
def ctxid (h : BitVec 512) : BitVec 32 := h.extractLsb' 128 32
def len (h : BitVec 512) : Nat := nat h 112 13
def tag (h : BitVec 512) : Nat := nat h 96 16
def dst (h : BitVec 512) : CoreId := ⟨nat h 40 3, nat h 44 6⟩
def dpkg (h : BitVec 512) : Nat := nat h 28 12
/-- The gateway that a packet reaches: DDIE's, or the host die's, 8 (R321). -/
def gateway (h : BitVec 512) : Nat := if h.getLsbD 43 then 8 else nat h 40 3
def kop (h : BitVec 512) : Nat := nat h 0 8
/-- The sender, with both incarnations. -/
def stamp (h : BitVec 512) : Stamp := ⟨h.extractLsb' 16 12, h.extractLsb' 64 16, h.extractLsb' 80 16⟩
end Segment

/-- Data bytes of a packet: its data segments in order, cut to LEN. -/
def packetBytes (p : Partial) : List Byte := (p.data.flatMap fun d => leBytes 64 d.toNat).take (Segment.len p.head)

/-- Whether every data segment of a packet is there (R322). -/
def packetDone (p : Partial) : Bool := (Segment.len p.head + 63) / 64 ≤ p.data.length

/-- Journal records in a packet's data. -/
def packetRecords (bs : List Byte) : List JRec :=
  (List.range (bs.length / 32)).map fun k => BitVec.ofNat 256 (leNat ((bs.drop (32 * k)).take 32))

/-- The contribution of an XRED packet: OPS is the block of R317, and its operation and type stand in the low bits of CNT (log entry 18). -/
def packetContribution (h : BitVec 512) (data : List Byte) : Contribution :=
  let w (k : Nat) : Nat := (Segment.ops h k).toNat
  ⟨Segment.stamp h, w 0 % 65536, Segment.ctxid h, w 0 / 65536 % 256, BitVec.ofNat 8 (w 0 / 16777216), BitVec.ofNat 64 (w 5 * 2 ^ 32 + w 4),
    (Segment.cnt h).setWidth 2, (Segment.cnt h).getLsbD 2, w 6, data, Segment.tag h⟩

namespace State

/-- The command of this package whose tag a response returns. -/
def taggedCommand (s : State) (tag : Nat) : Nat :=
  ((s.fabric.commands.find? fun c => c.id % 65536 == tag).map (·.id)).getD 0

/-- Another package's load, store or atomic reaches pool memory that this package homes (R23, Table 10-9). Poisoned data go back marked, and an
atomic leaves its location unchanged then (R213, R242). The operation, type and data of an
atomic stand in OPS (log entry 18). -/
def remoteAccess (s : State) (h : BitVec 512) (data : List Byte) : State :=
  let a := Segment.addr h
  let from_ := Segment.stamp h
  let answer (code cause : Nat) (bs : List Byte) (s : State) : State :=
    s.send (.answer from_.spkg.toNat (s.stamp from_.spkg.toNat) (Segment.tag h) code cause a bs)
  let reply (bs : List Byte) (s : State) : State := answer 0 0 bs s
  let bad (n : Nat) : Bool := (List.range n).any fun i => s.poisoned .pool (a + i)
  if !s.fresh? from_ then s.countStale (Segment.gateway h)
  else if 2 ^ 52 < a + 64 then s
  else match Segment.kop h with
    | 0x10 =>
      let n := min 64 (Segment.ops h 0).toNat
      if bad n then answer 0x25 0x0C [] s else reply (s.bytesAt .pool a n) s
    | 0x11 => reply [] ((s.putBytes .pool a data).tie (Segment.part h) a data.length)
    | _ =>
      if bad (Ty.ofBits ((Segment.ops h 1).setWidth 4)).bytes then answer 0x25 0x0C [] s
      else
      let ty := Ty.ofBits ((Segment.ops h 1).setWidth 4)
      let n := ty.bytes
      let old : DWord := BitVec.ofNat 64 (s.wordAt .pool a n)
      let arg (k : Nat) : DWord := BitVec.ofNat 64 ((Segment.ops h k).toNat + 2 ^ 32 * (Segment.ops h (k + 1)).toNat)
      reply (leBytes n old.toNat) (s.putWord .pool a n (atomNew (Segment.ops h 0).toNat ty old (arg 2) (arg 4)).toNat)

/-- A response packet reaches its command (R311, R320). -/
def responseArrives (s : State) (h : BitVec 512) (data : List Byte) : State :=
  let from_ := Segment.stamp h
  let id := s.taggedCommand (Segment.tag h)
  let code := (Segment.ops h 0).toNat % 256
  if !s.fresh? from_ then s.countStale (Segment.gateway h)
  else if code ≠ 0 then s.answerArrives id code ((Segment.ops h 1).toNat % 256) (Segment.addr h)
  else match Segment.kop h with
    | 0x03 => s.packetArrives ⟨from_.sinc, from_.dinc, from_.spkg, Segment.part h, Segment.ctxid h, Segment.dst h, Segment.addr h, data,
        0xFFFFFFFF, some id, true, false⟩ none
    | 0x21 => { s with fabric := { s.fabric with results := s.fabric.results ++ [⟨id, data, data.length = 16⟩] } }
    | _ => s.answerArrives id 0 0 0

/-- A request packet reaches its core, switch, die or home. -/
def requestPacketArrives (s : State) (h : BitVec 512) (data : List Byte) : State :=
  let from_ := Segment.stamp h
  let die := (Segment.dst h).die
  let next (o : Out) : State := match o with
    | .next t => t
    | _ => s
  match Segment.kop h with
  | 0x01 => s.packetArrives ⟨from_.sinc, from_.dinc, from_.spkg, Segment.part h, Segment.ctxid h, Segment.dst h, Segment.addr h, data,
      Segment.cnt h, some (Segment.tag h), false, (Segment.ops h 0).getLsbD 0⟩ none
  | 0x02 => s.requestArrives ⟨from_.sinc, from_.dinc, from_.spkg, Segment.part h, Segment.ctxid h, Segment.dst h, Segment.addr h,
      (Segment.ops h 0).toNat, Segment.tag h, ⟨(Segment.ops h 1).toNat / 64 % 8, (Segment.ops h 1).toNat % 64⟩, (Segment.ops h 2).toNat⟩ none
  | 0x10 | 0x11 | 0x12 => s.remoteAccess h data
  | 0x20 => s.contributionArrives (packetContribution h data)
  | 0x30 => next (execJournalAppendArrival die from_ (Segment.ctxid h) (Segment.ops h 0).toNat (Segment.addr h) (packetRecords data) s)
  | 0x31 => next (execJournalAckArrival die (Segment.ctxid h) from_.spkg from_.sinc from_.dinc (Segment.addr h) s)
  | 0x32 => next (execJournalTruncateArrival die from_ (Segment.ctxid h) (Segment.addr h) s)
  | 0x33 => next (execJournalFetchRequest die ⟨from_, (Segment.ops h 0).toNat % 8, Segment.addr h⟩ ((Segment.ops h 1).setWidth 12) ((Segment.ops h 2).toNat % 8)
      (Segment.ops h 3) (Segment.ctxid h) s)
  | 0x34 => next (execJournalFetchResponse die (Segment.ctxid h) from_ ⟨Segment.addr h, packetRecords data⟩ s)
  | _ => s

/-- A whole packet is delivered; one of this package's own number, or for another package, is not. -/
def deliverPacket (s : State) (p : Partial) : State :=
  if (Segment.stamp p.head).spkg.toNat = s.pkg || Segment.dpkg p.head ≠ s.pkg then s
  else if p.response then s.responseArrives p.head (packetBytes p) else s.requestPacketArrives p.head (packetBytes p)

/-- One segment of a flit joins the packet that the link is receiving (R322). -/
def segmentArrives (s : State) (port kind : Nat) (seg : BitVec 512) : State :=
  let l := s.linkAt port
  let now : Option Partial := match kind, l.part with
    | 1, _ => some ⟨seg, false, []⟩
    | 2, _ => some ⟨seg, true, []⟩
    | 3, some p => some { p with data := p.data ++ [seg] }
    | _, p => p
  if kind = 0 then s
  else match now with
    | none => s
    | some p => if packetDone p then (s.setLink { l with part := none }).deliverPacket p else s.setLink { l with part := some p }

/-- Retrains of a port, counted in the lifetime record too (R322, Table 15-5). -/
def retrain (s : State) (port : Nat) : State :=
  let l := s.linkAt port
  let life := s.host.life
  let n := ((life.retrains.find? (·.1 == port)).map (·.2)).getD 0
  let s : State := { s.replayFlits l with
    host := { s.host with life := { life with retrains := (port, saturated n 1) :: life.retrains.filter (·.1 != port) } } }
  s.setLink { l with failures := 0, retrains := l.retrains + 1 }

/-- A key acts on the links of the package's 36 ports. -/
def onPort (s : State) (port : Nat) (k : Link → State) : State := if port < 36 then k (s.linkAt port) else s

end State

/-- Whether flits sent under the other generation still wait for an acknowledgement (R323). -/
def Link.oldKeyNeeded (l : Link) : Bool := l.unacked.any fun u => u.kg != l.gen

/-- The flits of a replay buffer that an acknowledgement does not cover. -/
def Link.stillUnacked (l : Link) (ackseq : BitVec 16) : List TxFlit := l.unacked.filter fun u => (ackseq - u.fseq).getLsbD 15

/-- The other end asks for a retry when a flit of this package has failed there; how it does the spec does not say, so whether a received flit asks
for one is free, and an unasked repetition is dropped there by its number (R322, log entry 17). -/
def State.retryAsked (s : State) (port : Nat) : State :=
  let l := s.linkAt port
  if l.unacked.isEmpty then s
  else
    let again := (Config.freeBits s.free).getLsbD 0
    let s := { s with free := s.free + 1 }
    if again then s.replayFlits l else s

/-- FLIT_RECEIVE (R321 to R323): a flit that authenticates under the key its KG names, in order, is delivered; any other is retried, and
the eighth failure in a row retrains the link. -/
def execFlitReceive (port : Nat) (fl : Flit) (s : State) : Out :=
  .next (s.onPort port fun l =>
    if !fl.authentic || !(l.keys.getD (if fl.kg then 1 else 0) none).isSome then
      if 8 ≤ l.failures + 1 then s.retrain port else s.setLink { l with failures := l.failures + 1 }
    else if fl.fseq != l.rxNext then s
    else
      let s := s.setLink { l with failures := 0, rxNext := l.rxNext + 1, unacked := l.stillUnacked fl.ackseq }
      ((fl.segs.take 9).zipIdx.foldl (fun s x => s.segmentArrives port (fl.smap (x.2 + 1)) x.1) s).retryAsked port)

/-- LINK_RETRAIN (R322): what the replay buffer holds is sent again. -/
def execLinkRetrain (port : Nat) (s : State) : Out := .next (s.onPort port fun _ => s.retrain port)

/-- LINK_KEY_LOAD (R323): the idle slot takes the key, unless its old key is still needed; then the rotation is refused. -/
def execLinkKeyLoad (port : Nat) (key : BitVec 256) (s : State) : Out :=
  .next (s.onPort port fun l =>
    if l.oldKeyNeeded then s.setLink { l with refused := true }
    else s.setLink { l with keys := l.keys.set (if l.gen then 0 else 1) (some key), refused := false })

/-- LINK_KEY_SWITCH (R323): flits first sent from now on use the other generation. -/
def execLinkKeySwitch (port : Nat) (s : State) : Out :=
  .next (s.onPort port fun l =>
    if l.oldKeyNeeded then s.setLink { l with refused := true }
    else if (l.keys.getD (if l.gen then 0 else 1) none).isNone then s
    else (s.setLink { l with gen := !l.gen }).sendHeld)

end Sys2Proof.Machine
end

