-- ==== Sys2Proof/Machine/Notices.lean ====
section
/-! DEFINITION. Messages from other packages, and what waits for accesses to be performed (R260, R321, R395, R400, R410, R416, R418; log
entry 96). -/

namespace Sys2Proof.Machine

namespace State

/-- The gateway that a message reaches: the addressed core's die's, else the host die's (R321). -/
def noticeGateway : Notice → Nat
  | .signal core .. => core.die
  | _ => 8

/-- What the sender of a message says of itself is noted for the linked set (R410). -/
def hearLinked (s : State) (pkg set n : Nat) : State :=
  let x := s.linkedAt set
  s.setLinked { x with theirs := (pkg, n) :: x.theirs.filter (·.1 != pkg) } false

/-- A message of another package that has passed its gateway. -/
def hear (s : State) (pkg : Nat) : Notice → State
  | .signal core slot ctx v => s.postSignal core slot ctx v
  | .tlbi id k => s.farTlbi pkg id k
  | .tlbiDone id => { s with fabric := { s.fabric with tlbis := s.fabric.tlbis.filter (· != (id, pkg)) } }
  | .linked set n => s.hearLinked pkg set n
  | .kill lid => s.farKill pkg lid
  | .killed lid =>
    { s with host := { s.host with queues := s.host.queues.map fun q => { q with quiesce := q.quiesce.filter (· != (pkg, lid)) } } }
  | .reserved lid n => s.modLaunch lid fun l => { l with heard := (pkg, n) :: l.heard.filter (·.1 != pkg) }
  | .start lid =>
    { s with host := { s.host with launches := s.host.launches.map fun l => if l.origin == some (pkg, lid) then { l with go := true } else l } }

/-- A message of another package arrives (R321). -/
def noticeArrives (s : State) (x : Stamp) (n : Notice) : State :=
  if x.spkg.toNat = s.pkg then s
  else if !s.fresh? x then s.countStale (noticeGateway n)
  else s.hear x.spkg.toNat n

/-- The operations of a sequencer context that has been released leave the table: it is released when the last group of its workgroup ends
(R260). -/
def releaseSequencers (s : State) (e : Engine) : State :=
  let gone (x : EngEntry) : Bool := x.state == .aborted && !(s.workgroups.any fun w => w.wid == x.wid && s.seqInUse w)
  if e.entries.any gone then
    (s.setEngine { e with
      entries := e.entries.filter (!gone ·)
      pins := e.pins.filter fun p => !(e.entries.any fun x => x.age == p.age && gone x) }).settleTable e.quad
  else s

/-- What a move may have let go on: answers to other packages, signals, resets, released sequencers and flits. -/
def settleAll (s : State) : State :=
  let s := s.settleSignals.settleResets.settleFar
  (s.engines.foldl releaseSequencers s).settleLinks

end State

/-- FABRIC_PACKET_ARRIVAL (R315, R316, R321): a packet or a message reaches a gateway of the package. -/
def execFabricPacketArrival (x : FabricArrival) (s : State) : Out :=
  .next (match x with
    | .data pk => s.dataArrives pk
    | .notice from_ n => s.noticeArrives from_ n)

end Sys2Proof.Machine
end

