-- ==== Sys2Proof/Machine/Ethernet.lean ====
section
/-! DEFINITION. What the transmit engine does to a frame (R424): the 802.1Q tag and the checksums of IPv4, TCP and UDP. The formats are those of
the standards that the spec names (log entry 98). -/

namespace Sys2Proof.Machine.Ethernet

/-- A big-endian 16-bit field. -/
def be16 (bs : List Byte) (at_ : Nat) : Nat := (bs.getD at_ 0).toNat * 256 + (bs.getD (at_ + 1) 0).toNat

def putBe16 (bs : List Byte) (at_ v : Nat) : List Byte := (bs.set at_ (BitVec.ofNat 8 (v / 256))).set (at_ + 1) (BitVec.ofNat 8 v)

/-- The sum of the big-endian 16-bit words of some bytes; a last odd byte counts as a high byte. -/
def wordSum : List Byte → Nat
  | [] => 0
  | [x] => x.toNat * 256
  | x :: y :: rest => x.toNat * 256 + y.toNat + wordSum rest

/-- The ones' complement of the ones' complement sum, of a sum below 2^32. -/
def checksum (sum : Nat) : Nat :=
  let once := sum % 65536 + sum / 65536
  65535 - (once % 65536 + once / 65536)

/-- A tag after the two addresses. -/
def tagged (vlan : Option (BitVec 16)) (frame : List Byte) : List Byte :=
  match vlan with
  | some v => frame.take 12 ++ [0x81, 0x00, v.extractLsb' 8 8, v.extractLsb' 0 8] ++ frame.drop 12
  | none => frame

/-- The checksum of a TCP segment or a UDP datagram, whose packet gives the addresses of the pseudo header. -/
def transport (proto : Nat) (addresses seg : List Byte) : List Byte :=
  let at_ := if proto = 6 then 16 else 6
  if (proto ≠ 6 && proto ≠ 17) || seg.length < at_ + 2 then seg
  else
    let c := checksum (wordSum addresses + proto + seg.length + wordSum (putBe16 seg at_ 0))
    putBe16 seg at_ (if proto = 17 && c = 0 then 65535 else c)

/-- An IPv4 packet with its header checksum, and that of what it carries where it is no fragment. -/
def ipv4 (p : List Byte) : List Byte :=
  let head := 4 * ((p.getD 0 0).toNat % 16)
  let total := be16 p 2
  if head < 20 || total < head || p.length < total then p
  else
    let h := putBe16 (p.take head) 10 0
    let h := putBe16 h 10 (checksum (wordSum h))
    let seg := (p.take total).drop head
    let seg := if be16 p 6 % 16384 = 0 then transport (p.getD 9 0).toNat ((p.drop 12).take 8) seg else seg
    h ++ seg ++ p.drop total

/-- An IPv6 packet with the checksum of what follows its header. -/
def ipv6 (p : List Byte) : List Byte :=
  let n := be16 p 4
  if p.length < 40 + n then p
  else p.take 40 ++ transport (p.getD 6 0).toNat ((p.drop 8).take 32) ((p.drop 40).take n) ++ p.drop (40 + n)

/-- A frame with the checksums of the packet that it carries. -/
def checksummed (frame : List Byte) : List Byte :=
  let l2 := if be16 frame 12 = 0x8100 then 18 else 14
  match be16 frame (l2 - 2) with
  | 0x0800 => frame.take l2 ++ ipv4 (frame.drop l2)
  | 0x86DD => frame.take l2 ++ ipv6 (frame.drop l2)
  | _ => frame

/-- A frame as a descriptor sends it. -/
def sent (d : Config.TxDescriptor) (frame : List Byte) : List Byte :=
  let frame := tagged d.vlan frame
  if d.checksums then checksummed frame else frame

end Sys2Proof.Machine.Ethernet
end

