-- ==== Sys2Proof/Machine/Sha256.lean ====
section
/-! DEFINITION. SHA-256, which R427 and R429 use for the measurement slots and the report. The spec names the function and gives none of its
constants; they are derived here from their definition, the fractional bits of roots of the first primes (log entry 14, PRESUMED). -/

namespace Sys2Proof.Machine

namespace Sha256

/-- The primes below 312, which are 64. -/
def primes : List Nat :=
  (List.range 312).filter fun n => 2 ≤ n && [2, 3, 5, 7, 11, 13, 17].all fun d => n == d || n % d != 0

/-- The greatest number of `bits` bits whose power of exponent `e` is at most `x`, found from its highest bit on. -/
def root (e x : Nat) : Nat → Nat → Nat
  | 0, low => low
  | bits + 1, low => root e x bits (if (low + 2 ^ bits) ^ e ≤ x then low + 2 ^ bits else low)

/-- The first 32 fractional bits of the root of exponent `e` of a prime. -/
def fraction (e p : Nat) : Word := BitVec.ofNat 32 (root e (p * 2 ^ (32 * e)) 37 0)

/-- What a round works on: eight words, from the newest sum to the oldest. -/
structure Work where
  new : Word
  new1 : Word
  new2 : Word
  new3 : Word
  mid : Word
  mid1 : Word
  mid2 : Word
  mid3 : Word
  deriving DecidableEq, Repr

def Work.words (x : Work) : List Word := [x.new, x.new1, x.new2, x.new3, x.mid, x.mid1, x.mid2, x.mid3]

def Work.ofWords (l : List Word) : Work :=
  let w (i : Nat) : Word := l.getD i 0
  ⟨w 0, w 1, w 2, w 3, w 4, w 5, w 6, w 7⟩

/-- The hash before the first block: square roots of the first eight primes. -/
def start : Work := Work.ofWords ((primes.take 8).map (fraction 2))

/-- The exclusive or of three rotations to the right. -/
def turns (x : Word) (i j k : Nat) : Word := x.rotateRight i ^^^ x.rotateRight j ^^^ x.rotateRight k

/-- One round with a word of the block's schedule and the constant of the round, from the cube root of its prime. -/
def round (x : Work) (w : Word × Nat) : Work :=
  let pick := ((x.mid1 ^^^ x.mid2) &&& x.mid) ^^^ x.mid2
  let most := ((x.new ||| x.new1) &&& x.new2) ||| (x.new &&& x.new1)
  let t := x.mid3 + turns x.mid 6 11 25 + pick + w.1 + fraction 3 w.2
  { new := t + turns x.new 2 13 22 + most, new1 := x.new, new2 := x.new1, new3 := x.new2
    mid := x.new3 + t, mid1 := x.mid, mid2 := x.mid1, mid3 := x.mid2 }

/-- The schedule grown by some words; its words stand in order. -/
def grow : Nat → List Word → List Word
  | 0, ws => ws
  | n + 1, ws =>
    let back (k : Nat) : Word := ws.getD (ws.length - k) 0
    let far := (back 15).rotateRight 7 ^^^ (back 15).rotateRight 18 ^^^ (back 15 >>> 3)
    let near := (back 2).rotateRight 17 ^^^ (back 2).rotateRight 19 ^^^ (back 2 >>> 10)
    grow n (ws ++ [back 16 + far + back 7 + near])

/-- The hash after one more block of 16 words. -/
def absorb (x : Work) (ws : List Word) : Work :=
  Work.ofWords ((x.words.zip (((grow 48 ws).zip primes).foldl round x).words).map fun p => p.1 + p.2)

/-- Word `i` of a byte string, its first byte highest. -/
def wordAt (m : List Byte) (i : Nat) : Word :=
  m.getD (4 * i) 0 ++ m.getD (4 * i + 1) 0 ++ m.getD (4 * i + 2) 0 ++ m.getD (4 * i + 3) 0

/-- The message with its end mark and its length in bits, filled up to whole blocks. -/
def padded (m : List Byte) : List Byte :=
  let body := m ++ [0x80#8]
  body ++ List.replicate ((120 - body.length % 64) % 64) 0 ++ (leBytes 8 (8 * m.length)).reverse

/-- The digest of a byte string: 32 bytes. -/
def digest (m : List Byte) : List Byte :=
  let p := padded m
  let hash := (List.range (p.length / 64)).foldl
    (fun x b => absorb x ((List.range 16).map fun i => wordAt p (16 * b + i))) start
  hash.words.flatMap fun w => (leBytes 4 w.toNat).reverse

end Sha256
end Sys2Proof.Machine
end

