-- ==== Sys2Proof/Machine/Platform.lean ====
section
/-! DEFINITION. The host die's endpoint, Ethernet ports, time base, root of trust, lifetime record and power (R420 to R433). -/

namespace Sys2Proof.Machine

namespace State

def emit (s : State) (o : Outbound) : State := { s with fabric := { s.fabric with outbound := s.fabric.outbound ++ [o] } }

def modHost (s : State) (f : HostState → HostState) : State := { s with host := f s.host }

def modLife (s : State) (f : LifeCounters → LifeCounters) : State := s.modHost fun h => { h with life := f h.life }

/-! ## Host accesses (R420, R422) -/

/-- Bytes that the aperture reads at their home under the aperture's partition; data under another key is free (R422, R430). -/
def apertureRead (s : State) (part : Byte) (at_ n : Nat) : List Byte × State :=
  ((List.range n).map fun i => if s.isStale part (at_ + i) then (Config.freeBits (s.free + i)).setWidth 8 else s.byteAt .pool (at_ + i),
    { s with free := s.free + n })

/-- Bytes of an AtomicOp. -/
def opBytes (wide : Bool) : Nat := if wide then 8 else 4

/-- An AtomicOp at its home, at an offset of the aperture: the old value goes back. A misaligned one is rejected, and a poisoned location keeps its
value (R242). -/
def apertureAtomic (s : State) (off : Nat) (wide : Bool) (new : Nat → Nat) : State :=
  let n := opBytes wide
  let at_ := s.host.aperture.1 + off
  let part := s.host.aperture.2
  if 2 ^ 36 < off + n || off % n ≠ 0 then s
  else
    let bad := (List.range n).any fun i => s.poisoned .pool (at_ + i)
    let (old, s) := s.apertureRead part at_ n
    (if bad then s else (s.putWord .pool at_ n (new (leNat old) % 2 ^ (8 * n))).tie part at_ n).emit (.completion old)

/-! ## Lifetime record (R431) -/

/-- Time since the last count, divided over some bins: which part falls in which is free, and the parts make up the whole (log entry 21). -/
def addBins (free : Nat) : Nat → List Nat → List Nat
  | _, [] => []
  | rest, [x] => [saturated x rest]
  | rest, x :: y :: xs =>
    let n := (Config.freeBits free).toNat % (rest + 1)
    saturated x n :: addBins (free + 1) (rest - n) (y :: xs)

/-- The same for the bins of every die. -/
def addDieBins (free span : Nat) (bins : List (List Nat)) : List (List Nat) := bins.zipIdx.map fun x => addBins (free + 16 * x.2) span x.1

/-- The counters brought up to date. -/
def bringLife (s : State) : State :=
  let span := s.dtime - s.host.countedAt
  let h := s.host
  let l := h.life
  let src := (Config.freeBits (s.free + 288)).toNat % 1024
  let n := ((l.corrected.find? (·.1 == src)).map (·.2)).getD 0
  let life := { l with
    temp := addDieBins s.free span l.temp
    volt := addDieBins (s.free + 144) span l.volt
    corrected := (src, saturated n (Config.freeBits (s.free + 289)).toNat) :: l.corrected.filter (·.1 != src)
    onTime := saturated l.onTime span
    throttleTime := saturated l.throttleTime (if h.throttle = 0 then 0 else s.dtime - h.throttleAt) }
  { s with free := s.free + 290, host := { h with life := life, throttleAt := s.dtime, countedAt := s.dtime } }

/-- The counters are written to flash. -/
def saveLife (s : State) : State :=
  let s := s.bringLife
  s.modHost fun h => { h with flash := h.life, savedAt := s.dtime }

/-- The counters as function 0 or the I3C port gives them, in the order of Table 15-5, each in 8 bytes (log entry 21). -/
def lifeBytes (l : LifeCounters) : List Byte :=
  let hours (n : Nat) : Nat := n / 3600000000000
  ((l.temp ++ l.volt).flatMap (·.map hours) ++ l.droops ++ l.corrected.flatMap (fun x => [x.1, x.2]) ++ [l.fenced]
    ++ l.fences.flatMap (fun x => [x.1.die, x.1.core, x.2.1, x.2.2]) ++ l.retrains.flatMap (fun x => [x.1, x.2])
    ++ [hours l.onTime, l.cycles, hours l.throttleTime]).flatMap (leBytes 8)

/-- A read of the aperture registers, of the lifetime counters, or of the status code of a boot; the last two answer over I3C as well, and so with
the link down (R420, R422, R427, R431). -/
def managementRead (s : State) : Management → State
  | .aperture => if s.host.pcieDown then s else s.emit (.completion (leBytes 8 s.host.aperture.1 ++ [s.host.aperture.2]))
  | .lifetime =>
    let s := s.bringLife
    s.emit (.completion (lifeBytes s.host.life))
  | .bootStatus => s.emit (.completion (leBytes 8 (s.host.bootStatus.getD 0).toNat))

/-- A host access through BAR2, at an offset below 64 GiB, or a read of function 0. -/
def hostAccess (s : State) : HostAccess → State
  | .management r => s.managementRead r
  | .read off len =>
    if s.host.pcieDown || 2 ^ 36 < off + len then s
    else
      let (bs, s) := s.apertureRead s.host.aperture.2 (s.host.aperture.1 + off) len
      s.emit (.completion bs)
  | .write off data =>
    let at_ := s.host.aperture.1 + off
    if s.host.pcieDown || 2 ^ 36 < off + data.length then s else (s.putBytes .pool at_ data).tie s.host.aperture.2 at_ data.length
  | .fetchAdd off wide v => if s.host.pcieDown then s else s.apertureAtomic off wide fun x => x + v.toNat
  | .swap off wide v => if s.host.pcieDown then s else s.apertureAtomic off wide fun _ => v.toNat
  | .cas off wide c v =>
    if s.host.pcieDown then s else s.apertureAtomic off wide fun x => if x = c.toNat % 2 ^ (8 * opBytes wide) then v.toNat else x

/-! ## Boot and measurement (R427) -/

/-- The bytes of a 256-bit value, byte 0 in bits 7:0. -/
def slotBytes (x : BitVec 256) : List Byte := leBytes 32 x.toNat

/-- M := SHA-256(M ‖ digest). -/
def extendSlot (m digest : BitVec 256) : BitVec 256 := BitVec.ofNat 256 (leNat (Sha256.digest (slotBytes m ++ slotBytes digest)))

/-- The slots of a package after a measurement. -/
def measure (h : HostState) (slot : Nat) (digest : BitVec 256) : HostState :=
  { h with m := h.m.set slot (extendSlot (h.m.getD slot 0) digest) }

/-- Whether an image passes the ROM's checks. -/
def imageOk (h : HostState) (i : BootImage) : Bool := i.signed && h.fuses.getD i.slot 0 ≤ i.version

/-- The slots of the stage that may be loaded after one, in the order of Table 15-3; M5 and M7 measure no stage. -/
def nextStages : Option Nat → List Nat
  | none => [0]
  | some 4 => [4, 6]
  | some 6 => [6]
  | some k => [k, k + 1]

/-- The stages in order: each is checked and measured before it runs; a failing or a missing one halts boot. -/
def bootStages (h : HostState) (last : Option Nat) : List BootImage → HostState
  | [] => { h with boot := if last = some 6 then .running else .halted }
  | i :: is =>
    if imageOk h i && (nextStages last).contains i.slot then bootStages (measure h i.slot i.digest) (some i.slot) is
    else { h with boot := .halted }

/-- The digest of what is fused: the security versions and the lifecycle state (M5, log entry 20). -/
def fuseDigest (h : HostState) : BitVec 256 :=
  BitVec.ofNat 256 (leNat (Sha256.digest (h.fuses.flatMap (fun v => leBytes 2 v) ++ [h.lifecycle])))

/-- A boot: the fuses are measured, and the stages are loaded. -/
def bootFrom (h : HostState) (images : List BootImage) : HostState := bootStages (measure h 5 (fuseDigest h)) none images

/-- The package as reset leaves it: what is fused, named by the pod or kept in flash stays. A reset under power keeps the counts; those that were
not saved are lost with the power (R431). -/
def afterReset (s : State) : State :=
  let s := if s.host.powered then s.bringLife else s
  let life := if s.host.powered then s.host.life else { s.host.flash with cycles := saturated s.host.flash.cycles 1 }
  { State.reset with
    pkg := s.pkg, vuvs := s.vuvs, sched := s.sched, free := s.free, nextId := s.nextId
    fabric := { Fabric.reset with incarnation := s.fabric.incarnation }
    host := { HostState.reset with fuses := s.host.fuses, lifecycle := s.host.lifecycle, life := life, flash := s.host.flash, pcieDown := s.host.pcieDown } }

/-! ## Attestation (R429) -/

/-- Bytes 0x000 to 0x14F of a report (Table 15-4). -/
def reportBody (s : State) (nonce : BitVec 256) : List Byte :=
  leBytes 4 0x00015A51
    ++ leBytes 4 (s.pkg % 4096 + 65536 * s.fabric.incarnation.toNat)
    ++ leBytes 16 Config.serial.toNat
    ++ slotBytes nonce
    ++ s.host.m.flatMap slotBytes
    ++ leBytes 8 s.dtime
    ++ s.host.fuses.flatMap fun v => leBytes 2 v

/-- The public key that the package's certificate chain certifies (R428). -/
def publicKey (s : State) : Option (BitVec 256) := s.host.identity.map Config.publicKey

/-- The report with its signature of 7,856 bytes, by the identity key over the digest of the body. -/
def attestation (s : State) (key : BitVec 512) (nonce : BitVec 256) : List Byte :=
  let body := s.reportBody nonce
  let sig := Config.sign key (Sha256.digest body)
  body ++ (sig ++ List.replicate 7856 0).take 7856

/-! ## Keys (R430) -/

/-- A partition's key is replaced. Under a new HBM key, what HBM holds of the partition was written under an earlier one; dirty bytes of L2 are
not yet in HBM. -/
def installKey (s : State) (part : Byte) (keloma : Bool) (key : BitVec 256) : State :=
  let same (k : KeyRec) : Bool := k.part == part && k.keloma == keloma
  let changed := s.host.keys.any fun k => same k && k.key != key
  let s := s.modHost fun h => { h with keys := ⟨part, keloma, key⟩ :: h.keys.filter fun k => !same k }
  if changed && !keloma then
    let range := s.l2.foldl (fun rs c => freshen rs c.1) [(part, 0, 2 ^ 52)]
    { s with stale := s.stale.filter (·.1 != part) ++ range }
  else s

/-! ## Time (R426) -/

/-- DTIME is stepped forward: the spans that are counted from an earlier DTIME are not longer for it. -/
def stepTime (s : State) (now : Nat) : State :=
  let d := now - s.dtime
  if d = 0 then s
  else { s with
    dtime := now, dfrac := 0
    host := { s.host with savedAt := s.host.savedAt + d, countedAt := s.host.countedAt + d, throttleAt := s.host.throttleAt + d } }

/-- The time that the package follows: what DTIME is short of it is made good by slewing. -/
def follow (s : State) (time : Nat) : State :=
  s.modHost fun h => { h with lead := ((time : Int) - (s.dtime : Int)) * 50000 - (s.dfrac : Int) }

end State

/-! ## Events -/

/-- NOTIFICATION_READ (R423): the word is returned, and LEASE is clear until the next change of holder. -/
def execNotificationRead (s : State) : Out :=
  .next ((s.emit (.completion (leBytes 4 s.notif.toNat))).unnotify 3)

/-- PCIE_HOST_ACCESS (R420, R422, R427, R431). -/
def execPcieHostAccess (a : HostAccess) (s : State) : Out :=
  .next (s.hostAccess a)

/-- APERTURE_CONFIG (R422): the base is a multiple of 64 GiB inside the pool. -/
def execApertureConfig (base : Nat) (part : Byte) (s : State) : Out :=
  .next (if base % 2 ^ 36 = 0 && base < 2 ^ 52 then s.modHost fun h => { h with aperture := (base, part) } else s)

/-- ETH_TRANSMIT (R424, R425): the engine acts on a descriptor only when no write of it is outstanding. It reads it at its home, and there the frame
that it describes, and sends that with the tag and the checksums asked for. -/
def execEthTransmit (port desc buf len : Nat) (s : State) : Out :=
  .next (
    let d := Config.txDescriptor (s.bytesAt .pool desc 64)
    let open_ := s.stores.any fun p => p.space == Space.pool && overlaps p.off p.size desc 64
    let frame := Ethernet.sent d (s.bytesAt .pool buf len)
    if 2 ≤ port || open_ || d.buf ≠ buf || d.len ≠ len || 9216 < frame.length then s
    else s.emit (.frame port frame (if d.stamp then some s.dtime else none)))

/-- DTIME_EXCHANGE (R426): the package follows its upstream neighbour, to whose time the first exchange steps DTIME forward before any group starts;
an offset above 4 ns is a loss of synchronisation. Or the device kernel names it pod master, which goes on from its own DTIME. -/
def execDtimeExchange (src : TimeSource) (offset : Nat) (s : State) : Out :=
  .next (match src with
    | .master => (s.modHost fun h => { h with master := true, stepped := true, lead := 0, lastExchange := s.dtime }).unnotify 4
    | .upstream time =>
      let s := if !s.host.stepped && s.grps.isEmpty then s.stepTime (max s.dtime time) else s
      let s := (s.modHost fun h => { h with stepped := true, master := false, lastExchange := s.dtime }).follow time
      if 4 < offset then s.notify 4 else s.unnotify 4)

/-- DTIME_SYNC_LOSS (R426). -/
def execDtimeSyncLoss (s : State) : Out := .next (if s.host.lastExchange + 100000 ≤ s.dtime then s.notify 4 else s)

/-- What a boot leaves beside its measurements: the identity key, derived from the fused secret and M0, and the device kernel, which
programs H (R23, R428). A stage that fails leaves a status code, which is free (R427, log entry 17). -/
def State.afterBoot (s : State) : State :=
  if s.host.boot == .running then
    { s with
      hash := ⟨Config.hash.1, Config.hash.2.1, Config.hash.2.2⟩
      host := { s.host with identity := some (Config.identityKey Config.fusedSecret (s.host.m.getD 0 0)) } }
  else
    let (code, s) := s.freeValue
    s.modHost fun h => { h with bootStatus := some code }

/-- PACKAGE_RESET (R426, R427). -/
def execPackageReset (images : List BootImage) (s : State) : Out :=
  .next (
    let s := s.afterReset
    if images.isEmpty then s else (s.modHost fun h => State.bootFrom h images).afterBoot)

/-- M7_EXTEND (R427). -/
def execM7Extend (digest : BitVec 256) (s : State) : Out :=
  .next (if s.host.boot == .running then s.modHost fun h => State.measure h 7 digest else s)

/-- ATTESTATION_REQUEST (R429): a package that has booted answers it. -/
def execAttestationRequest (nonce : BitVec 256) (s : State) : Out :=
  .next (match s.host.identity with
    | some key => s.emit (.report (s.attestation key nonce))
    | none => s)

/-- KEY_INSTALL (R430): the root of trust of a package that has booted unwraps the key; one that does not unwrap installs nothing. -/
def execKeyInstall (part : Byte) (keloma : Bool) (wrapped : BitVec 512) (s : State) : Out :=
  .next (match s.host.identity.bind fun key => Config.unwrapKey key wrapped with
    | some k => s.installKey part keloma k
    | none => s)

/-- LIFETIME_COUNTER_SAVE (R431): every 10 minutes. -/
def execLifetimeCounterSave (s : State) : Out :=
  .next (if s.host.savedAt + 600000000000 ≤ s.dtime then s.saveLife else s)

/-- ORDERLY_POWER_DOWN (R431). -/
def execOrderlyPowerDown (s : State) : Out := .next (s.saveLife.modHost fun h => { h with powered := false })

/-- THERMAL_THROTTLE (R432, R433): time in throttle is counted; results and DTIME are not affected. -/
def execThermalThrottle (steps : Nat) (s : State) : Out :=
  .next (
    let since := if s.host.throttle = 0 then 0 else s.dtime - s.host.throttleAt
    (s.modLife fun l => { l with throttleTime := saturated l.throttleTime since }).modHost fun h =>
      { h with throttle := steps, throttleAt := s.dtime })

/-- THERMAL_SHUTDOWN (R432): the board management controller removes power. -/
def execThermalShutdown (s : State) : Out := .next (s.modHost fun h => { h with powered := false })

/-- PCIE_LINK_DOWN (R420). -/
def execPcieLinkDown (down : Bool) (s : State) : Out := .next (s.modHost fun h => { h with pcieDown := down })

/-- ETH_FRAME_RECEIVE (R424, R426): a frame lands in the kernel's buffer, and the time of its arrival is kept; a PTP message gives the pod master a
time to slew to. -/
def execEthFrameReceive (fr : EthFrame) (s : State) : Out :=
  .next (match fr with
    | .data port buf bytes =>
      if port < 2 && bytes.length ≤ 9216 then
        (s.putBytes .pool buf bytes).modHost fun h => { h with rxStamps := (port, s.dtime) :: h.rxStamps.filter (·.1 != port) }
      else s
    | .ptp port time => if port < 2 && s.host.master then (s.modHost fun h => { h with ptp := some time }).follow time else s)

/-- DROOP_EVENT (R431). -/
def execDroopEvent (die : Nat) (s : State) : Out :=
  .next (s.modLife fun l => { l with droops := l.droops.modify die (saturated · 1) })

/-- POWER_LOSS (R431): what was not saved is gone at the next reset. -/
def execPowerLoss (s : State) : Out := .next (s.modHost fun h => { h with powered := false })

end Sys2Proof.Machine
end

