-- ==== Sys2Proof/Machine/Scalar.lean ====
section
/-! DEFINITION. Scalar instructions (R104 to R111). -/

namespace Sys2Proof.Machine

/-- R105 on A and on B or its immediate; NB negates B in the width of the type (R55). A scalar operand that is a temporary of a vector
result reads lane 0 (log entry 31, DESIGN CHOICE). -/
def scalArith (op : Arith) (i : Instr) (f : Fields) (s : State) : State :=
  s.issueScalar i f f.ty.is64 fun g =>
    (arith op f.ty f.sat (g.intA f 0) (modInt f.ty false f.nb (g.scalB f f.ty)) 0, 0)

/-- SADD (R105). -/
def execSadd (f : Fields) (s : State) : Out := .next (scalArith .add (.sadd f) f s)
/-- SSUB (R105). -/
def execSsub (f : Fields) (s : State) : Out := .next (scalArith .sub (.ssub f) f s)
/-- SMUL (R105). -/
def execSmul (f : Fields) (s : State) : Out := .next (scalArith .mul (.smul f) f s)
/-- SMULH (R105). -/
def execSmulh (f : Fields) (s : State) : Out := .next (scalArith .mulh (.smulh f) f s)
/-- SMIN (R105). -/
def execSmin (f : Fields) (s : State) : Out := .next (scalArith .min (.smin f) f s)
/-- SMAX (R105). -/
def execSmax (f : Fields) (s : State) : Out := .next (scalArith .max (.smax f) f s)
/-- SLOP3 (R106). -/
def execSlop3 (f : Fields) (s : State) : Out :=
  .next (s.issueScalar (.slop3 f) f f.ty.is64 fun g => (lut3 f.sub (g.intA f 0) (g.intB f 0) (g.intC f 0), 0))
/-- SSHF (R106). -/
def execSshf (f : Fields) (s : State) : Out :=
  .next (s.issueScalar (.sshf f) f f.ty.is64 fun g =>
    (shiftVal f.kind3 f.ty.width (g.intA f 0) ((g.scalB32 f).setWidth 64) (if f.kind3 < 5 then 0 else g.intC f 0), 0))
/-- SBFX (R107). -/
def execSbfx (f : Fields) (s : State) : Out :=
  .next (s.issueScalar (.sbfx f) f false fun g => ((bitField f.ty.signed (g.word f.a 0) (g.scalB32 f)).setWidth 64, 0))
/-- SBIT (Table 3-7). -/
def execSbit (f : Fields) (s : State) : Out :=
  .next (s.issueScalar (.sbit f) f f.bitWide fun g => (bitOp f.kind3 f.ty.width (g.intA f 0) (g.scalB f f.ty), 0))
/-- The condition of SCMP (R108); it sets no flag. -/
def scmpBit (g : Group) (f : Fields) : Bool :=
  if f.ty.isInt then intCond f.cond f.ty (g.intA f 0) (g.scalB f f.ty)
  else (floatCond f.cond f.ty.elem (elemOf f.ty (g.fltA f 0) 0) (elemOf f.ty (g.scalB f f.ty) 0)).1
/-- SCMP (R108). -/
def execScmp (f : Fields) (s : State) : Out :=
  .next (s.issueScalar (.scmp f) f false fun g =>
    let r : Word := if scmpBit g f then 1 else 0
    let old := g.sget f.d.toNat
    ((if f.combine = 0 then r else if f.combine = 1 then old &&& r else old ||| r).setWidth 64, 0))
/-- SSEL (R108). -/
def execSsel (f : Fields) (s : State) : Out :=
  .next (s.issueScalar (.ssel f) f f.ty.is64 fun g => (if g.word f.c 0 ≠ 0 then g.intA f 0 else g.intB f 0, 0))
/-- SMOV (R108). -/
def execSmov (f : Fields) (s : State) : Out :=
  .next (s.issueScalar (.smov f) f f.ty.is64 fun g => (g.scalB f f.ty, 0))
/-- SADD64 (R108). -/
def execSadd64 (f : Fields) (s : State) : Out :=
  .next (s.issueScalar (.sadd64 f) f true fun g =>
    let b := g.scalB32 f
    (g.intOperand true f.a 0 + (if f.ty.signed then b.signExtend 64 else b.setWidth 64), 0))
/-- SLEA (R108). -/
def execSlea (f : Fields) (s : State) : Out :=
  .next (s.issueScalar (.slea f) f true fun g =>
    let b := g.scalB32 f
    (g.intOperand true f.a 0 + ((if f.sub.getLsbD 3 then b.signExtend 64 else b.setWidth 64) <<< f.kind3), 0))
/-- SDIV (R109): a zero divisor traps; otherwise the result is deferred. -/
def execSdiv (f : Fields) (s : State) : Out :=
  .next (s.issue (.sdiv f) f true false fun s _ =>
    let a := s.g.intA f 0
    let b := modInt f.ty false false (s.g.scalB f f.ty)
    if b = 0 then s.trapHere 0x0F (some 0) none
    else
      (s.defer (.sdiv f) .divide (State.sWrites f.ty.is64 f.d.toNat (divInt f.ty (f.sub.getLsbD 0) a b) []) 0 [] none).retire
        (.sdiv f))
/-- The value of a selector (Table 3-8, R328). -/
def srdsValue (s : State) (sel : Nat) : DWord :=
  let g := s.g
  let l := g.launch
  let word (x : Word) : DWord := x.setWidth 64
  match sel with
  | 0 => BitVec.ofNat 64 (s.localTime g.core)
  | 1 => word (l.coords.getD 0 0)
  | 2 => word (l.coords.getD 1 0)
  | 3 => word (l.coords.getD 2 0)
  | 4 => word (l.grid.getD 0 0)
  | 5 => word (l.grid.getD 1 0)
  | 6 => word (l.grid.getD 2 0)
  | 7 => BitVec.ofNat 64 g.grp
  | 8 => BitVec.ofNat 64 l.groups
  | 9 => BitVec.ofNat 64 g.core.core
  | 10 => BitVec.ofNat 64 g.core.die
  | 11 => BitVec.ofNat 64 s.pkg
  | 12 | 13 => g.flags.setWidth 64
  | 14 => BitVec.ofNat 64 (State.depth g)
  | _ => l.karg
/-- SRDS (R110). -/
def execSrds (f : Fields) (s : State) : Out :=
  .next (s.issue (.srds f) f true false fun s _ =>
    let x := srdsValue s f.sub.toNat
    (s.modG fun g =>
      let g := if f.sub == 13#8 then { g with flags := 0 } else g
      g.sput f.srdsWide f.d.toNat x).retire (.srds f))
/-- SFMA (R111). -/
def execSfma (f : Fields) (s : State) : Out :=
  .next (s.issueScalar (.sfma f) f f.ty.is64 fun g =>
    farith .fma f.ty (g.rnd f) false (g.fltA f 0) (g.fltB f 0) (g.fltC f 0))
/-- SCVT (R111). -/
def execScvt (f : Fields) (s : State) : Out :=
  .next (s.issueScalar (.scvt f) f f.ty.is64 fun g => convert f.srcTy f.ty (g.rnd f) f.sat g.fmt (g.scalB f f.srcTy))

end Sys2Proof.Machine
end

