-- ==== Sys2Proof/Machine/VectorInt.lean ====
section
/-! DEFINITION. Vector integer and predicate instructions and their immediate forms (R116 to R133). -/

namespace Sys2Proof.Machine

/-- R122 on register operands. -/
def vecArith (op : Arith) (i : Instr) (f : Fields) (s : State) : State :=
  s.issueLanes i f f.ty.is64 fun g l => putInt f.ty (arith op f.ty f.sat (g.intA f l) (g.intB f l) (g.intC f l))

/-- R122 with the immediate as B (R133). -/
def vecArithImm (op : Arith) (i : Instr) (f : Fields) (s : State) : State :=
  s.issueLanes i f f.ty.is64 fun g l => putInt f.ty (arith op f.ty f.sat (g.intA f l) (immInt f.ty f.x) 0)

/-- VADD (R122). -/
def execVadd (f : Fields) (s : State) : Out := .next (vecArith .add (.vadd f) f s)
/-- VSUB (R122). -/
def execVsub (f : Fields) (s : State) : Out := .next (vecArith .sub (.vsub f) f s)
/-- VMUL (R122). -/
def execVmul (f : Fields) (s : State) : Out := .next (vecArith .mul (.vmul f) f s)
/-- VMULH (R122). -/
def execVmulh (f : Fields) (s : State) : Out := .next (vecArith .mulh (.vmulh f) f s)
/-- VMAD (R122). -/
def execVmad (f : Fields) (s : State) : Out := .next (vecArith .mad (.vmad f) f s)
/-- VMIN (R122). -/
def execVmin (f : Fields) (s : State) : Out := .next (vecArith .min (.vmin f) f s)
/-- VMAX (R122). -/
def execVmax (f : Fields) (s : State) : Out := .next (vecArith .max (.vmax f) f s)

/-- VLOP3 (R123). -/
def execVlop3 (f : Fields) (s : State) : Out :=
  .next (s.issueLanes (.vlop3 f) f f.ty.is64 fun g l => lut3 f.sub (g.intA f l) (g.intB f l) (g.intC f l))
/-- VSHF (R124). -/
def execVshf (f : Fields) (s : State) : Out :=
  .next (s.issueLanes (.vshf f) f f.ty.is64 fun g l =>
    shiftVal f.kind3 f.ty.width (g.intA f l) (g.intOperand false f.b l) (g.intC f l))
/-- VBFX (R125). -/
def execVbfx (f : Fields) (s : State) : Out :=
  .next (s.issueLanes (.vbfx f) f false fun g l => (bitField f.ty.signed (g.word f.a l) (g.word f.b l)).setWidth 64)
/-- VBFI (R125). -/
def execVbfi (f : Fields) (s : State) : Out :=
  .next (s.issueLanes (.vbfi f) f false fun g l => (bitInsert (g.word f.a l) (g.word f.b l) (g.word f.c l)).setWidth 64)
/-- VBIT (R126). -/
def execVbit (f : Fields) (s : State) : Out :=
  .next (s.issueLanes (.vbit f) f f.bitWide fun g l => bitOp f.kind3 f.ty.width (g.intA f l) (g.intB f l))
/-- VSEL (R128). -/
def execVsel (f : Fields) (s : State) : Out :=
  .next (s.issueLanes (.vsel f) f f.ty.is64 fun g l => if g.word f.c l ≠ 0 then g.intA f l else g.intB f l)
/-- VCMP (R127). -/
def execVcmp (f : Fields) (s : State) : Out :=
  .next (s.issuePred (.vcmp f) f fun g l => (intCond f.cond f.ty (g.intA f l) (g.intB f l), 0))
/-- VDOT4 (R131). -/
def execVdot4 (f : Fields) (s : State) : Out :=
  .next (s.issueLanes (.vdot4 f) f false fun g l =>
    (dot4 f.ty.signed (f.ty.signed && !f.sub.getLsbD 0) f.sat (g.word f.a l) (g.word f.b l) (g.word f.c l)).setWidth 64)
/-- VPRM (R132). -/
def execVprm (f : Fields) (s : State) : Out :=
  .next (s.issueLanes (.vprm f) f false fun g l => (permute (g.word f.a l) (g.word f.b l) (g.word f.c l)).setWidth 64)
/-- VMOV (R129). -/
def execVmov (f : Fields) (s : State) : Out :=
  .next (s.issueLanes (.vmov f) f f.ty.is64 fun g l => putInt f.ty (g.intB f l))
/-- PLOP3 (R130). -/
def execPlop3 (f : Fields) (s : State) : Out :=
  .next (s.issue (.plop3 f) f false false fun s q =>
    let g := s.g
    let r := lut3 f.sub (g.predOperand f.a) (g.predOperand f.b) (g.predOperand f.c)
    (s.modG fun h => h.pset f.d.toNat q (r.getLsbD ·)).retire (.plop3 f))

/-! ## Immediate forms (R133) -/

/-- VADDI (R133). -/
def execVaddi (f : Fields) (s : State) : Out := .next (vecArithImm .add (.vaddi f) f s)
/-- VMULI (R133). -/
def execVmuli (f : Fields) (s : State) : Out := .next (vecArithImm .mul (.vmuli f) f s)
/-- VMINI (R133). -/
def execVmini (f : Fields) (s : State) : Out := .next (vecArithImm .min (.vmini f) f s)
/-- VMAXI (R133). -/
def execVmaxi (f : Fields) (s : State) : Out := .next (vecArithImm .max (.vmaxi f) f s)
/-- VLOPI (R133). -/
def execVlopi (f : Fields) (s : State) : Out :=
  .next (s.issueLanes (.vlopi f) f false fun g l => (lut3 f.sub (g.word f.a l) (g.word f.b l) f.x).setWidth 64)
/-- VSHFI (R133). -/
def execVshfi (f : Fields) (s : State) : Out :=
  .next (s.issueLanes (.vshfi f) f f.ty.is64 fun g l => shiftVal f.kind3 f.ty.width (g.intA f l) (f.x.setWidth 64) 0)
/-- VCMPI (R133). -/
def execVcmpi (f : Fields) (s : State) : Out :=
  .next (s.issuePred (.vcmpi f) f fun g l => (intCond f.cond f.ty (g.intA f l) (immInt f.ty f.x), 0))
/-- VMOVI (R133). -/
def execVmovi (f : Fields) (s : State) : Out :=
  .next (s.issueLanes (.vmovi f) f f.ty.is64 fun _ _ => putInt f.ty (immInt f.ty f.x))
/-- VSELI (R133). -/
def execVseli (f : Fields) (s : State) : Out :=
  .next (s.issueLanes (.vseli f) f f.ty.is64 fun g l => if g.word f.b l ≠ 0 then g.intA f l else immInt f.ty f.x)

end Sys2Proof.Machine
end

