-- ==== Sys2Proof/Machine/Dispatch.lean ====
section
/-! DEFINITION. One arm per instruction: its meaning, or the refusal that names it. -/

namespace Sys2Proof.Machine

/-- What an instruction does (the table of operations and events). -/
def exec (i : Instr) (s : State) : Host.Outcome State Fault Refusal :=
  match i with
  | .vadd f => Sys2Proof.Machine.execVadd f s
  | .vsub f => Sys2Proof.Machine.execVsub f s
  | .vmul f => Sys2Proof.Machine.execVmul f s
  | .vmulh f => Sys2Proof.Machine.execVmulh f s
  | .vmad f => Sys2Proof.Machine.execVmad f s
  | .vmin f => Sys2Proof.Machine.execVmin f s
  | .vmax f => Sys2Proof.Machine.execVmax f s
  | .vlop3 f => Sys2Proof.Machine.execVlop3 f s
  | .vshf f => Sys2Proof.Machine.execVshf f s
  | .vbfx f => Sys2Proof.Machine.execVbfx f s
  | .vbfi f => Sys2Proof.Machine.execVbfi f s
  | .vbit f => Sys2Proof.Machine.execVbit f s
  | .vsel f => Sys2Proof.Machine.execVsel f s
  | .vcmp f => Sys2Proof.Machine.execVcmp f s
  | .vdot4 f => Sys2Proof.Machine.execVdot4 f s
  | .vprm f => Sys2Proof.Machine.execVprm f s
  | .vmov f => Sys2Proof.Machine.execVmov f s
  | .plop3 f => Sys2Proof.Machine.execPlop3 f s
  | .fadd f => Sys2Proof.Machine.execFadd f s
  | .fmul f => Sys2Proof.Machine.execFmul f s
  | .ffma f => Sys2Proof.Machine.execFfma f s
  | .fmin f => Sys2Proof.Machine.execFmin f s
  | .fmax f => Sys2Proof.Machine.execFmax f s
  | .fcmp f => Sys2Proof.Machine.execFcmp f s
  | .fcls f => Sys2Proof.Machine.execFcls f s
  | .frnd f => Sys2Proof.Machine.execFrnd f s
  | .fscl f => Sys2Proof.Machine.execFscl f s
  | .fsfn f => Sys2Proof.Machine.execFsfn f s
  | .cvt f => Sys2Proof.Machine.execCvt f s
  | .cvtp f => Sys2Proof.Machine.execCvtp f s
  | .qpk f => Sys2Proof.Machine.execQpk f s
  | .qpkAmax f => Sys2Proof.Machine.execQpkAmax f s
  | .qup f => Sys2Proof.Machine.execQup f s
  | .vaddi f => Sys2Proof.Machine.execVaddi f s
  | .vmuli f => Sys2Proof.Machine.execVmuli f s
  | .vlopi f => Sys2Proof.Machine.execVlopi f s
  | .vshfi f => Sys2Proof.Machine.execVshfi f s
  | .vcmpi f => Sys2Proof.Machine.execVcmpi f s
  | .vmovi f => Sys2Proof.Machine.execVmovi f s
  | .vseli f => Sys2Proof.Machine.execVseli f s
  | .vmini f => Sys2Proof.Machine.execVmini f s
  | .vmaxi f => Sys2Proof.Machine.execVmaxi f s
  | .faddi f => Sys2Proof.Machine.execFaddi f s
  | .fmuli f => Sys2Proof.Machine.execFmuli f s
  | .ffmai f => Sys2Proof.Machine.execFfmai f s
  | .fcmpi f => Sys2Proof.Machine.execFcmpi f s
  | .sadd f => Sys2Proof.Machine.execSadd f s
  | .ssub f => Sys2Proof.Machine.execSsub f s
  | .smul f => Sys2Proof.Machine.execSmul f s
  | .smulh f => Sys2Proof.Machine.execSmulh f s
  | .smin f => Sys2Proof.Machine.execSmin f s
  | .smax f => Sys2Proof.Machine.execSmax f s
  | .slop3 f => Sys2Proof.Machine.execSlop3 f s
  | .sshf f => Sys2Proof.Machine.execSshf f s
  | .sbfx f => Sys2Proof.Machine.execSbfx f s
  | .sbit f => Sys2Proof.Machine.execSbit f s
  | .scmp f => Sys2Proof.Machine.execScmp f s
  | .ssel f => Sys2Proof.Machine.execSsel f s
  | .smov f => Sys2Proof.Machine.execSmov f s
  | .sadd64 f => Sys2Proof.Machine.execSadd64 f s
  | .slea f => Sys2Proof.Machine.execSlea f s
  | .sdiv f => Sys2Proof.Machine.execSdiv f s
  | .srds f => Sys2Proof.Machine.execSrds f s
  | .sfma f => Sys2Proof.Machine.execSfma f s
  | .scvt f => Sys2Proof.Machine.execScvt f s
  | .bra f => Sys2Proof.Machine.execBra f s
  | .brp f => Sys2Proof.Machine.execBrp f s
  | .join f => Sys2Proof.Machine.execJoin f s
  | .call f => Sys2Proof.Machine.execCall f s
  | .ret f => Sys2Proof.Machine.execRet f s
  | .loop f => Sys2Proof.Machine.execLoop f s
  | .trl t => Sys2Proof.Machine.execTrl t s
  | .nop f => Sys2Proof.Machine.execNop f s
  | .exit f => Sys2Proof.Machine.execExit f s
  | .trap f => Sys2Proof.Machine.execTrap f s
  | .sfmt f => Sys2Proof.Machine.execSfmt f s
  | .waitt f => Sys2Proof.Machine.execWaitt f s
  | .yld f => Sys2Proof.Machine.execYld f s
  | .brx f => Sys2Proof.Machine.execBrx f s
  | .ld f => Sys2Proof.Machine.execLd f s
  | .st f => Sys2Proof.Machine.execSt f s
  | .lds f => Sys2Proof.Machine.execLds f s
  | .sts f => Sys2Proof.Machine.execSts f s
  | .ldv f => Sys2Proof.Machine.execLdv f s
  | .stv f => Sys2Proof.Machine.execStv f s
  | .sld f => Sys2Proof.Machine.execSld f s
  | .sst f => Sys2Proof.Machine.execSst f s
  | .ldz f => Sys2Proof.Machine.execLdz f s
  | .stz f => Sys2Proof.Machine.execStz f s
  | .prf f => Sys2Proof.Machine.execPrf f s
  | .cctl f => Sys2Proof.Machine.execCctl f s
  | .dscd f => Sys2Proof.Machine.execDscd f s
  | .atom f => Sys2Proof.Machine.execAtom f s
  | .atoms f => Sys2Proof.Machine.execAtoms f s
  | .atomv f => Sys2Proof.Machine.execAtomv f s
  | .satom f => Sys2Proof.Machine.execSatom f s
  | .fnc f => Sys2Proof.Machine.execFnc f s
  | .fwt f => Sys2Proof.Machine.execFwt f s
  | .bar f => Sys2Proof.Machine.execBar f s
  | .wtct f => Sys2Proof.Machine.execWtct f s
  | .nbr f => Sys2Proof.Machine.execNbr f s
  | .scan f => Sys2Proof.Machine.execScan f s
  | .red f => Sys2Proof.Machine.execRed f s
  | .vote f => Sys2Proof.Machine.execVote f s
  | .bcst f => Sys2Proof.Machine.execBcst f s
  | .rgrp f => Sys2Proof.Machine.execRgrp f s
  | .srtk f => Sys2Proof.Machine.execSrtk f s
  | .qsubCfgl f => Sys2Proof.Machine.execQsubCfgl f s
  | .qsubCfgs f => Sys2Proof.Machine.execQsubCfgs f s
  | .qsubSub f => Sys2Proof.Machine.execQsubSub f s
  | .qsubDrop f => Sys2Proof.Machine.execQsubDrop f s
  | .qret f => Sys2Proof.Machine.execQret f s
  | .cpy f => Sys2Proof.Machine.execCpy f s
  | .cpyt f => Sys2Proof.Machine.execCpyt f s
  | .ewt f => Sys2Proof.Machine.execEwt f s
  | .xput f => Sys2Proof.Machine.execXput f s
  | .xget f => Sys2Proof.Machine.execXget f s
  | .xred f => Sys2Proof.Machine.execXred f s
  | .tspn f => Sys2Proof.Machine.execTspn f s
  | .tsus f => Sys2Proof.Machine.execTsus f s
  | .tend f => Sys2Proof.Machine.execTend f s
  | .slinSet f => Sys2Proof.Machine.execSlinSet f s
  | .slinRec f => Sys2Proof.Machine.execSlinRec f s
  | .slinClose f => Sys2Proof.Machine.execSlinClose f s
  | .slinFree f => Sys2Proof.Machine.execSlinFree f s
  | .slps f => Sys2Proof.Machine.execSlps f s
  | .sldp f => Sys2Proof.Machine.execSldp f s
  | .slfxRd f => Sys2Proof.Machine.execSlfxRd f s
  | .slfxPin f => Sys2Proof.Machine.execSlfxPin f s
  | .slfxUnpin f => Sys2Proof.Machine.execSlfxUnpin f s
  | .slst f => Sys2Proof.Machine.execSlst f s
  | .jtok f => Sys2Proof.Machine.execJtok f s
  | .jrte f => Sys2Proof.Machine.execJrte f s
  | .jrd f => Sys2Proof.Machine.execJrd f s
  | .kret f => Sys2Proof.Machine.execKret f s
  | .csrr f => Sys2Proof.Machine.execCsrr f s
  | .csrw f => Sys2Proof.Machine.execCsrw f s
  | .scopetabWrite f => Sys2Proof.Machine.execScopetabWrite f s
  | .tlbiPage f => Sys2Proof.Machine.execTlbiPage f s
  | .tlbiCtx f => Sys2Proof.Machine.execTlbiCtx f s
  | .tlbiPart f => Sys2Proof.Machine.execTlbiPart f s
  | .tlbiAll f => Sys2Proof.Machine.execTlbiAll f s
  | .swcxLoad f => Sys2Proof.Machine.execSwcxLoad f s
  | .swcxArm f => Sys2Proof.Machine.execSwcxArm f s
  | .swcxCancel f => Sys2Proof.Machine.execSwcxCancel f s
  | .engr f => Sys2Proof.Machine.execEngr f s
  | .fltr f => Sys2Proof.Machine.execFltr f s
  | .hlt f => Sys2Proof.Machine.execHlt f s
  | .sigt f => Sys2Proof.Machine.execSigt f s
  | .scpwVault f => Sys2Proof.Machine.execScpwVault f s
  | .scpwL2way f => Sys2Proof.Machine.execScpwL2way f s
  | .scpwPinq f => Sys2Proof.Machine.execScpwPinq f s
  | .scpwSlot f => Sys2Proof.Machine.execScpwSlot f s
  | .scpwTask f => Sys2Proof.Machine.execScpwTask f s
  | .scpwFq f => Sys2Proof.Machine.execScpwFq f s
  | .scpwFqack f => Sys2Proof.Machine.execScpwFqack f s
  | .scpwStrict f => Sys2Proof.Machine.execScpwStrict f s
  | .scpwPeer f => Sys2Proof.Machine.execScpwPeer f s
  | .scpwSpare f => Sys2Proof.Machine.execScpwSpare f s
  | .jtrnCfg f => Sys2Proof.Machine.execJtrnCfg f s
  | .jtrnHost f => Sys2Proof.Machine.execJtrnHost f s
  | .jtrnPart f => Sys2Proof.Machine.execJtrnPart f s
  | .jtrnCkpt f => Sys2Proof.Machine.execJtrnCkpt f s
  | .jtrnTrunc f => Sys2Proof.Machine.execJtrnTrunc f s
  | .jtrnSync f => Sys2Proof.Machine.execJtrnSync f s
  | .jtrnRply f => Sys2Proof.Machine.execJtrnRply f s
  | .mma f => Sys2Proof.Machine.execMma f s
  | .mmz f => Sys2Proof.Machine.execMmz f s
  | .zout f => Sys2Proof.Machine.execZout f s
  | .zin f => Sys2Proof.Machine.execZin f s
  | .tsrw f => Sys2Proof.Machine.execTsrw f s
  | .tadv f => Sys2Proof.Machine.execTadv f s
  | .barr bn e => Sys2Proof.Machine.execBarr bn e s
  | .bwai bn => Sys2Proof.Machine.execBwai bn s
  | .ordy => Sys2Proof.Machine.execOrdy s
  | .mwt sel => Sys2Proof.Machine.execMwt sel s
  | .ymov yd src => Sys2Proof.Machine.execYmov yd src s
  | .yadd yd ya src => Sys2Proof.Machine.execYadd yd ya src s
  | .ybr ya c off => Sys2Proof.Machine.execYbr ya c off s
  | .bend => Sys2Proof.Machine.execBend s
  | .bnop => Sys2Proof.Machine.execBnop s
  | .fetchLine gid va => Sys2Proof.Machine.execFetchLine gid va s
  | .signalDelivery gid => Sys2Proof.Machine.execSignalDelivery gid s
  | .asyncErrorDelivery gid => Sys2Proof.Machine.execAsyncErrorDelivery gid s
  | .deferredResult gid k => Sys2Proof.Machine.execDeferredResult gid k s
  | .waitResume gid => Sys2Proof.Machine.execWaitResume gid s
  | .waittWake gid => Sys2Proof.Machine.execWaittWake gid s
  | .yldWake gid => Sys2Proof.Machine.execYldWake gid s
  | .fenceComplete gid => Sys2Proof.Machine.execFenceComplete gid s
  | .barrierPhaseComplete gid scope => Sys2Proof.Machine.execBarrierPhaseComplete gid scope s
  | .numberedBarrierComplete wid b => Sys2Proof.Machine.execNumberedBarrierComplete wid b s
  | .stepComplete wid k => Sys2Proof.Machine.execStepComplete wid k s
  | .walk who va write => Sys2Proof.Machine.execWalk who va write s
  | .faultReplyArrival ctxid die tag status cause k => Sys2Proof.Machine.execFaultReplyArrival ctxid die tag status cause k s
  | .loaderSectorWrite core q o => Sys2Proof.Machine.execLoaderSectorWrite core q o s
  | .storerSectorWrite core q o => Sys2Proof.Machine.execStorerSectorWrite core q o s
  | .copyComplete cmd => Sys2Proof.Machine.execCopyComplete cmd s
  | .xgetRequestArrival r => Sys2Proof.Machine.execXgetRequestArrival r s
  | .fabricPacketArrival x => Sys2Proof.Machine.execFabricPacketArrival x s
  | .flitReceive port fl => Sys2Proof.Machine.execFlitReceive port fl s
  | .linkRetrain port => Sys2Proof.Machine.execLinkRetrain port s
  | .linkKeyLoad port key => Sys2Proof.Machine.execLinkKeyLoad port key s
  | .linkKeySwitch port => Sys2Proof.Machine.execLinkKeySwitch port s
  | .xredContributionArrival c => Sys2Proof.Machine.execXredContributionArrival c s
  | .xredRoundDeadline slot => Sys2Proof.Machine.execXredRoundDeadline slot s
  | .xredResultDelivery k => Sys2Proof.Machine.execXredResultDelivery k s
  | .journalAppendSend die ctxid count => Sys2Proof.Machine.execJournalAppendSend die ctxid count s
  | .journalAppendArrival die from_ ctxid jt first recs => Sys2Proof.Machine.execJournalAppendArrival die from_ ctxid jt first recs s
  | .journalAckArrival die ctxid spkg sinc dinc upto => Sys2Proof.Machine.execJournalAckArrival die ctxid spkg sinc dinc upto s
  | .journalResendTimer die ctxid => Sys2Proof.Machine.execJournalResendTimer die ctxid s
  | .journalTruncateArrival die from_ ctxid jt => Sys2Proof.Machine.execJournalTruncateArrival die from_ ctxid jt s
  | .journalFetchRequest die requester spkg sdie sctxid nctxid => Sys2Proof.Machine.execJournalFetchRequest die requester spkg sdie sctxid nctxid s
  | .journalFetchResponse die ctxid from_ run => Sys2Proof.Machine.execJournalFetchResponse die ctxid from_ run s
  | .taskStart die => Sys2Proof.Machine.execTaskStart die s
  | .continuationReady die k => Sys2Proof.Machine.execContinuationReady die k s
  | .stageBatchAge die ctxid set stage => Sys2Proof.Machine.execStageBatchAge die ctxid set stage s
  | .statsWindowClose die ctxid set => Sys2Proof.Machine.execStatsWindowClose die ctxid set s
  | .recordFinish die ctxid set => Sys2Proof.Machine.execRecordFinish die ctxid set s
  | .arbiterGrant q => Sys2Proof.Machine.execArbiterGrant q s
  | .tileFetchLine q => Sys2Proof.Machine.execTileFetchLine q s
  | .pinTimeout q => Sys2Proof.Machine.execPinTimeout q s
  | .engineOpDone q => Sys2Proof.Machine.execEngineOpDone q s
  | .swap core => Sys2Proof.Machine.execSwap core s
  | .shadowLoadComplete core => Sys2Proof.Machine.execShadowLoadComplete core s
  | .spillComplete core => Sys2Proof.Machine.execSpillComplete core s
  | .granuleExchange core k => Sys2Proof.Machine.execGranuleExchange core k s
  | .machineCheck e => Sys2Proof.Machine.execMachineCheck e s
  | .partitionClear u => Sys2Proof.Machine.execPartitionClear u s
  | .windowStore at_ data from_ => Sys2Proof.Machine.execWindowStore at_ data from_ s
  | .queueScan slot => Sys2Proof.Machine.execQueueScan slot s
  | .launchDispatch slot => Sys2Proof.Machine.execLaunchDispatch slot s
  | .waitPacket slot => Sys2Proof.Machine.execWaitPacket slot s
  | .signalPacket slot => Sys2Proof.Machine.execSignalPacket slot s
  | .queueRegister slot => Sys2Proof.Machine.execQueueRegister slot s
  | .queueDeregister slot => Sys2Proof.Machine.execQueueDeregister slot s
  | .queueReset slot => Sys2Proof.Machine.execQueueReset slot s
  | .queuePriority slot => Sys2Proof.Machine.execQueuePriority slot s
  | .launchComplete e => Sys2Proof.Machine.execLaunchComplete e s
  | .workgroupPlace p => Sys2Proof.Machine.execWorkgroupPlace p s
  | .workSteal x => Sys2Proof.Machine.execWorkSteal x s
  | .map epoch record => Sys2Proof.Machine.execMap epoch record s
  | .unmap epoch slot => Sys2Proof.Machine.execUnmap epoch slot s
  | .switch epoch dies ctxid frame time => Sys2Proof.Machine.execSwitch epoch dies ctxid frame time s
  | .leaseRenew k => Sys2Proof.Machine.execLeaseRenew k s
  | .leaseTakeover k holder => Sys2Proof.Machine.execLeaseTakeover k holder s
  | .kernelTakeover => Sys2Proof.Machine.execKernelTakeover s
  | .notificationRead => Sys2Proof.Machine.execNotificationRead s
  | .pcieHostAccess a => Sys2Proof.Machine.execPcieHostAccess a s
  | .apertureConfig base part => Sys2Proof.Machine.execApertureConfig base part s
  | .ethTransmit port desc buf len => Sys2Proof.Machine.execEthTransmit port desc buf len s
  | .dtimeExchange src offset => Sys2Proof.Machine.execDtimeExchange src offset s
  | .dtimeSyncLoss => Sys2Proof.Machine.execDtimeSyncLoss s
  | .packageReset images => Sys2Proof.Machine.execPackageReset images s
  | .m7Extend digest => Sys2Proof.Machine.execM7Extend digest s
  | .attestationRequest nonce => Sys2Proof.Machine.execAttestationRequest nonce s
  | .keyInstall part keloma wrapped => Sys2Proof.Machine.execKeyInstall part keloma wrapped s
  | .lifetimeCounterSave => Sys2Proof.Machine.execLifetimeCounterSave s
  | .orderlyPowerDown => Sys2Proof.Machine.execOrderlyPowerDown s
  | .thermalThrottle steps => Sys2Proof.Machine.execThermalThrottle steps s
  | .thermalShutdown => Sys2Proof.Machine.execThermalShutdown s
  | .writePerformed k => Sys2Proof.Machine.execWritePerformed k s
  | .cacheEviction e => Sys2Proof.Machine.execCacheEviction e s
  | .operandPhaseEnd q => Sys2Proof.Machine.execOperandPhaseEnd q s
  | .localCompletion cmd => Sys2Proof.Machine.execLocalCompletion cmd s
  | .pcieLinkDown down => Sys2Proof.Machine.execPcieLinkDown down s
  | .ethFrameReceive fr => Sys2Proof.Machine.execEthFrameReceive fr s
  | .droopEvent die => Sys2Proof.Machine.execDroopEvent die s
  | .powerLoss => Sys2Proof.Machine.execPowerLoss s

end Sys2Proof.Machine
end

