-- ==== Sys2Proof/Machine/Turns.lean ====
section
/-! DEFINITION. Who moves: the schedule, the moves of groups, sequencers and other agents (R82, R261, R426, R427, R431, R432;
log entries 3, 4, 8). -/

namespace Sys2Proof.Machine

/-- Instructions of the main stream, which only a group issues. -/
def isMain (i : Instr) : Bool := (encode i).isSome

/-- Instructions of the Burin stream, which only a sequencer executes. -/
def isBurin (i : Instr) : Bool := (encodeBurin i).isSome

namespace State

/-- Some clocks of the reference pass: DTIME advances by 0.4 ns with each, in parts of 50,000 of a nanosecond, and is slewed by up to 200 ppm of
that towards the time it follows (R426). -/
def pass (s : State) (clocks : Nat) : State :=
  let slew : Int := max (-(4 * clocks : Int)) (min (4 * clocks : Int) s.host.lead)
  let parts := ((20000 * clocks + s.dfrac : Int) + slew).toNat
  { s with dtime := s.dtime + parts / 50000, dfrac := parts % 50000, host := { s.host with lead := s.host.lead - slew } }

/-- Time passes before a move, and the free values are new (log entries 4, 17). -/
def tick (s : State) : State := { s.pass (Config.elapsed s.free) with free := s.free + 1 }

/-- The next move: the head of the schedule, or a free one (log entry 3). -/
def nextTurn (s : State) : Turn × State :=
  match s.sched with
  | t :: ts => (t, { s with sched := ts })
  | [] => (Config.turn s.free, s)

/-- A meaning as a function on states; a meaning that stops changes nothing. -/
def running (meaning : Instr → State → Out) (i : Instr) (s : State) : State :=
  match meaning i s with
  | .next t => t
  | _ => s

/-- One move. No compute die leaves reset before the boot has passed (R427). -/
def move (meaning : Instr → State → Out) (t : Turn) (s : State) : Out :=
  match t with
  | .issue gid => if s.host.boot == .running then groupTurn meaning finishGroup gid s else .next s
  | .sequence wid => if s.host.boot == .running then .next ((s.focusWg wid).seqMove (running meaning)) else .next s
  | .event i => if isMain i || isBurin i then .next s else meaning i s

/-- What a move may have let go on goes on, and the frames of what is out of its core follow the move (R211, R212, R376, R380, R384, R387). -/
def followed (before : State) (o : Out) : Out :=
  match o with
  | .next t => .next (keepFrames before t).settleAll
  | o => o

/-- One step: without power only a reset is possible (R431, R432). -/
def turnBy (meaning : Instr → State → Out) (s : State) : Out :=
  let m := s.tick.nextTurn
  if m.2.host.powered then followed m.2 (move meaning m.1 m.2)
  else match m.1 with
    | .event (.packageReset images) => meaning (.packageReset images) m.2
    | _ => .fault .poweredOff

/-! ## Placing one instruction (log entry 8) -/

/-- The pool address at which the page entry of the placed line stands. -/
def placedLeaf : Nat := 2 ^ 51

/-- The line that holds an instruction and, after it, a trailer that names its deferred destination. -/
def placedLine (w : Slot) : Line :=
  let named : List Nat := match decode w with
    | .ok i => if i.isDeferred then i.writes.take 1 else []
    | .error _ => []
  let e (k : Nat) : BitVec 9 := match named[k]? with
    | some r => BitVec.ofNat 9 r
    | none => 0x1FF
  let t : Trailer := ⟨15, false, 0, BitVec.ofNat 8 named.length, e 0, e 1, e 2, e 3, e 4, e 5, e 6, e 7⟩
  let slots := [w, t.toSlot, 0, 0, 0]
  ⟨slots, lineWord slots 0b00001 0⟩

/-- The group that will issue the placed instruction: ready at the first slot of its line, with a lane to execute. -/
def placedGroup (g : Group) : Group :=
  { g with
    gid := max 1 g.gid, place := .core, wait := .ready, stroke := none, async := [], signal := none, deferred := [], park := none
    live := if g.live = 0 then ~~~0 else g.live
    em := if g.em = 0 then (if g.live = 0 then ~~~0 else g.live) else g.em
    pc := BitVec.ofNat 64 (g.pc.toNat / 5 * 5) }

/-- `withFetchWord`, on the slot's bits: the line at the PC of the issuing group holds the instruction, the page is mapped for it, an issuer
holds the group, and it moves next. -/
def place (s : State) (w : Slot) : State :=
  let g := placedGroup s.g
  let va := lineVa g.pc
  let bits : DWord := 0#4 ++ g.part ++ 0#36 ++ 0x0215#16
  let s := { s with g := g, sched := [.issue g.gid], stores := s.stores.filter fun p => !overlaps p.off p.size (va % 65536) 64 }
  let s := s.putBytes .pool (va % 65536) (placedLine w).toBytes
  let s := (s.putByte .pool placedLeaf 0x15).l1Drop g.core fun k => k == va % 65536 / 64
  let s := s.modCore g.core fun c => { c with
    regs := { c.regs with ctx := g.ctx, part := g.part }
    tlb := [⟨g.part, none, va / 65536 * 65536, 65536, bits, placedLeaf⟩]
    issuers := [⟨some g.gid, g.slot⟩, ⟨none, 0⟩]
    status := .live
    swap := { c.swap with late := false } }
  { s with host := { s.host with powered := true, boot := .running } }

end State
end Sys2Proof.Machine
end

