-- ==== Sys2Proof/Machine/Step.lean ====
section
/-! DEFINITION. One step of the machine, and the placing of one instruction for the next step (log entries 3, 8). -/

namespace Sys2Proof.Machine

/-- One step: time passes, and one agent moves. -/
def step (s : State) : Host.Outcome State Fault Refusal := s.turnBy exec

/-- The state whose next step issues the main-stream instruction whose low `nbits` bits are `w` and whose other bits are zero. -/
def State.withFetchWord (s : State) (nbits w : Nat) : State := s.place (BitVec.ofNat 96 (w % 2 ^ min nbits 96))

end Sys2Proof.Machine
end

