-- ==== Sys2Proof/Safety.lean ====
section
/-! DEFINITION. The vocabulary of the claims: what a sound state is, when an instruction issues normally, and what a next state
leaves unchanged. -/

namespace Sys2Proof

open Machine

/-! ## Sound states -/

/-- The memory lists rising addresses and no byte that equals what an unlisted address reads as, and the dirty bytes of L2 stand in rising
order too (log entries 1, 12). -/
def MemoryCanonical (s : State) : Prop := Mem.wf s.mem = true ∧ (s.l2.map (·.1)).Pairwise (· < ·)

/-- A group holds the registers that the machine and its launch give it (R28, R18): as many V registers as the launch asked for, S0 to S59,
P0 to P11, and the four saved S registers of R373. -/
def RegistersPresent (g : Group) : Prop :=
  g.launch.vregs ≤ g.v.length ∧ 60 ≤ g.s.length ∧ 12 ≤ g.p.length ∧ 4 ≤ g.trapState.saved.s56.length

/-- The execution mask lies inside the live lanes (R79). -/
def LanesLive (g : Group) : Prop := g.em &&& ~~~g.live = 0

/-- Every group record is sound. -/
def GroupsSound (s : State) : Prop := ∀ g ∈ s.groups, RegistersPresent g ∧ LanesLive g

/-! ## Issue -/

/-- An instruction of the main stream issues normally with qualifying lanes `q` (R65 to R67, R213): its guard is one the encoding defines, some
lane qualifies, no field is reserved, the mode is one that may run it, and no operand carries a poison mark. -/
structure Issues (i : Instr) (f : Fields) (once priv : Bool) (s : State) (q : Mask) : Prop where
  guard : f.gpr = 15#4 ∨ f.gpr < 12#4
  lanes : s.g.qual f once = q
  some : q ≠ 0
  legal : i.legal = true
  fits : i.legalUnder s.g.launch.vregs s.g.fmt = true
  mode : priv = true → s.g.trapState.mode = true
  clean : s.g.marksRead i q = []

/-! ## Frames -/

/-- Every byte reads after as it read before, in every space. -/
def MemorySame (s t : State) : Prop := ∀ (sp : Space) (off : Nat), t.byteAt sp off = s.byteAt sp off

/-- Nothing outside the record of the issuing group changes. -/
def GroupOnly (s t : State) : Prop := t = { s with g := t.g }

/-- What every instruction that retires does to control (R32, R39): the PC moves to the next slot and, inside a stroke, the position moves on. -/
def Advances (g h : Group) : Prop :=
  h.pc = g.pc + 1 ∧ h.stroke.map (·.pos) = g.stroke.map (·.pos + 1) ∧ h.stroke.map (·.slots) = g.stroke.map (·.slots)

/-- The instruction wrote the V registers `regs` in the lanes `q`, raised `flags`, and did nothing else (R118, R153, R213): register
number `k` of the run holds `val k lane` in each of these lanes, every other lane and register is unchanged, the marks of what
was written are cleared, and the rest of the machine is as before. -/
structure WroteLanes (s t : State) (regs : List Nat) (q : Mask) (val : Nat → Nat → Word) (flags : FlagSet) : Prop where
  written : ∀ k r, regs[k]? = some r → ∀ l, l < 96 → q.getLsbD l = true → t.g.vget r l = val k l
  lanes : ∀ r l, l < 96 → q.getLsbD l = false → t.g.vget r l = s.g.vget r l
  others : ∀ r, r ∉ regs → ∀ l, t.g.vget r l = s.g.vget r l
  marks : t.g.marks = s.g.marks.filter fun m => !(regs.contains m.reg && q.getLsbD m.lane)
  flags : t.g.flags = s.g.flags ||| flags
  control : Advances s.g t.g
  group : t.g = { s.g with v := t.g.v, marks := t.g.marks, flags := t.g.flags, pc := t.g.pc, stroke := t.g.stroke }
  elsewhere : GroupOnly s t
  memory : MemorySame s t

/-- The instruction wrote predicate Pd in the lanes `q`, raised `flags`, and did nothing else. -/
structure WrotePred (s t : State) (d : Nat) (q : Mask) (val : Nat → Bool) (flags : FlagSet) : Prop where
  written : ∀ l, l < 96 → q.getLsbD l = true → (t.g.pget d).getLsbD l = val l
  lanes : ∀ l, q.getLsbD l = false → (t.g.pget d).getLsbD l = (s.g.pget d).getLsbD l
  others : ∀ n, n ≠ d → t.g.pget n = s.g.pget n
  flags : t.g.flags = s.g.flags ||| flags
  control : Advances s.g t.g
  group : t.g = { s.g with p := t.g.p, flags := t.g.flags, pc := t.g.pc, stroke := t.g.stroke }
  elsewhere : GroupOnly s t
  memory : MemorySame s t

/-- The instruction wrote S registers from Sd on, one for each word of `vals`, raised `flags`, and did nothing else. A write to S60 to S62 is a
write of the execution mask, ANDed with LIVE, and a write to S63 is discarded (R47, R79). -/
structure WroteScalar (s t : State) (d : Nat) (vals : List Word) (flags : FlagSet) : Prop where
  written : ∀ k x, vals[k]? = some x → d + k < 60 → t.g.sget (d + k) = x
  mask : ∀ k x, vals[k]? = some x → 60 ≤ d + k → d + k < 63 →
    t.g.sget (d + k) = x &&& s.g.live.extractLsb' (32 * (d + k - 60)) 32
  discarded : t.g.sget 63 = 0
  others : ∀ n, (n < d ∨ d + vals.length ≤ n) → t.g.sget n = s.g.sget n
  flags : t.g.flags = s.g.flags ||| flags
  control : Advances s.g t.g
  group : t.g = { s.g with s := t.g.s, em := t.g.em, marks := t.g.marks, flags := t.g.flags, pc := t.g.pc, stroke := t.g.stroke }
  elsewhere : GroupOnly s t
  memory : MemorySame s t

end Sys2Proof
end

