-- ==== Sys2Proof/WellFormed.lean ====
section
/-! DEFINITION. Well-formed instructions: those that some word encodes (R45 to R50, R63, R285). Reserved field values of the
main stream are well formed, because they are refused only when the instruction executes (R66, R67). -/

namespace Sys2Proof

/-- Both operands are ones that a specifier produces. -/
def Fields.wf (f : Fields) : Bool := f.a.proper && f.b.proper

/-- The low SUB bits that select a row of an opcode split by SUB hold the row's value. -/
def Fields.row (f : Fields) (bits k : Nat) : Bool := (f.sub.extractLsb' 0 bits).toNat == k

/-- The fields that tell apart the rows of one opcode (Tables 10-1, 11-9, 12-4 and 13-7). -/
def Instr.rowOk : Instr → Bool
  | .qpk f => f.sub != 1#8
  | .qpkAmax f => f.sub == 1#8
  | .qsubCfgl f => f.row 3 0 | .qsubCfgs f => f.row 3 1 | .qsubSub f => f.row 3 2 | .qsubDrop f => f.row 3 3
  | .slinSet f => f.row 2 0 | .slinRec f => f.row 2 1 | .slinClose f => f.row 2 2 | .slinFree f => f.row 2 3
  | .slfxRd f => f.row 2 0 | .slfxPin f => f.row 2 1 | .slfxUnpin f => f.row 2 2
  | .csrw f => f.x.extractLsb' 0 12 != 0x013#12
  | .scopetabWrite f => f.x.extractLsb' 0 12 == 0x013#12
  | .tlbiPage f => f.row 2 0 | .tlbiCtx f => f.row 2 1 | .tlbiPart f => f.row 2 2 | .tlbiAll f => f.row 2 3
  | .swcxLoad f => f.row 2 0 | .swcxArm f => f.row 2 1 | .swcxCancel f => f.row 2 2
  | .jtrnCfg f => f.row 3 0 | .jtrnHost f => f.row 3 1 | .jtrnPart f => f.row 3 2 | .jtrnCkpt f => f.row 3 3
  | .jtrnTrunc f => f.row 3 4 | .jtrnSync f => f.row 3 5 | .jtrnRply f => f.row 3 6
  | .scpwVault f => f.row 4 0 | .scpwL2way f => f.row 4 1 | .scpwPinq f => f.row 4 2 | .scpwSlot f => f.row 4 3
  | .scpwTask f => f.row 4 4 | .scpwFq f => f.row 4 5 | .scpwFqack f => f.row 4 6 | .scpwStrict f => f.row 4 7
  | .scpwPeer f => f.row 4 8 | .scpwSpare f => f.row 4 9
  | _ => true

/-- The field ranges of Burin instructions (R285, Table 9-7). -/
def Instr.burinOk : Instr → Bool
  | .mma f | .mmz f => f.zt < 48#6
  | .zout f => f.zt < 48#6 && f.rnd < 5#3 && (f.sce || f.ys == 0#4)
  | .zin f => f.zt < 48#6
  | .tsrw f => f.sp || f.zc == 0#2
  | .tadv f => if f.ysel then f.imm == 0#32 else f.yn == 0#4
  | .barr _ e => 0#7 < e && e < 66#7
  | .ybr ya .always _ => ya == 0#4
  | .mwt (.tile zt _) => zt < 48#6
  | _ => true

/-- A well-formed instruction. Every event is well formed. -/
def Instr.wf (i : Instr) : Bool :=
  match i.mainView with
  | some (_, f) => f.wf && i.rowOk
  | none => i.burinOk

end Sys2Proof
end

