-- ==== Sys2Proof/Certificates/Slice0/Obligations.lean ====
section
/-! DEFINITION. The statements about the model, each a proposition that a prover settles. The forms of the instructions of one shape stand in
lists, each with the constructor it speaks of and the value the spec gives it. -/

namespace Sys2Proof.Claims

open Sys2Proof.Machine

/-! ## Results of lanes -/

/-- A form that writes one V register, or a pair, of the qualifying lanes: its constructor, whether it writes a pair, and its value. -/
structure LaneForm where
  make : Fields → Instr
  wide : Fields → Bool
  value : Group → Fields → Nat → DWord × FlagSet

/-- The registers of a destination of one word or two. -/
def destRun (wide : Bool) (d : Nat) : List Nat := if wide then [d, d + 1] else [d]

/-- Word `k` of a value that is written to a register or a pair (R6, R116). -/
def wordOf (x : DWord) (k : Nat) : Word := x.extractLsb' (32 * k) 32

/-- What the lanes of a mask raise together (R153). -/
def raisedBy (q : Mask) (fl : Nat → FlagSet) : FlagSet := (lanesOf q).foldl (fun acc l => acc ||| fl l) 0

def typeWide (f : Fields) : Bool := f.ty.is64
def single (_ : Fields) : Bool := false

/-- An exact operation of R122 on two or three operands, narrowed by R116. -/
def exactOf (op : Arith) (g : Group) (f : Fields) (b c : DWord) (l : Nat) : DWord × FlagSet :=
  let w := f.ty.width
  let x := op.eval w (extInt f.ty.signed w (g.intA f l)) (extInt f.ty.signed w b) (extInt f.ty.signed w c)
  (putInt f.ty (wrapInt w (if f.sat then clampInt f.ty.signed w x else x)), 0)

/-- The vector integer forms (R122 to R132) and their values. -/
def integerForms : List LaneForm :=
  [ ⟨.vadd, typeWide, fun g f l => exactOf .add g f (g.intB f l) (g.intC f l) l⟩,
    ⟨.vsub, typeWide, fun g f l => exactOf .sub g f (g.intB f l) (g.intC f l) l⟩,
    ⟨.vmul, typeWide, fun g f l => exactOf .mul g f (g.intB f l) (g.intC f l) l⟩,
    ⟨.vmulh, typeWide, fun g f l => exactOf .mulh g f (g.intB f l) (g.intC f l) l⟩,
    ⟨.vmad, typeWide, fun g f l => exactOf .mad g f (g.intB f l) (g.intC f l) l⟩,
    ⟨.vmin, typeWide, fun g f l => exactOf .min g f (g.intB f l) (g.intC f l) l⟩,
    ⟨.vmax, typeWide, fun g f l => exactOf .max g f (g.intB f l) (g.intC f l) l⟩,
    ⟨.vlop3, typeWide, fun g f l => (lut3 f.sub (g.intA f l) (g.intB f l) (g.intC f l), 0)⟩,
    ⟨.vshf, typeWide, fun g f l => (shiftVal f.kind3 f.ty.width (g.intA f l) (g.intOperand false f.b l) (g.intC f l), 0)⟩,
    ⟨.vbfx, single, fun g f l => ((bitField f.ty.signed (g.word f.a l) (g.word f.b l)).setWidth 64, 0)⟩,
    ⟨.vbfi, single, fun g f l => ((bitInsert (g.word f.a l) (g.word f.b l) (g.word f.c l)).setWidth 64, 0)⟩,
    ⟨.vbit, (·.bitWide), fun g f l => (bitOp f.kind3 f.ty.width (g.intA f l) (g.intB f l), 0)⟩,
    ⟨.vsel, typeWide, fun g f l => (if g.word f.c l ≠ 0 then g.intA f l else g.intB f l, 0)⟩,
    ⟨.vdot4, single, fun g f l =>
      ((dot4 f.ty.signed (f.ty.signed && !f.sub.getLsbD 0) f.sat (g.word f.a l) (g.word f.b l) (g.word f.c l)).setWidth 64, 0)⟩,
    ⟨.vprm, single, fun g f l => ((permute (g.word f.a l) (g.word f.b l) (g.word f.c l)).setWidth 64, 0)⟩,
    ⟨.vmov, typeWide, fun g f l => (putInt f.ty (g.intB f l), 0)⟩ ]

/-- The immediate forms of R133, with IMM32 read under R54. -/
def immediateForms : List LaneForm :=
  [ ⟨.vaddi, typeWide, fun g f l => exactOf .add g f (immInt f.ty f.x) 0 l⟩,
    ⟨.vmuli, typeWide, fun g f l => exactOf .mul g f (immInt f.ty f.x) 0 l⟩,
    ⟨.vmini, typeWide, fun g f l => exactOf .min g f (immInt f.ty f.x) 0 l⟩,
    ⟨.vmaxi, typeWide, fun g f l => exactOf .max g f (immInt f.ty f.x) 0 l⟩,
    ⟨.vlopi, single, fun g f l => ((lut3 f.sub (g.word f.a l) (g.word f.b l) f.x).setWidth 64, 0)⟩,
    ⟨.vshfi, typeWide, fun g f l => (shiftVal f.kind3 f.ty.width (g.intA f l) (f.x.setWidth 64) 0, 0)⟩,
    ⟨.vmovi, typeWide, fun _ f _ => (putInt f.ty (immInt f.ty f.x), 0)⟩,
    ⟨.vseli, typeWide, fun g f l => (if g.word f.b l ≠ 0 then g.intA f l else immInt f.ty f.x, 0)⟩ ]

/-- The floating-point and conversion forms (R159 to R170, R174) and their values and flags. -/
def floatForms : List LaneForm :=
  [ ⟨.fadd, typeWide, fun g f l => farith .add f.ty (g.rnd f) f.sat (g.fltA f l) (g.fltB f l) 0⟩,
    ⟨.fmul, typeWide, fun g f l => farith .mul f.ty (g.rnd f) f.sat (g.fltA f l) (g.fltB f l) 0⟩,
    ⟨.ffma, typeWide, fun g f l => farith .fma f.ty (g.rnd f) f.sat (g.fltA f l) (g.fltB f l) (g.fltC f l)⟩,
    ⟨.fmin, typeWide, fun g f l => Machine.fmin false f.ty (g.fltA f l) (g.fltB f l)⟩,
    ⟨.fmax, typeWide, fun g f l => Machine.fmin true f.ty (g.fltA f l) (g.fltB f l)⟩,
    ⟨.frnd, typeWide, fun g f l => Machine.frnd f.ty (g.rnd f) (g.fltB f l)⟩,
    ⟨.fscl, (·.fsclWide), fun g f l =>
      if f.sub == 0#8 then fldx f.ty (g.rnd f) f.sat (g.fltA f l) (g.word f.b l)
      else if f.sub == 1#8 then
        ((fexpOf f.ty.elem (elemOf f.ty (g.fltA f l) 0)).1.setWidth 64, (fexpOf f.ty.elem (elemOf f.ty (g.fltA f l) 0)).2)
      else (BitVec.ofNat 64 (fmantOf f.ty.elem (elemOf f.ty (g.fltA f l) 0)).bits, (fmantOf f.ty.elem (elemOf f.ty (g.fltA f l) 0)).flags)⟩,
    ⟨.cvt, typeWide, fun g f l => convert f.srcTy f.ty (g.rnd f) f.sat g.fmt (g.operand f.srcTy f.b l)⟩,
    ⟨.cvtp, single, fun g f l => convertPacked f.srcTy f.ty f.cvtpSel (g.rnd f) f.sat g.fmt
      (g.fltOperand f.srcTy f.a l) (g.fltOperand f.srcTy f.b l) (g.fltOperand f.ty f.c l)⟩,
    ⟨.qpk, single, fun g f l =>
      let r := qpkWord g.fmt (g.rnd f) f.sat (qpkElems g f l) ((g.word f.b l).setWidth 8)
      (r.1.setWidth 64, r.2)⟩,
    ⟨.qpkAmax, single, fun g f l =>
      let r := scaleOf (fmtNfmt g.fmt) (FloatFmt.f32.unpack (g.fltOperand .f32 f.a l).toNat)
      (r.1.setWidth 64, r.2)⟩,
    ⟨.faddi, typeWide, fun g f l => farith .add f.ty (g.rnd f) f.sat (g.fltA f l) (immAs f.ty f.x) 0⟩,
    ⟨.fmuli, typeWide, fun g f l => farith .mul f.ty (g.rnd f) f.sat (g.fltA f l) (immAs f.ty f.x) 0⟩,
    ⟨.ffmai, typeWide, fun g f l => farith .fma f.ty (g.rnd f) f.sat (g.fltA f l) (immAs f.ty f.x) (g.fltB f l)⟩ ]

/-- A form completes: with the qualifying lanes `q` of R66, each of them gets the form's value, the sticky flags of those lanes are raised, and
nothing else changes. -/
def LaneForm.Completes (e : LaneForm) : Prop :=
  ∀ (f : Fields) (s : State) (q : Mask), RegistersPresent s.g → Issues (e.make f) f false false s q →
    ∃ t, exec (e.make f) s = .next t ∧
      WroteLanes s t (destRun (e.wide f) f.d.toNat) q (fun k l => wordOf (e.value s.g f l).1 k)
        (raisedBy q fun l => (e.value s.g f l).2)

/-- A form that writes a predicate by a combine mode: its constructor, and its bit and flags. -/
structure PredForm where
  make : Fields → Instr
  value : Group → Fields → Nat → Bool × FlagSet

/-- The predicate-writing forms that combine with the old value (R127, R164, R165, R174). -/
def predForms : List PredForm :=
  [ ⟨.vcmp, fun g f l => (intCond f.cond f.ty (g.intA f l) (g.intB f l), 0)⟩,
    ⟨.vcmpi, fun g f l => (intCond f.cond f.ty (g.intA f l) (immInt f.ty f.x), 0)⟩,
    ⟨.fcmp, fun g f l => floatCond f.cond f.ty.elem (elemOf f.ty (g.fltA f l) 0) (elemOf f.ty (g.fltB f l) 0)⟩,
    ⟨.fcmpi, fun g f l => floatCond f.cond f.ty.elem (elemOf f.ty (g.fltA f l) 0) (elemOf f.ty (immAs f.ty f.x) 0)⟩,
    ⟨.fcls, fun g f l => ((g.word f.b l).getLsbD (fclass f.ty.elem (elemOf f.ty (g.fltA f l) 0)), 0)⟩ ]

/-- The combine modes of R56: overwrite, AND, OR with the old bit. -/
def combined (f : Fields) (old r : Bool) : Bool := if f.combine = 0 then r else if f.combine = 1 then old && r else old || r

/-! ## Results of scalars -/

/-- A form that writes S registers: its constructor, whether it writes a pair, its value and flags. -/
structure ScalarForm where
  make : Fields → Instr
  wide : Fields → Bool
  value : Group → Fields → DWord × FlagSet

/-- The words of a scalar result. -/
def scalarWords (wide : Bool) (x : DWord) : List Word := if wide then [wordOf x 0, wordOf x 1] else [wordOf x 0]

/-- An exact operation of R105 with B or its immediate. -/
def exactScalar (op : Arith) (g : Group) (f : Fields) : DWord × FlagSet :=
  let w := f.ty.width
  let x := op.eval w (extInt f.ty.signed w (g.intA f 0)) (extInt f.ty.signed w (modInt f.ty false f.nb (g.scalB f f.ty))) 0
  (wrapInt w (if f.sat then clampInt f.ty.signed w x else x), 0)

/-- The scalar forms (R105 to R108, R111, Table 3-7) and their values and flags. -/
def scalarForms : List ScalarForm :=
  [ ⟨.sadd, typeWide, exactScalar .add⟩, ⟨.ssub, typeWide, exactScalar .sub⟩, ⟨.smul, typeWide, exactScalar .mul⟩,
    ⟨.smulh, typeWide, exactScalar .mulh⟩, ⟨.smin, typeWide, exactScalar .min⟩, ⟨.smax, typeWide, exactScalar .max⟩,
    ⟨.slop3, typeWide, fun g f => (lut3 f.sub (g.intA f 0) (g.intB f 0) (g.intC f 0), 0)⟩,
    ⟨.sshf, typeWide, fun g f =>
      (shiftVal f.kind3 f.ty.width (g.intA f 0) ((g.scalB32 f).setWidth 64) (if f.kind3 < 5 then 0 else g.intC f 0), 0)⟩,
    ⟨.sbfx, single, fun g f => ((bitField f.ty.signed (g.word f.a 0) (g.scalB32 f)).setWidth 64, 0)⟩,
    ⟨.sbit, (·.bitWide), fun g f => (bitOp f.kind3 f.ty.width (g.intA f 0) (g.scalB f f.ty), 0)⟩,
    ⟨.scmp, single, fun g f =>
      let bit := if f.ty.isInt then intCond f.cond f.ty (g.intA f 0) (g.scalB f f.ty)
        else (floatCond f.cond f.ty.elem (elemOf f.ty (g.fltA f 0) 0) (elemOf f.ty (g.scalB f f.ty) 0)).1
      let r : Word := if bit then 1 else 0
      let old := g.sget f.d.toNat
      ((if f.combine = 0 then r else if f.combine = 1 then old &&& r else old ||| r).setWidth 64, 0)⟩,
    ⟨.ssel, typeWide, fun g f => (if g.word f.c 0 ≠ 0 then g.intA f 0 else g.intB f 0, 0)⟩,
    ⟨.smov, typeWide, fun g f => (g.scalB f f.ty, 0)⟩,
    ⟨.sadd64, fun _ => true, fun g f =>
      (g.intOperand true f.a 0 + (if f.ty.signed then (g.scalB32 f).signExtend 64 else (g.scalB32 f).setWidth 64), 0)⟩,
    ⟨.slea, fun _ => true, fun g f =>
      (g.intOperand true f.a 0 + ((if f.sub.getLsbD 3 then (g.scalB32 f).signExtend 64 else (g.scalB32 f).setWidth 64) <<< f.kind3), 0)⟩,
    ⟨.sfma, typeWide, fun g f => farith .fma f.ty (g.rnd f) false (g.fltA f 0) (g.fltB f 0) (g.fltC f 0)⟩,
    ⟨.scvt, typeWide, fun g f => convert f.srcTy f.ty (g.rnd f) f.sat g.fmt (g.scalB f f.srcTy)⟩ ]

end Sys2Proof.Claims

open Sys2Proof Sys2Proof.Machine Sys2Proof.Claims

/-- Vector integer and immediate forms: result, frame and completion (R118, R122 to R126, R128, R129, R131 to R133). -/
def Obligations.IntegerLaneResults : Prop := ∀ e ∈ integerForms ++ immediateForms, e.Completes

/-- Floating-point, conversion and quantisation forms that write one register: result, flags, frame and completion. -/
def Sys2Proof.Claims.FloatFormsComplete : Prop := ∀ e ∈ floatForms, e.Completes

/-- QUP writes its run of registers in the qualifying lanes, one word of decoded elements in each (R171). -/
def Sys2Proof.Claims.UnpackResult : Prop :=
  ∀ (f : Fields) (s : State) (q : Mask), RegistersPresent s.g → Issues (.qup f) f false false s q →
    ∃ t, exec (.qup f) s = .next t ∧
      WroteLanes s t ((List.range (qupDstRun f.ty s.g.fmt)).map (f.d.toNat + ·)) q (fun k l => qupReg f.ty (qupLane s.g f l).1 k)
        (raisedBy q fun l => (qupLane s.g f l).2)

/-- Floating-point, conversion and quantisation forms: result, flags, frame and completion; QUP writes its run (R152, R153, R159 to R171, R174). The
model's reading, not the spec's words: FSCL.ldx clamps an infinite A under SAT (log entry 58), a NaN that QPK drops sets NV (log entry 33), and
CVTP's scale is an integer (log entry 22). -/
def Obligations.FloatLaneResults : Prop := Claims.FloatFormsComplete ∧ Claims.UnpackResult

/-- Compares and classification write the predicate by their combine mode, PLOP3 by its table (R56, R127, R130, R164, R165, R174). -/
def Obligations.PredicateResults : Prop :=
  (∀ e ∈ predForms, ∀ (f : Fields) (s : State) (q : Mask), RegistersPresent s.g → Issues (e.make f) f false false s q →
    ∃ t, exec (e.make f) s = .next t ∧
      WrotePred s t f.d.toNat q (fun l => combined f ((s.g.pget f.d.toNat).getLsbD l) (e.value s.g f l).1)
        (raisedBy q fun l => (e.value s.g f l).2)) ∧
  (∀ (f : Fields) (s : State) (q : Mask), RegistersPresent s.g → Issues (.plop3 f) f false false s q →
    ∃ t, exec (.plop3 f) s = .next t ∧
      WrotePred s t f.d.toNat q (fun l => f.sub.getLsbD
        (4 * ((s.g.predOperand f.a).getLsbD l).toNat + 2 * ((s.g.predOperand f.b).getLsbD l).toNat
          + ((s.g.predOperand f.c).getLsbD l).toNat)) 0)

/-- FSFN puts its result in flight: the destination is busy until DEFERRED_RESULT writes it (R40, R172). -/
def Sys2Proof.Claims.SpecialFunctionIssues : Prop :=
  ∀ (f : Fields) (s : State) (q : Mask), Issues (.fsfn f) f false false s q →
    ∃ t, exec (.fsfn f) s = .next t ∧ Advances s.g t.g ∧ MemorySame s t ∧ (∀ r l, t.g.vget r l = s.g.vget r l) ∧
      t.g.flags = s.g.flags ∧
      t.g.deferred = s.g.deferred ++ [⟨s.nextId, .special, [f.d.toNat],
        [.v f.d.toNat q (lanes.map fun l => if q.getLsbD l then
            wordOf (special f.sub.toNat f.ty (s.g.rnd f) f.sat (s.g.fltB f l)).1 0 else 0) []],
        raisedBy q fun l => (special f.sub.toNat f.ty (s.g.rnd f) f.sat (s.g.fltB f l)).2, [], none, 0, []⟩] ∧
      t = { s with g := { s.g with pc := t.g.pc, stroke := t.g.stroke, deferred := t.g.deferred }, nextId := s.nextId + 1 }

/-- Scalar forms: result, flags, frame and completion, S60 to S62 and S63 among the destinations (R47, R79, R104 to R108, R111). The model's reading:
SBIT writes one register where it counts or tests, so that a 64-bit count leaves the odd register alone (log entry 32), and SCVT rounds as RM says
and SSHF's funnel takes the pair A and B (log entry 53). -/
def Obligations.ScalarResults : Prop :=
  ∀ e ∈ scalarForms, ∀ (f : Fields) (s : State) (q : Mask), RegistersPresent s.g → LanesLive s.g →
    Issues (e.make f) f true false s q →
    ∃ t, exec (e.make f) s = .next t ∧
      WroteScalar s t f.d.toNat (scalarWords (e.wide f) (e.value s.g f).1) (e.value s.g f).2

namespace Sys2Proof.Claims

open Sys2Proof.Machine

/-! ## Control flow -/

/-- A tail instruction has issued: the PC stands at the trailer and the stroke holds what the trailer will do (R38, R39). Nothing else changes. -/
def awaiting (s : State) (tail : Tail) : State :=
  { s with g := { s.g with
      pc := s.g.pc + 1
      stroke := s.g.stroke.map fun st => { st with pos := st.pos + 1, temps := (Temp.none :: st.temps).take 8, tail := tail } } }

/-- The instruction has retired with no result of its own (R39, R66). -/
def skipped (s : State) : State :=
  { s with g := { s.g with
      pc := s.g.pc + 1
      stroke := s.g.stroke.map fun st => { st with pos := st.pos + 1, temps := (Temp.none :: st.temps).take 8 } } }

/-- A target that R35 and R98 let a transfer enter. -/
def MayEnter (s : State) (target : DWord) : Prop := s.targetCheck target = none

/-- The target of an offset: the instruction's slot plus the signed offset (R92). -/
def offsetTarget (s : State) (f : Fields) : DWord := s.g.pc + f.x.signExtend 64

/-- The 64-bit value of an S pair, or of another operand (R92). -/
def pairOf (s : State) (f : Fields) : DWord := s.g.intOperand true f.a 0

/-- Lanes in which the predicate of BRP or EXIT holds: P[k] xor NA (R88, R99). -/
def predLanes (s : State) (f : Fields) (k : BitVec 4) : Mask := if f.na then ~~~(s.g.pget k.toNat) else s.g.pget k.toNat

/-- The group as a trailer leaves it before its tail takes effect: the stroke has ended, and no issuer holds the group. -/
structure StrokeEnded (s t : State) : Prop where
  stroke : t.g.stroke = none
  gid : t.g.gid = s.g.gid
  registers : t.g.v = s.g.v ∧ t.g.s = s.g.s ∧ t.g.p = s.g.p ∧ t.g.flags = s.g.flags
  memory : MemorySame s t

end Sys2Proof.Claims

open Sys2Proof Sys2Proof.Machine Sys2Proof.Claims

/-- The control transfers check their target where they stand and leave the transfer to the trailer (R38, R92, R94 to R98). -/
def Sys2Proof.Claims.JumpsIssue : Prop :=
  (∀ f s q, Issues (.bra f) f true false s q → MayEnter s (offsetTarget s f) →
    exec (.bra f) s = .next (awaiting s (.jump (offsetTarget s f)))) ∧
  (∀ f s q, Issues (.call f) f true false s q → f.sub.getLsbD 2 = true → MayEnter s (pairOf s f) → State.depth s.g < 1024 →
    exec (.call f) s = .next (awaiting s (.call (pairOf s f)))) ∧
  (∀ f s q, Issues (.call f) f true false s q → f.sub.getLsbD 2 = false → MayEnter s (offsetTarget s f) → State.depth s.g < 1024 →
    exec (.call f) s = .next (awaiting s (.call (offsetTarget s f)))) ∧
  (∀ f s q e rest, Issues (.ret f) f true false s q → s.g.stack = e :: rest → e.kind = 2#2 → e.rsv = 0#46 →
    ((e.rmask &&& s.g.live) ≠ 0 → MayEnter s e.ppc) → exec (.ret f) s = .next (awaiting s .ret)) ∧
  (∀ f s q, Issues (.brx f) f true false s q → f.sub.getLsbD 2 = true → MayEnter s (pairOf s f) →
    exec (.brx f) s = .next (awaiting s (.jump (pairOf s f)))) ∧
  (∀ f s q, Issues (.brx f) f true false s q → f.sub.getLsbD 2 = false → s.g.word f.b 0 ≤ s.g.word f.a 0 →
    exec (.brx f) s = .next (awaiting s .none)) ∧
  (∀ f s q, Issues (.brx f) f true false s q → f.sub.getLsbD 2 = false → s.g.word f.a 0 < s.g.word f.b 0 →
    MayEnter s (offsetTarget s f + ((s.g.word f.a 0).setWidth 64 <<< (f.sub.extractLsb' 0 2).toNat)) →
    exec (.brx f) s = .next (awaiting s (.jump (offsetTarget s f + ((s.g.word f.a 0).setWidth 64 <<< (f.sub.extractLsb' 0 2).toNat)))))

/-- BRP divides EM by its predicate and JOIN is reached whatever EM is (R66, R88, R94). -/
def Sys2Proof.Claims.DivergenceIssues : Prop :=
  (∀ f s q k, Issues (.brp f) f true false s q → f.a = .p k → State.depth s.g < 1024 →
    ((s.g.em &&& predLanes s f k) ≠ 0 → MayEnter s (offsetTarget s f)) →
    exec (.brp f) s = .next (awaiting s (.brp (s.g.em &&& predLanes s f k) (s.g.em &&& ~~~(predLanes s f k)) (offsetTarget s f)))) ∧
  (∀ f s e rest, (Instr.join f).legal = true → s.g.stack = e :: rest → e.kind = 0#2 ∨ e.kind = 1#2 → e.rsv = 0#46 →
    (e.kind = 0#2 → (e.pmask &&& s.g.live) ≠ 0 → MayEnter s e.ppc) → exec (.join f) s = .next (awaiting s .join))

/-- LOOP counts down its register modulo 2^32 and transfers while the count is not zero (R96). -/
def Sys2Proof.Claims.LoopCounts : Prop :=
  ∀ f s q n, RegistersPresent s.g → LanesLive s.g → Issues (.loop f) f true false s q → f.a = .s n →
    (s.g.sget n.toNat - 1 ≠ 0 → MayEnter s (offsetTarget s f)) →
    ∃ t, exec (.loop f) s = .next t ∧ t.g.sget n.toNat = s.g.sget n.toNat - 1 ∧ (∀ k, k ≠ n.toNat → t.g.sget k = s.g.sget k) ∧
      t = awaiting { s with g := { s.g with s := t.g.s, em := t.g.em, marks := t.g.marks } }
        (if s.g.sget n.toNat - 1 = 0 then .none else .jump (offsetTarget s f)) ∧ MemorySame s t

/-- The control transfers, BRP, JOIN and LOOP check their target where they stand and leave the transfer to the trailer (R38, R66, R88, R92, R94
to R98). -/
def Obligations.TransfersIssue : Prop := Claims.JumpsIssue ∧ Claims.DivergenceIssues ∧ Claims.LoopCounts

/-- EXIT, TRAP, YLD, WAITT, NOP and SFMT where they stand (R64, R99 to R103). -/
def Obligations.OtherControlIssues : Prop :=
  (∀ f s q, Issues (.exit f) f true false s q → f.a = .absent → s.g.task = none ∨ (s.g.live &&& ~~~s.g.em) ≠ 0 →
    exec (.exit f) s = .next (awaiting s (.exit s.g.em))) ∧
  (∀ f s q k, Issues (.exit f) f true false s q → f.a = .p k →
    s.g.task = none ∨ (s.g.live &&& ~~~(s.g.em &&& predLanes s f k)) ≠ 0 →
    exec (.exit f) s = .next (awaiting s (.exit (s.g.em &&& predLanes s f k)))) ∧
  (∀ f s q, Issues (.trap f) f true false s q → exec (.trap f) s = .next (awaiting s (.trap f.x))) ∧
  (∀ f s q, Issues (.yld f) f true false s q → exec (.yld f) s = .next (awaiting s (.yld f.x.toNat))) ∧
  (∀ f s q, Issues (.waitt f) f true false s q → (pairOf s f).toNat ≤ s.localTime s.g.core →
    exec (.waitt f) s = .next (awaiting s .none)) ∧
  (∀ f s q, Issues (.waitt f) f true false s q → s.localTime s.g.core < (pairOf s f).toNat →
    exec (.waitt f) s = .next (s.waitOn (.waitt (pairOf s f).toNat))) ∧
  (∀ f s q, Issues (.nop f) f true false s q → exec (.nop f) s = .next (skipped s)) ∧
  (∀ f s q v, Issues (.sfmt f) f true false s q → v = (if f.sub.getLsbD 7 then f.x else s.g.word f.a 0) → v < 0x800#32 →
    v.extractLsb' 0 3 ≤ 4#3 → v.extractLsb' 7 2 ≠ 3#2 → v.extractLsb' 3 4 ≤ 4#4 →
    exec (.sfmt f) s = .next (skipped { s with g := { s.g with fmt := v.setWidth 16 } }))

/-- SRDS reads its selector, 13 clearing the sticky flags it has read (R110, R153). -/
def Sys2Proof.Claims.SpecialSelectors : Prop :=
  ∀ f s q, RegistersPresent s.g → LanesLive s.g → Issues (.srds f) f true false s q → f.sub ≠ 13#8 →
    ∃ t, exec (.srds f) s = .next t ∧
      WroteScalar s t f.d.toNat (scalarWords f.srdsWide (srdsValue s f.sub.toNat)) 0

/-- SRDS of selector 13 reads the sticky flags and clears them (R110, R153). -/
def Sys2Proof.Claims.FlagsReadAndClear : Prop :=
  ∀ f s q, RegistersPresent s.g → LanesLive s.g → Issues (.srds f) f true false s q → f.sub = 13#8 →
    ∃ t, exec (.srds f) s = .next t ∧ t.g.flags = 0 ∧ (f.d.toNat < 60 → t.g.sget f.d.toNat = s.g.flags.setWidth 32) ∧
      (∀ n, n ≠ f.d.toNat → t.g.sget n = s.g.sget n) ∧ Advances s.g t.g ∧ MemorySame s t ∧
      t = { s with g := { s.g with s := t.g.s, em := t.g.em, marks := t.g.marks, flags := 0, pc := t.g.pc, stroke := t.g.stroke } }

/-- SRDS reads its selector, and selector 13 also clears the sticky flags (R110, R153). -/
def Obligations.SpecialReads : Prop := Claims.SpecialSelectors ∧ Claims.FlagsReadAndClear

/-- SDIV: a zero divisor takes cause 0x0F and writes nothing; any other divisor puts quotient or remainder in flight, truncated toward zero, the
remainder with the sign of the dividend (R40, R109). -/
def Sys2Proof.Claims.ScalarDivision : Prop :=
  ∀ f s q, Issues (.sdiv f) f true false s q →
    let a := extInt f.ty.signed f.ty.width (s.g.intA f 0)
    let b := extInt f.ty.signed f.ty.width (s.g.scalB f f.ty)
    (b = 0 → exec (.sdiv f) s = .next (s.trapHere 0x0F (some 0) none)) ∧
    (b ≠ 0 →
      let x := wrapInt f.ty.width (if f.sub.getLsbD 0 then a.tmod b else a.tdiv b)
      ∃ t, exec (.sdiv f) s = .next t ∧ Advances s.g t.g ∧ MemorySame s t ∧
        t.g.deferred = s.g.deferred ++ [⟨s.nextId, .divide, (Instr.sdiv f).writes,
          .s f.d.toNat (wordOf x 0) [] :: (if f.ty.is64 then [.s (f.d.toNat + 1) (wordOf x 1) []] else []), 0, [], none, 0, []⟩] ∧
        t = { s with g := { s.g with pc := t.g.pc, stroke := t.g.stroke, deferred := t.g.deferred }, nextId := s.nextId + 1 })

/-- FSFN and SDIV put their results in flight, and SDIV by zero takes cause 0x0F (R40, R109, R172). -/
def Obligations.DeferredArithmetic : Prop := Claims.SpecialFunctionIssues ∧ Claims.ScalarDivision

/-- The trailer ends the stroke and its tail takes effect: nothing, a transfer, both sides of a divergence, the two joins, call and return
(R36, R38, R88, R95). -/
def Obligations.TrailerActs : Prop :=
  ∀ (tr : Trailer) (s : State) (st : Stroke), s.g.stroke = some st → s.stepsOpen s.g = false → State.failedStep s.g = none → s.g.em ≠ 0 →
    s.g.stack.length < 16 →
    (st.tail = .none → ∃ t, exec (.trl tr) s = .next t ∧ StrokeEnded s t ∧ t.g.pc = s.g.pc + 1 ∧ t.g.em = s.g.em ∧ t.g.stack = s.g.stack) ∧
    (∀ target, st.tail = .jump target → ∃ t, exec (.trl tr) s = .next t ∧ StrokeEnded s t ∧ t.g.pc = target ∧ t.g.em = s.g.em ∧
      t.g.stack = s.g.stack) ∧
    (∀ a b target, st.tail = .brp a b target → (a &&& s.g.live) ≠ 0 → ∃ t, exec (.trl tr) s = .next t ∧ StrokeEnded s t ∧ t.g.pc = target ∧
      t.g.em = a &&& s.g.live ∧ t.g.stack = ⟨s.g.fmt, 0, 0, s.g.pc + 1, b, s.g.em⟩ :: s.g.stack) ∧
    (∀ b target, st.tail = .brp 0 b target → (b &&& s.g.live) ≠ 0 → ∃ t, exec (.trl tr) s = .next t ∧ StrokeEnded s t ∧
      t.g.pc = s.g.pc + 1 ∧ t.g.em = b &&& s.g.live ∧ t.g.stack = ⟨s.g.fmt, 0, 0, s.g.pc + 1, 0, s.g.em⟩ :: s.g.stack) ∧
    (∀ e rest, st.tail = .join → s.g.stack = e :: rest → e.kind = 0#2 → (e.pmask &&& s.g.live) ≠ 0 → ∃ t, exec (.trl tr) s = .next t ∧
      StrokeEnded s t ∧ t.g.pc = e.ppc ∧ t.g.em = e.pmask &&& s.g.live ∧ t.g.fmt = e.fmt ∧
      t.g.stack = { e with kind := 1, ppc := s.g.pc + 1, pmask := 0 } :: rest) ∧
    (∀ e rest, st.tail = .join → s.g.stack = e :: rest → e.kind = 1#2 → (e.rmask &&& s.g.live) ≠ 0 → ∃ t, exec (.trl tr) s = .next t ∧
      StrokeEnded s t ∧ t.g.pc = s.g.pc + 1 ∧ t.g.em = e.rmask &&& s.g.live ∧ t.g.fmt = e.fmt ∧ t.g.stack = rest) ∧
    (∀ target, st.tail = .call target → ∃ t, exec (.trl tr) s = .next t ∧ StrokeEnded s t ∧ t.g.pc = target ∧ t.g.em = s.g.em ∧
      t.g.stack = ⟨s.g.fmt, 0, 2, s.g.pc + 1, 0, s.g.em⟩ :: s.g.stack) ∧
    (∀ e rest, st.tail = .ret → s.g.stack = e :: rest → (e.rmask &&& s.g.live) ≠ 0 → ∃ t, exec (.trl tr) s = .next t ∧
      StrokeEnded s t ∧ t.g.pc = e.ppc ∧ t.g.em = e.rmask &&& s.g.live ∧ t.g.fmt = s.g.fmt ∧ t.g.stack = rest)

namespace Sys2Proof.Claims

open Sys2Proof.Machine

/-! ## Memory -/

/-- A lane form of memory: its constructor and its address space (Table 7-6). -/
structure MemForm where
  make : Fields → Instr
  space : MemSpace

def loadForms : List MemForm := [⟨.ld, .virt⟩, ⟨.lds, .scr⟩, ⟨.ldv, .vlt⟩, ⟨.ldz, .acc⟩]

/-- The pool bytes in which the page entries that an access walks hold A and M: those that the TLB lacks, or holds without M for a write
(R203, R204). -/
def entriesOf (s : State) (write : Bool) (locs : List Loc) : List Nat :=
  ((locs.filterMap (·.leaf)).filter fun l => s.needsWalk s.g.core (s.regsOf s.g) write l.va).map (·.at_)

/-- The pool bytes in which the page entries of an engine's locations hold A and M, which it sets at each use (R203, R308). -/
def pageEntries (locs : List Loc) : List Nat := (locs.filterMap (·.leaf)).map (·.at_)

/-- Every byte reads as before, except that A, and for a write M, is set in the page entries that were walked (R203). -/
def MemorySameButMarks (s t : State) (write : Bool) (locs : List Loc) : Prop :=
  (∀ sp off, (sp = .pool → off ∉ entriesOf s write locs) → t.byteAt sp off = s.byteAt sp off) ∧
  (∀ a ∈ entriesOf s write locs, t.byteAt .pool a = s.byteAt .pool a ||| (if write then 0x30 else 0x10))

/-- Every byte reads as before, except that an engine's access through a page has set A, and for a write M, in its entry (R203, R308). -/
def MarkedPage (s t : State) (write : Bool) (l : Leaf) : Prop :=
  (∀ sp off, (sp = .pool → off ≠ l.at_) → t.byteAt sp off = s.byteAt sp off) ∧
  t.byteAt .pool l.at_ = s.byteAt .pool l.at_ ||| (if write then 0x30 else 0x10)

/-- Nothing holds an access of `size` bytes back: no full walk scheduler, fence, exchange or earlier access (R205, R208, R231, R233, R381), and
the core has the miss-status entries that it needs (R210). -/
def MayAccess (s : State) (read bypass : Bool) (size : Nat) (locs : List (Nat × Loc)) : Prop :=
  s.stalls read size (locs.map (·.2)) = false ∧ s.missFull (s.missNeed read bypass size locs) = false

/-- What lane `l` gets as element `k` of a load (R207, R216, R218). -/
def loadedElem (s : State) (f : Fields) (bypass : Bool) (l : Nat) (loc : Loc) (k : Nat) : DWord :=
  putInt f.ty (s.readElem s.g (some l) bypass loc (loc.off + k * f.ty.bytes) f.ty.bytes)

/-- The location that the checks give a lane. -/
def locOf (locs : List (Nat × Loc)) (l : Nat) : Option Loc := (locs.find? (·.1 == l)).map (·.2)

/-- Element `k` that a lane stores, as bytes (R216). -/
def elemBytes (s : State) (f : Fields) (l k : Nat) : List Byte :=
  leBytes f.ty.bytes (s.g.vval f.ty.is64 (f.d.toNat + k * f.regsPer) l).toNat

/-- A store of bytes by a lane: the lane, its location, the address and the bytes. -/
abbrev LaneBytes := Nat × Loc × Nat × List Byte

/-- The writes of a store in the order of R218: lane by lane, element by element; an I/O access is one transaction of its size (R206). -/
def storeBytes (s : State) (f : Fields) (locs : List (Nat × Loc)) : List LaneBytes :=
  locs.flatMap fun x =>
    if x.2.space == .io then [(x.1, x.2, x.2.off, (List.range f.count).flatMap (elemBytes s f x.1))]
    else (List.range f.count).map fun k => (x.1, x.2, x.2.off + k * f.ty.bytes, elemBytes s f x.1 k)

/-- The byte that a list of stores leaves at an address: the last one that covers it (R218). -/
def storedAt (elems : List LaneBytes) (off : Nat) : Option Byte :=
  elems.foldl (fun acc x => if x.2.2.1 ≤ off ∧ off < x.2.2.1 + x.2.2.2.length then x.2.2.2[off - x.2.2.1]? else acc) none

/-- The group's scratchpad, accumulator and vault accesses are performed where they stand (Table 8-1): no release fence holds them back, none of
its earlier accesses is outstanding, and the core runs its context (R233, R381). -/
def PerformsAtOnce (s : State) : Prop :=
  s.openReleases s.g = [] ∧ (∀ p ∈ s.stores, p.gid ≠ s.g.gid) ∧ (s.coreAt s.g.core).regs.ctx = s.g.ctx ∧ (s.coreAt s.g.core).swap.exchange = []

/-- Every location lies in one space. -/
def AllIn (sp : Space) (locs : List (Nat × Loc)) : Prop := ∀ x ∈ locs, x.2.space = sp

/-- The identifier that an instruction may still use after it has asked for the walks of its locations. -/
def idAfter (s : State) (kind : AccKind) (locs : List Loc) : Nat := (s.useLocs kind locs).nextId

/-- The miss-status entry that a store's write keeps until its home has accepted it: the instruction, the beat and the sector, or for I/O the
lane (R210). -/
def entryOf (first : Nat) (x : LaneBytes) : Option (Nat × Nat × Nat) :=
  match x.2.1.space with
  | .pool | .peer _ => some (first, x.1 / 32, x.2.2.1 / 64)
  | .io => some (first, x.1 / 32, 2 ^ 64 + x.1)
  | .scr _ | .acc _ | .vlt _ _ => none

/-- The path entries that a store to the virtual space adds, apart from the release fences that hold them (R209, R210, R230, R360). -/
def pathEntries (s : State) (first : Nat) (entry : LaneBytes → Option (Nat × Nat × Nat)) (elems : List LaneBytes) : List Pending :=
  elems.zipIdx.map fun x =>
    ⟨first + x.2, s.g.core, s.g.gid, x.1.2.1.space, x.1.2.2.1, x.1.2.2.2.length, .write x.1.2.2.2, [],
      if x.1.2.1.emit then some (s.g.ctx, s.gateOf s.g.core.die s.g.ctx) else none, entry x.1⟩

/-- Accesses without the release fences that hold them. -/
def unheld (ps : List Pending) : List Pending := ps.map fun p => { p with after := [] }

/-- The groups that are members of a barrier with the issuing group. -/
def membersOf (s : State) (scope : Nat) : List Group := s.groups.filter (State.barMember s.g scope)

end Sys2Proof.Claims

open Sys2Proof Sys2Proof.Machine Sys2Proof.Claims

/-- LD, LDS, LDV and LDZ: every lane passes its checks and nothing holds the access back, so the elements read are put in flight, and every byte
of memory reads as before but for the A bits of the pages used (R40, R203, R216, R218). -/
def Sys2Proof.Claims.LaneLoadsIssue : Prop :=
  ∀ e ∈ loadForms, ∀ f s q locs, Issues (e.make f) f false false s q →
    s.checkLanes s.g e.space .load true (f.count * f.ty.bytes) q (s.g.address f (e.space == .virt) false) = .ok locs →
    MayAccess s true (e.space == .virt && f.hint == 2) (f.count * f.ty.bytes) locs →
    ∃ t d, exec (e.make f) s = .next t ∧ Advances s.g t.g ∧ MemorySameButMarks s t false (locs.map (·.2)) ∧
      t.g = { s.g with pc := t.g.pc, stroke := t.g.stroke, deferred := s.g.deferred ++ [d] } ∧ t.stores = s.stores ∧
      d.id = idAfter s .load (locs.map (·.2)) ∧ d.kind = .load ∧ d.regs = f.memD ∧ d.waits = [] ∧ d.flags = 0 ∧ d.step = none ∧
      d.writes.length = f.count * f.regsPer ∧
      (∀ k j, k < f.count → j < f.regsPer → ∃ vals marks, RegWrite.v (f.d.toNat + k * f.regsPer + j) q vals marks ∈ d.writes ∧
        (∀ l loc, q.getLsbD l = true → locOf locs l = some loc →
          vals[l]? = some (wordOf (loadedElem s f (e.space == .virt && f.hint == 2) l loc k) j)) ∧
        (∀ m, m ∈ marks ↔ ∃ x ∈ locs, s.elemPoisoned s.g (some x.1) x.2 (x.2.off + k * f.ty.bytes) f.ty.bytes = true ∧
          m = ⟨f.d.toNat + k * f.regsPer + j, x.1, s.g.address f (e.space == .virt) false x.1⟩))

/-- SLD reads once for the group and puts the S register, or pair, in flight (R220). -/
def Sys2Proof.Claims.ScalarLoadIssues : Prop :=
  ∀ f s q loc, Issues (.sld f) f false false s q →
    s.checkAccess s.g (State.scalarSpace f) .load true f.ty.bytes (s.g.address f (State.scalarSpace f == .virt) false 0) = .ok loc →
    s.stalls true f.ty.bytes [loc] = false →
    let x := putInt f.ty (s.readElem s.g none (f.hint == 2) loc loc.off f.ty.bytes)
    let mark (reg : Nat) : List Mark :=
      if s.elemPoisoned s.g none loc loc.off f.ty.bytes then [⟨reg, 0, s.g.address f (State.scalarSpace f == .virt) false 0⟩] else []
    ∃ t d, exec (.sld f) s = .next t ∧ Advances s.g t.g ∧ MemorySameButMarks s t false [loc] ∧
      t.g = { s.g with pc := t.g.pc, stroke := t.g.stroke, deferred := s.g.deferred ++ [d] } ∧ t.stores = s.stores ∧
      d.id = idAfter s .load [loc] ∧ d.kind = .load ∧ d.regs = (Instr.sld f).writes ∧ d.waits = [] ∧ d.flags = 0 ∧ d.step = none ∧
      d.writes = .s f.d.toNat (wordOf x 0) (mark (sKey f.d.toNat)) ::
        (if f.ty.is64 then [.s (f.d.toNat + 1) (wordOf x 1) (mark (sKey (f.d.toNat + 1)))] else [])

/-- ST of a group outside a task: each element enters the store path in lane order, nothing is performed yet, and only M and A of the pages used
change in memory (R203, R209, R216, R218, R230). -/
def Obligations.VirtualStoreIssues : Prop :=
  ∀ f s q locs, Issues (.st f) f false false s q → s.g.task = none →
    s.checkLanes s.g .virt .store true (f.count * f.ty.bytes) q (s.g.address f true false) = .ok locs →
    MayAccess s false false (f.count * f.ty.bytes) locs → (∀ x ∈ locs, x.2.space.isLocal = false) →
    let first := idAfter s .store (locs.map (·.2))
    ∃ t, exec (.st f) s = .next t ∧ Advances s.g t.g ∧ MemorySameButMarks s t true (locs.map (·.2)) ∧
      t.g = { s.g with pc := t.g.pc, stroke := t.g.stroke } ∧
      (∃ es, t.stores = s.stores ++ es ∧ unheld es = pathEntries s first (entryOf first) (storeBytes s f locs) ∧
        (s.g.fences = [] → es = unheld es)) ∧
      t.nextId = first + (storeBytes s f locs).length

/-- STS, STV and STZ where nothing holds them back: the bytes stored are those of the lanes' registers at the lanes' addresses, a higher lane
coming later, and every other byte reads as before (R216, R218, R219). -/
def Sys2Proof.Claims.LocalStoresWrite : Prop :=
  (∀ f s q locs, Issues (.sts f) f false false s q → MemoryCanonical s → PerformsAtOnce s →
    s.checkLanes s.g .scr .store true (f.count * f.ty.bytes) q (s.g.address f false false) = .ok locs →
    MayAccess s false false (f.count * f.ty.bytes) locs →
    ∃ t, exec (.sts f) s = .next t ∧ Advances s.g t.g ∧ t.g = { s.g with pc := t.g.pc, stroke := t.g.stroke } ∧ t.stores = s.stores ∧
      (∀ off, t.byteAt (.scr s.g.core) off = (storedAt (storeBytes s f locs) off).getD (s.byteAt (.scr s.g.core) off)) ∧
      (∀ sp off, off < 2 ^ 64 → sp.base ≠ (Space.scr s.g.core).base → t.byteAt sp off = s.byteAt sp off)) ∧
  (∀ f s q locs, Issues (.stz f) f false false s q → MemoryCanonical s → PerformsAtOnce s →
    s.checkLanes s.g .acc .store true (f.count * f.ty.bytes) q (s.g.address f false false) = .ok locs →
    MayAccess s false false (f.count * f.ty.bytes) locs →
    ∃ t, exec (.stz f) s = .next t ∧ Advances s.g t.g ∧ t.g = { s.g with pc := t.g.pc, stroke := t.g.stroke } ∧ t.stores = s.stores ∧
      (∀ off, t.byteAt (.acc s.g.core) off = (storedAt (storeBytes s f locs) off).getD (s.byteAt (.acc s.g.core) off)) ∧
      (∀ sp off, off < 2 ^ 64 → sp.base ≠ (Space.acc s.g.core).base → t.byteAt sp off = s.byteAt sp off)) ∧
  (∀ f s q v locs, Issues (.stv f) f false false s q → MemoryCanonical s → PerformsAtOnce s → s.g.task = none →
    s.checkLanes s.g .vlt .store true (f.count * f.ty.bytes) q (s.g.address f false false) = .ok locs →
    MayAccess s false false (f.count * f.ty.bytes) locs → AllIn (.vlt s.g.core.die v) locs →
    ∃ t, exec (.stv f) s = .next t ∧ Advances s.g t.g ∧ t.g = { s.g with pc := t.g.pc, stroke := t.g.stroke } ∧ t.stores = s.stores ∧
      (∀ off, t.byteAt (.vlt s.g.core.die v) off = (storedAt (storeBytes s f locs) off).getD (s.byteAt (.vlt s.g.core.die v) off)) ∧
      (∀ sp off, off < 2 ^ 64 → sp.base ≠ (Space.vlt s.g.core.die v).base → t.byteAt sp off = s.byteAt sp off))

/-- SST: to the scratchpad it writes the bytes of the S register, or pair, at its address and no others; to the virtual space they enter the store
path (R209, R216, R220). -/
def Sys2Proof.Claims.ScalarStore : Prop :=
  (∀ f s q loc, Issues (.sst f) f false false s q → State.scalarSpace f = .scr → s.g.task.bind (·.stage) = none → MemoryCanonical s → PerformsAtOnce s →
    s.checkAccess s.g .scr .store true f.ty.bytes (s.g.address f false false 0) = .ok loc → s.stalls false f.ty.bytes [loc] = false →
    ∃ t, exec (.sst f) s = .next t ∧ Advances s.g t.g ∧ t.g = { s.g with pc := t.g.pc, stroke := t.g.stroke } ∧
      (∀ off, t.byteAt (.scr s.g.core) off =
        (storedAt [(0, loc, loc.off, leBytes f.ty.bytes (s.g.sval f.ty.is64 f.d.toNat).toNat)] off).getD (s.byteAt (.scr s.g.core) off)) ∧
      (∀ sp off, off < 2 ^ 64 → sp.base ≠ (Space.scr s.g.core).base → t.byteAt sp off = s.byteAt sp off)) ∧
  (∀ f s q loc, Issues (.sst f) f false false s q → State.scalarSpace f = .virt → s.g.task = none →
    s.checkAccess s.g .virt .store true f.ty.bytes (s.g.address f true false 0) = .ok loc → s.stalls false f.ty.bytes [loc] = false →
    loc.space.isLocal = false →
    ∃ t, exec (.sst f) s = .next t ∧ Advances s.g t.g ∧ MemorySameButMarks s t true [loc] ∧
      t.g = { s.g with pc := t.g.pc, stroke := t.g.stroke } ∧
      ∃ es, t.stores = s.stores ++ es ∧
        unheld es = pathEntries s (idAfter s .store [loc]) (fun _ => none)
          [(0, loc, loc.off, leBytes f.ty.bytes (s.g.sval f.ty.is64 f.d.toNat).toNat)])

/-- Stores to the scratchpad, the accumulators and a vault write the bytes of their registers at their addresses and no others; SST also enters the
store path (R209, R216, R218 to R220). -/
def Obligations.StoresWrite : Prop := Claims.LocalStoresWrite ∧ Claims.ScalarStore

/-- WRITE_PERFORMED of a store to the pool, the peers' pools or a vault, where no task completion waits for it: its bytes are at their home, every
other byte reads as before, and it has left the store path; an access that may not be performed yet stays (R207, R227, R228, R230). -/
def Sys2Proof.Claims.WritePerformed : Prop :=
  (∀ s p d k, MemoryCanonical s → (s.stores.find? (·.id == k)) = some p → s.canPerform p = true → p.effect = .write d →
    (p.space = .pool ∨ (∃ v, p.space = .peer v) ∨ ∃ n v, p.space = .vlt n v) → p.off + d.length ≤ 2 ^ 64 →
    (∀ u ∈ s.tasks, u.completions = []) →
    ∃ t, exec (.writePerformed k) s = .next t ∧ t.stores = s.stores.filter (·.id != k) ∧
      (∀ i, (h : i < d.length) → t.byteAt p.space (p.off + i) = d[i]) ∧
      (∀ sp off, off < 2 ^ 64 → sp.base ≠ p.space.base ∨ off < p.off ∨ p.off + d.length ≤ off → t.byteAt sp off = s.byteAt sp off)) ∧
  (∀ s p k, (s.stores.find? (·.id == k)) = some p → s.canPerform p = false → exec (.writePerformed k) s = .next s)

/-- DEFERRED_RESULT with nothing left to wait for writes the registers of the result in live lanes, raises its flags and frees them (R40, R99,
R153). -/
def Obligations.DeferredResultWrites : Prop :=
  ∀ s g d gid k, s.group? gid = some g → g.deferred.find? (·.id == k) = some d → d.waits = [] → d.step = none →
    exec (.deferredResult gid k) s = .next (s.modGroup gid fun x =>
      { d.writes.foldl Group.applyWrite x with
        flags := (d.writes.foldl Group.applyWrite x).flags ||| d.flags
        deferred := (d.writes.foldl Group.applyWrite x).deferred.filter (·.id != d.id) })

/-- An access that fails a check traps with the cause of highest order, the lowest lane's address in TVAL and the failing lanes in TLANE, and it
has no other effect but the walks that its lanes ask for; those of a full walk scheduler come first (R196, R205, R211, Table 7-4). -/
def Sys2Proof.Claims.FailedAccessTraps : Prop :=
  (∀ e ∈ loadForms, ∀ f s q bad, Issues (e.make f) f false false s q → e.space ≠ .virt →
    s.checkLanes s.g e.space .load true (f.count * f.ty.bytes) q (s.g.address f false false) = .error bad →
    exec (e.make f) s = .next (s.report .load bad)) ∧
  (∀ f s q bad, Issues (.ld f) f false false s q → s.walksFull s.g.core = false →
    s.checkLanes s.g .virt .load true (f.count * f.ty.bytes) q (s.g.address f true false) = .error bad →
    exec (.ld f) s = .next ((s.askLanes .load (State.translated .virt (f.count * f.ty.bytes) q (s.g.address f true false))).report .load bad)) ∧
  (∀ (s : State) (kind : AccKind) (bad : List Fail), (∃ b ∈ bad, b.code = 0x05) →
    s.report kind bad = s.trapHere 0x05 (((bad.filter (·.code == 0x05)).head?.map (·.addr)))
      (some ((bad.filter (·.code == 0x05)).foldl (fun m f => m ||| f.lanes) 0))) ∧
  (∀ (s : State) (g : Group) (m : MemSpace) (kind : AccKind) (io : Bool) (size : Nat) (a : DWord), a.toNat % size ≠ 0 →
    s.checkAccess g m kind io size a = .error (0x05, 0))

/-- Loads of lanes and of the group put what they read in flight, and one that fails a check traps with no other effect (R40, R196, R203, R211, R216,
R218, R220, Table 7-4). That a load reads in the step in which it issues is the model's choice (log entry 5); Table 8-10 lets it be performed
later. -/
def Obligations.LoadsIssue : Prop := Claims.LaneLoadsIssue ∧ Claims.ScalarLoadIssues ∧ Claims.FailedAccessTraps

/-- PRF is a hint: it retires whatever its lanes' translations are, and changes nothing but A bits, the TLB, the walks asked for and L1
(R203, R205, R221). A lane whose address is unaligned or does not translate does nothing; at the first level L1 holds the others' sectors. -/
def Sys2Proof.Claims.PrefetchIsAHint : Prop :=
  (∀ f s q, Issues (.prf f) f false false s q → s.poolHeld s.g ((s.prefetches s.g f q).map (·.2.off)) = false → s.walksFull s.g.core = false →
    (f.countCode ≠ 2 → s.missFull (s.missNeed true (f.countCode == 1) 64 (s.prefetches s.g f q)) = false) →
    ∃ t, exec (.prf f) s = .next t ∧ t.g = (skipped s).g ∧ t.stores = s.stores ∧ t.mem = s.mem ∧
      (∀ sp off, t.byteAt sp off = s.byteAt sp off ∨ (sp = .pool ∧ t.byteAt sp off = s.byteAt sp off ||| 0x10)) ∧
      (f.countCode = 0 → ∀ x ∈ s.prefetches s.g f q, x.2.dead = false →
        (t.coreAt s.g.core).l1.any (·.1 == x.2.off / 64) = true)) ∧
  (∀ f s q, Issues (.prf f) f false false s q →
    (∀ l, q.getLsbD l = true → (s.g.address f true false l).toNat % 64 ≠ 0) → exec (.prf f) s = .next (skipped s))

/-- What a lane's address of CCTL translates to (R222): form 4 drops what was written, and asks for a writable page. -/
def Sys2Proof.Claims.lineAt (s : State) (f : Fields) (l : Nat) : WalkRes :=
  s.translate s.g.core (s.regsOf s.g) s.g.trapState.mode (if f.cctlOp = 4 then .store else .load) (s.g.address f true false l).toNat

/-- The lanes of CCTL that name a line of the pool, with their locations (R222). -/
def Sys2Proof.Claims.linesHit (s : State) (f : Fields) (q : Mask) : List (Nat × Loc) :=
  (lanesOf q).filterMap fun l => match lineAt s f l with
    | .ok x => if x.apt = 0 && !x.dead then some (l, ⟨.pool, x.phys (s.g.address f true false l).toNat, some x⟩) else none
    | .fail .. => none

/-- A byte of the pool lies in a line that CCTL names. -/
def Sys2Proof.Claims.InLine (hits : List (Nat × Loc)) (off : Nat) : Prop := ∃ x ∈ hits, off / 256 = x.2.off / 256

/-- CCTL: form 1 invalidates the core's L1. The forms that invalidate L1 lines (0, 3) or write L2 lines back (2, 3) leave every byte reading at its
home as before, but for A bits; form 4 drops what L2 held of the lines, so that they read as HBM has them. Form 4 in user mode, and a lane whose
translation fails for a reason other than an absent or a dead page, trap (R222, Table 7-8). -/
def Sys2Proof.Claims.CacheControl : Prop :=
  (∀ f s q, Issues (.cctl f) f false false s q → f.cctlOp = 1 →
    exec (.cctl f) s = .next (skipped (s.l1Clear s.g.core)) ∧ ((s.l1Clear s.g.core).coreAt s.g.core).l1 = []) ∧
  (∀ f s q, MemoryCanonical s → Issues (.cctl f) f false false s q → f.cctlOp ≠ 1 → (f.cctlOp = 4 → s.g.trapState.mode = true) →
    s.poolHeld s.g ((linesHit s f q).map (·.2.off)) = false → s.walksFull s.g.core = false →
    (∀ l c lv, q.getLsbD l = true → lineAt s f l = .fail c lv → c = 0x08 ∨ c = 0x09) →
    s.missFull (s.missNeed true true 1 (linesHit s f q)) = false →
    ∃ t, exec (.cctl f) s = .next t ∧ t.g = (skipped s).g ∧ t.stores = s.stores ∧
      (∀ sp off, ¬ (f.cctlOp = 4 ∧ sp = .pool ∧ InLine (linesHit s f q) off) →
        t.byteAt sp off = s.byteAt sp off ∨ (sp = .pool ∧ t.byteAt sp off = s.byteAt sp off ||| 0x10)) ∧
      (∀ off, f.cctlOp = 4 → InLine (linesHit s f q) off → t.byteAt .pool off = Mem.get s.mem off) ∧
      (∀ off, f.cctlOp = 2 ∨ f.cctlOp = 3 → InLine (linesHit s f q) off → L2.get t.l2 off = none) ∧
      (f.cctlOp = 0 ∨ f.cctlOp = 3 → ∀ e ∈ (t.coreAt s.g.core).l1, ¬ InLine (linesHit s f q) (64 * e.1))) ∧
  (∀ f s q, Issues (.cctl f) f false false s q → f.cctlOp = 4 → s.g.trapState.mode = false →
    exec (.cctl f) s = .next (s.trapHere 0x01 none (some q)))

/-- A byte lies in the contents of a discarded page that memory holds. -/
def Sys2Proof.Claims.InPages (ls : List Leaf) (sp : Space) (off : Nat) : Prop :=
  ∃ l ∈ ls, l.apt ≤ 1 ∧ l.space = sp ∧ l.phys l.va ≤ off ∧ off < l.phys l.va + l.size

/-- What DSCD finds in its range. -/
def Sys2Proof.Claims.foundPages (s : State) (f : Fields) : Except (Nat × Nat) (List Leaf) :=
  let start := (s.g.intOperand true f.a 0).toNat
  s.discardPages (s.regsOf s.g) s.g.trapState.mode start (start + 65536 * (s.g.word f.b 0).toNat) ((s.g.word f.b 0).toNat + 1) start

/-- DSCD: a count of zero does nothing; an unaligned start, and a page of the range that fails a check, trap. Otherwise, once no access of the
store path goes into the range, every present page of it is discarded: its entry has D set and M clear, its contents are gone, and no L1 or TLB holds anything of it; every other byte reads as
before (R223; that the contents read as zero from then on is what R223 gives them when D is cleared, log entry 34). -/
def Sys2Proof.Claims.DiscardPages : Prop :=
  (∀ f s q, Issues (.dscd f) f false false s q → s.g.word f.b 0 = 0 → exec (.dscd f) s = .next (skipped s)) ∧
  (∀ f s q, Issues (.dscd f) f false false s q → s.g.word f.b 0 ≠ 0 → (s.g.intOperand true f.a 0).toNat % 65536 ≠ 0 →
    exec (.dscd f) s = .next (s.trapHere 0x05 (some (s.g.intOperand true f.a 0)) none)) ∧
  (∀ f s q c va, Issues (.dscd f) f false false s q → s.g.word f.b 0 ≠ 0 → (s.g.intOperand true f.a 0).toNat % 65536 = 0 →
    s.walksFull s.g.core = false → foundPages s f = .error (c, va) →
    exec (.dscd f) s = .next (s.trapHere c (some (BitVec.ofNat 64 va)) none)) ∧
  (∀ f s q ls, MemoryCanonical s → Issues (.dscd f) f false false s q → s.g.word f.b 0 ≠ 0 →
    (s.g.intOperand true f.a 0).toNat % 65536 = 0 → s.walksFull s.g.core = false → foundPages s f = .ok ls →
    (∀ l ∈ ls, s.pageHeld s.g l = false ∧ s.writesInto l = false) →
    ∃ t, exec (.dscd f) s = .next t ∧ t.g = (skipped s).g ∧ t.stores = s.stores ∧
      (∀ l ∈ ls, ¬ InPages ls .pool l.at_ → t.byteAt .pool l.at_ = (s.byteAt .pool l.at_ ||| 0x40) &&& 0xDF) ∧
      (∀ sp off, InPages ls sp off → (sp = .pool → off ∉ ls.map (·.at_)) → t.byteAt sp off = 0) ∧
      (∀ sp off, off < 2 ^ 64 → ¬ InPages ls sp off → (sp = .pool → off ∉ ls.map (·.at_)) → t.byteAt sp off = s.byteAt sp off) ∧
      (∀ l ∈ ls, ∀ c ∈ t.cores, (l.apt = 0 → ∀ e ∈ c.l1, overlaps (64 * e.1) 64 (l.phys l.va) l.size = false) ∧
        ∀ e ∈ c.tlb, e.part = (s.regsOf s.g).part → e.ctx = none ∨ e.ctx = some (s.regsOf s.g).ctx →
          overlaps e.va e.size l.va l.size = false))

/-- PRF is a hint, CCTL keeps what memory holds, and DSCD discards the pages of its range (R203, R221 to R223, Table 7-8). -/
def Obligations.CacheInstructions : Prop := Claims.PrefetchIsAHint ∧ Claims.CacheControl ∧ Claims.DiscardPages

namespace Sys2Proof.Claims

open Sys2Proof.Machine

/-! ## Atomics -/

/-- The element that stands at a location, in memory as some bytes. -/
def elemAt (ty : Ty) (m : Nat → Byte) (off : Nat) : DWord := BitVec.ofNat 64 (leNat ((List.range ty.bytes).map fun i => m (off + i)))

/-- The bytes with one element written over them. -/
def putElem (ty : Ty) (m : Nat → Byte) (off : Nat) (x : DWord) (a : Nat) : Byte :=
  if off ≤ a ∧ a < off + ty.bytes then (leBytes ty.bytes x.toNat).getD (a - off) 0 else m a

/-- One lane's read-modify-write: the operation of Table 8-5 with the lane's data and its register D as the compare value (R241). -/
def rmwLane (s : State) (f : Fields) (m : Nat → Byte) (x : Nat × Loc) : Nat → Byte :=
  putElem f.ty m x.2.off (atomNew f.atomKind f.ty (elemAt f.ty m x.2.off) (atomData s.g f x.1) (s.g.vval f.ty.is64 f.d.toNat x.1))

/-- The old values that the lanes read, each after the lower lanes have written (R241). -/
def rmwOlds (s : State) (f : Fields) (m : Nat → Byte) : List (Nat × Loc) → List (Nat × DWord)
  | [] => []
  | x :: xs => (x.1, elemAt f.ty m x.2.off) :: rmwOlds s f (rmwLane s f m x) xs

/-- The register writes of a returning atomic: the old value, in each lane. -/
def oldWrites (f : Fields) (olds : List (Nat × DWord)) : List RegWrite :=
  olds.flatMap fun o => State.vWrites f.ty.is64 f.d.toNat ((1 : Mask) <<< o.1) (fun _ => o.2) []

/-- What a local atomic leaves: each lane has read, modified and written in lane order, and a returning form has its old values in flight. -/
structure AtomicDone (s t : State) (i : Instr) (f : Fields) (sp : Space) (locs : List (Nat × Loc)) : Prop where
  control : Advances s.g t.g
  bytes : ∀ off, t.byteAt sp off = locs.foldl (rmwLane s f) (s.byteAt sp) off
  elsewhere : ∀ sp' off, off < 2 ^ 64 → sp'.base ≠ sp.base → t.byteAt sp' off = s.byteAt sp' off
  group : t.g = { s.g with pc := t.g.pc, stroke := t.g.stroke, deferred := t.g.deferred }
  silent : f.atomReturns = false → t.g.deferred = s.g.deferred
  returns : f.atomReturns = true → t.g.deferred = s.g.deferred ++
    [⟨s.nextId, .atomic, i.writes, oldWrites f (rmwOlds s f (s.byteAt sp) locs), 0, [], none, 0, []⟩]
  stores : t.stores = s.stores

/-- No byte of the elements carries an uncorrectable error (R213). -/
def NoError (s : State) (n : Nat) (locs : List (Nat × Loc)) : Prop :=
  ∀ x ∈ locs, ∀ i, i < n → s.poisoned x.2.space (x.2.off + i) = false

/-- Identifiers in use are below the next one. -/
def FreshIds (s : State) : Prop := (∀ d ∈ s.g.deferred, d.id < s.nextId) ∧ ∀ p ∈ s.stores, p.id < s.nextId

/-- The path entries of an atomic's lanes, apart from the release fences that hold them (R209, R230, R241). -/
def atomEntries (s : State) (first : Nat) (f : Fields) (cmp : Nat → DWord) (ret : Nat → Option AtomRet) (locs : List (Nat × Loc)) :
    List Pending :=
  locs.zipIdx.map fun x =>
    ⟨first + x.2, s.g.core, s.g.gid, x.1.2.space, x.1.2.off, f.ty.bytes,
      .rmw f.atomKind f.ty (atomData s.g f x.1.1) (cmp x.1.1) (ret x.1.1), [],
      if x.1.2.emit then some (s.g.ctx, s.gateOf s.g.core.die s.g.ctx) else none, none⟩

/-! ## Waiting -/

/-- The group is in its wait, no issuer holds it, and nothing else that is architectural has changed (R247). -/
def Waits (s t : State) (w : Wait) : Prop :=
  t = s.waitOn w ∧ t.g = { s.g with wait := w, behind := t.g.behind, passed := t.g.passed } ∧ MemorySame s t

/-- A group is ready again: it has its wait lifted, and an idle issuer of its core has selected (R83, R247). -/
def Woken (s : State) (gid : Nat) (core : CoreId) : State :=
  (s.modGroup gid fun x => { x with wait := .ready, passed := [0, 0] }).issuerSelect core

/-- A barrier's own record for a group. -/
def barAt (g : Group) (scope : Nat) : BarArrival := g.bars.getD (scope - 1) ⟨false, 0, [], [], none⟩

def withBar (s : State) (scope : Nat) (b : BarArrival) : State := { s with g := { s.g with bars := s.g.bars.set (scope - 1) b } }

/-- The accesses that an arrival orders: those of the group in its scope, none with .ctl (R253). -/
def arrivalNeeds (s : State) (scope : Nat) (ctl : Bool) : List Nat := if ctl then [] else s.ownPending s.g scope 63

/-- The acquire half of a wait without .ctl (R235, R253): at a scope wider than the core it invalidates L1, and the group has seen what its core
has accepted from the other groups. -/
def acquired (s : State) (scope : Nat) (ctl : Bool) : State :=
  let t := if s.withinCore s.g scope then s else s.l1Clear s.g.core
  if ctl then s
  else { t with g := { t.g with seen := (s.acceptedHere s.g ++ s.g.seen.filter s.outstanding).eraseDups } }

/-- What the sequencer's arrival in a phase brings to a wait on it (R263, R264): its flags, and after an MWT an acquire that invalidates L1. -/
def fromSequencer (s t : State) (n : NumBar) (p : Nat) : State :=
  match n.seqPhases.find? (·.1 == p) with
  | some x =>
    let t := if x.2 then t.l1Clear s.g.core else t
    { t with g := { t.g with flags := t.g.flags ||| ((s.wgOf s.g.wid).seq.map (·.sflg)).getD 0 } }
  | none => t

/-- Nothing that an arrival's release waits for is outstanding: its accesses have been performed, an I/O write at its ordering point (R253,
Table 8-1). -/
def Performed (s : State) (ids : List Nat) : Prop := ∀ id ∈ ids, ∀ p ∈ s.stores, p.id = id → p.effect = .confirm

/-- A numbered barrier with no arrival. -/
def noBar : NumBar := ⟨0, 0, none, 0, [], [], []⟩

/-- A numbered barrier of a workgroup, in the state that this group finds. -/
def nbarAt (s : State) (b : Nat) : NumBar := (s.wgOf s.g.wid).nbars.getD b noBar

/-- A numbered barrier when its phase completes: its count and E are gone, and the arrivals' accesses hold its waiters back (R254). -/
def nextPhase (n : NumBar) : NumBar :=
  { n with
    count := 0, expect := 0, seq := none, phase := n.phase + 1, needs := []
    releases := (if n.needs = [] then [] else [(n.phase, n.needs)]) ++ n.releases
    seqPhases := (n.seq.map fun x => (n.phase, x)).toList ++ n.seqPhases }

/-- The accesses that hold back the waiters of a phase (R253, R254). -/
def releaseOf (n : NumBar) (p : Nat) : List Nat := (n.releases.filter (·.1 == p)).flatMap (·.2)

def withWait (s : State) (b : Nat) (a : NumArrival) : State := { s with g := { s.g with nbars := s.g.nbars.set b a } }

/-- A numbered barrier changed, with the arrival of this group in a phase. -/
def withNbar (s : State) (b : Nat) (n : NumBar) (phase : Nat) (at_ : Option DWord) : State :=
  let t := s.modWg s.g.wid fun w => { w with nbars := w.nbars.set b n }
  { t with g := { s.g with nbars := s.g.nbars.set b ⟨some phase, at_⟩ } }

/-- A group's own record of a numbered barrier. -/
def narAt (g : Group) (b : Nat) : NumArrival := g.nbars.getD b ⟨none, none⟩

/-- The arrival of a BAR on a numbered barrier (R254). -/
def arriving (s : State) (f : Fields) (n : NumBar) : NumBar :=
  { n with
    count := n.count + 1, expect := (s.g.word f.b 0).toNat, needs := n.needs ++ arrivalNeeds s 5 (f.sub.getLsbD 7) }

/-- An unnumbered barrier that the launch may use: WG, or any scope it was launched co-resident for (R251). -/
def MayMeet (s : State) (f : Fields) : Prop :=
  f.scope = 1 ∨ (s.g.launch.coresident = true ∧ (f.scope = 8 → s.g.launch.linked.isSome = true))

/-- The storage mask of FNC (R61). -/
def fenceMask (f : Fields) : Nat := match f.b with
  | .int n => n.toNat
  | _ => 0

/-- The number of a numbered barrier. -/
def nbarNumber (f : Fields) : Nat := match f.a with
  | .int n => n.toNat
  | _ => 0

end Sys2Proof.Claims

open Sys2Proof Sys2Proof.Machine Sys2Proof.Claims

/-- ATOMS and ATOMV where nothing holds them back: the lanes read, modify and write in lane order, D receives the old values in the returning
forms, and no other byte changes (R40, R219, R241, Table 8-5). -/
def Sys2Proof.Claims.LocalAtomics : Prop :=
  (∀ f s q locs, Issues (.atoms f) f false false s q → MemoryCanonical s → PerformsAtOnce s → FreshIds s →
    s.checkLanes s.g .scr .atomic true f.ty.bytes q (s.g.address f false true) = .ok locs → NoError s f.ty.bytes locs →
    s.stalls false f.ty.bytes (locs.map (·.2)) = false →
    ∃ t, exec (.atoms f) s = .next t ∧ AtomicDone s t (.atoms f) f (.scr s.g.core) locs) ∧
  (∀ f s q v locs, Issues (.atomv f) f false false s q → MemoryCanonical s → PerformsAtOnce s → FreshIds s →
    f.atomReturns = true ∨ s.g.task = none →
    s.checkLanes s.g .vlt .atomic true f.ty.bytes q (s.g.address f false true) = .ok locs → NoError s f.ty.bytes locs →
    s.stalls false f.ty.bytes (locs.map (·.2)) = false → AllIn (.vlt s.g.core.die v) locs →
    ∃ t, exec (.atomv f) s = .next t ∧ AtomicDone s t (.atomv f) f (.vlt s.g.core.die v) locs)

/-- ATOM and SATOM: each lane's, or the group's, atomic enters the store path, nothing is performed yet, and a returning form puts D in flight
until its atomics have been performed (R40, R203, R209, R230, R241, R244). -/
def Sys2Proof.Claims.VirtualAtomicsIssue : Prop :=
  (∀ f s q locs, Issues (.atom f) f false false s q → FreshIds s → f.atomReturns = true ∨ s.g.task = none →
    s.checkLanes s.g .virt .atomic (ioAtomicOk f) f.ty.bytes q (s.g.address f true true) = .ok locs →
    s.stalls false f.ty.bytes (locs.map (·.2)) = false → (∀ x ∈ locs, x.2.space.isLocal = false) →
    let id := idAfter s .atomic (locs.map (·.2))
    let first := if f.atomReturns then id + 1 else id
    ∃ t es, exec (.atom f) s = .next t ∧ Advances s.g t.g ∧ MemorySameButMarks s t true (locs.map (·.2)) ∧
      t.g = { s.g with pc := t.g.pc, stroke := t.g.stroke, deferred := t.g.deferred } ∧ t.stores = s.stores ++ es ∧
      unheld es = atomEntries s first f (s.g.vval f.ty.is64 f.d.toNat)
        (fun l => if f.atomReturns then some ⟨s.g.gid, id, f.d.toNat, l, f.ty.is64, false, s.g.address f true true l⟩ else none) locs ∧
      (f.atomReturns = false → t.g.deferred = s.g.deferred) ∧
      (f.atomReturns = true → t.g.deferred = s.g.deferred ++ [⟨id, .atomic, (Instr.atom f).writes, [], 0, es.map (·.id), none, 0, []⟩])) ∧
  (∀ f s q loc, Issues (.satom f) f false false s q → FreshIds s → f.atomReturns = true ∨ s.g.task = none → s.g.task.bind (·.stage) = none →
    s.checkAccess s.g .virt .atomic (ioAtomicOk f) f.ty.bytes (s.g.address f true true 0) = .ok loc →
    s.stalls false f.ty.bytes [loc] = false → loc.space.isLocal = false →
    let id := idAfter s .atomic [loc]
    let first := if f.atomReturns then id + 1 else id
    ∃ t es, exec (.satom f) s = .next t ∧ Advances s.g t.g ∧ MemorySameButMarks s t true [loc] ∧
      t.g = { s.g with pc := t.g.pc, stroke := t.g.stroke, deferred := t.g.deferred } ∧ t.stores = s.stores ++ es ∧
      unheld es = atomEntries s first f (fun _ => s.g.sval f.ty.is64 f.d.toNat)
        (fun _ => if f.atomReturns then some ⟨s.g.gid, id, f.d.toNat, 0, f.ty.is64, true, s.g.address f true true 0⟩ else none) [(0, loc)] ∧
      (f.atomReturns = false → t.g.deferred = s.g.deferred) ∧
      (f.atomReturns = true → t.g.deferred = s.g.deferred ++ [⟨id, .atomic, (Instr.satom f).writes, [], 0, es.map (·.id), none, 0, []⟩]))

/-- Atomics on the scratchpad and on vaults act where they stand, and those on the virtual space enter the store path (R40, R203, R209, R219, R230,
R241, R244). -/
def Obligations.AtomicsIssue : Prop := Claims.LocalAtomics ∧ Claims.VirtualAtomicsIssue

/-- The partition under whose key an access of the store path is made (R430). -/
def Sys2Proof.Claims.partOf (s : State) (p : Pending) : Byte := ((s.group? p.gid).map (·.part)).getD (s.coreAt p.core).regs.part

/-- What an atomic reads at its home: the element, or a free value where its group's partition wrote under an earlier key, or another partition
wrote, one of its bytes (R230, R430). -/
def Sys2Proof.Claims.oldElem (s : State) (p : Pending) (ty : Ty) : DWord :=
  if (List.range ty.bytes).any fun i => s.isStale (partOf s p) (p.off + i) then Config.freeBits (s.free + p.off)
  else elemAt ty (s.byteAt .pool) p.off

/-- WRITE_PERFORMED of an atomic to the pool: one indivisible read, operation and write, and the old value joins the deferred result that waits
for it (R227, R230, R241, R430, Table 8-5). -/
def Sys2Proof.Claims.AtomicPerformed : Prop :=
  ∀ s p op ty data cmp ret k, MemoryCanonical s → s.stores.find? (·.id == k) = some p → s.canPerform p = true →
    p.effect = .rmw op ty data cmp ret → p.space = .pool → p.off + ty.bytes ≤ 2 ^ 64 → (∀ u ∈ s.tasks, u.completions = []) →
    (∀ i, i < ty.bytes → s.poisoned .pool (p.off + i) = false) →
    let old := oldElem s p ty
    ∃ t, exec (.writePerformed k) s = .next t ∧ t.stores = s.stores.filter (·.id != k) ∧
      (∀ a, t.byteAt .pool a = putElem ty (s.byteAt .pool) p.off (atomNew op ty old data cmp) a) ∧
      (∀ sp off, sp ≠ .pool → t.byteAt sp off = s.byteAt sp off) ∧
      (∀ r g d, ret = some r → s.group? r.gid = some g → g.deferred.find? (·.id == r.deferId) = some d →
        ∃ h d', t.group? r.gid = some h ∧ h.deferred.find? (·.id == r.deferId) = some d' ∧ d'.waits = d.waits.filter (· != k) ∧
          d'.writes = d.writes ++ (if r.scalar then State.sWrites r.wide r.reg old [] else State.vWrites r.wide r.reg ((1 : Mask) <<< r.lane) (fun _ => old) []))

/-- A store or an atomic of the store path is performed in one step at its home, and only when it may be (R207, R227, R228, R230, R241). -/
def Obligations.AccessesPerformed : Prop := Claims.WritePerformed ∧ Claims.AtomicPerformed

/-- FNC numbers its fence, puts the number in D, and records what it orders: a release the earlier accesses of its scope and storage, an acquire
the earlier atomics, whose acquire on the pool at a scope wider than the core invalidates L1; it waits while sixteen fences are open (R233, R235,
R248). -/
def Sys2Proof.Claims.FenceIssues : Prop :=
  (∀ f s q, RegistersPresent s.g → LanesLive s.g → Issues (.fnc f) f false false s q → f.scope < 10 ∨ s.g.trapState.mode = true →
    s.g.fc - s.g.fd ≠ 16 →
    ∃ t, exec (.fnc f) s = .next t ∧ Advances s.g t.g ∧ MemorySame s t ∧ t.stores = s.stores ∧ t.g.fc = s.g.fc + 1 ∧
      (f.d.toNat < 60 → t.g.sget f.d.toNat = s.g.fc + 1) ∧ (∀ n, n ≠ f.d.toNat → t.g.sget n = s.g.sget n) ∧
      (∃ x : Fence, t.g.fences = s.g.fences ++ [x] ∧ x.token = s.g.fc + 1 ∧ x.scope = f.scope ∧ x.kind = f.syncKind ∧ x.mask = fenceMask f ∧
        (∀ id, id ∈ x.needs ↔ ∃ p ∈ s.stores, p.id = id ∧
          ((f.syncKind ≠ 1 ∧ (p.gid = s.g.gid ∨ p.id ∈ s.g.seen) ∧ (fenceMask f).testBit p.space.bit = true ∧ s.counts s.g f.scope p = true)
            ∨ (f.syncKind ≠ 0 ∧ p.gid = s.g.gid ∧ s.counts s.g f.scope p = true ∧ ∃ op ty data cmp ret, p.effect = .rmw op ty data cmp ret)))) ∧
      (f.syncKind ≠ 0 → (fenceMask f).testBit 3 = true → s.withinCore s.g f.scope = false → (t.coreAt s.g.core).l1 = []) ∧
      t.g = { s.g with
        pc := t.g.pc, stroke := t.g.stroke, s := t.g.s, em := t.g.em, marks := t.g.marks, fc := t.g.fc, fences := t.g.fences, seen := t.g.seen }) ∧
  (∀ f s q, Issues (.fnc f) f false false s q → 10 ≤ f.scope → s.g.trapState.mode = false →
    exec (.fnc f) s = .next (s.trapHere 0x01 none (some q))) ∧
  (∀ f s q, Issues (.fnc f) f false false s q → f.scope < 10 ∨ s.g.trapState.mode = true → s.g.fc - s.g.fd = 16 →
    exec (.fnc f) s = .next (s.waitOn .fnc))

/-- FWT waits for a fence, or for all, and traps on one not issued yet (R249). -/
def Sys2Proof.Claims.FenceWaits : Prop :=
  (∀ f s q, Issues (.fwt f) f false false s q → f.sub.getLsbD 0 = true → s.g.fd = s.g.fc → exec (.fwt f) s = .next (skipped s)) ∧
  (∀ f s q, Issues (.fwt f) f false false s q → f.sub.getLsbD 0 = true → s.g.fd ≠ s.g.fc → exec (.fwt f) s = .next (s.waitOn (.fwt none))) ∧
  (∀ f s q, Issues (.fwt f) f false false s q → f.sub.getLsbD 0 = false → s.g.word f.a 0 ≠ 0 →
    (s.g.fc - s.g.word f.a 0).getLsbD 31 = true → exec (.fwt f) s = .next (s.trapHere 0x14 (some 0x30) none)) ∧
  (∀ f s q, Issues (.fwt f) f false false s q → f.sub.getLsbD 0 = false →
    s.g.word f.a 0 = 0 ∨ ((s.g.fc - s.g.word f.a 0).getLsbD 31 = false ∧ (s.g.fd - s.g.word f.a 0).getLsbD 31 = false) →
    exec (.fwt f) s = .next (skipped s)) ∧
  (∀ f s q, Issues (.fwt f) f false false s q → f.sub.getLsbD 0 = false → s.g.word f.a 0 ≠ 0 → (s.g.fc - s.g.word f.a 0).getLsbD 31 = false →
    (s.g.fd - s.g.word f.a 0).getLsbD 31 = true → exec (.fwt f) s = .next (s.waitOn (.fwt (some (s.g.word f.a 0)))))

/-- A group whose acquire takes effect has seen what its core has accepted from the other groups (R235). -/
def Sys2Proof.Claims.seeing (s : State) (g : Group) : Group := { g with seen := (s.acceptedHere g ++ g.seen.filter s.outstanding).eraseDups }

/-- FENCE_COMPLETE ends the oldest fence of a group once nothing that it orders is outstanding, and an acquire then takes effect; a .sys fence also
waits for the confirmation of I/O writes (R233 to R235, R248, Table 8-1). -/
def Sys2Proof.Claims.FencesEnd : Prop :=
  (∀ s g x rest gid, s.group? gid = some g → g.fences = x :: rest →
    (∀ id ∈ x.needs, ∀ p ∈ s.stores, p.id = id → p.effect = .confirm ∧ x.scope ≠ 9) →
    exec (.fenceComplete gid) s = .next (s.modGroup gid fun h =>
      let h := if x.kind = 0 then h else seeing s h
      { h with fd := x.token, fences := h.fences.drop 1 })) ∧
  (∀ s g x rest gid id p, s.group? gid = some g → g.fences = x :: rest → id ∈ x.needs → p ∈ s.stores → p.id = id →
    p.effect ≠ .confirm ∨ x.scope = 9 → exec (.fenceComplete gid) s = .next s) ∧
  (∀ s g gid, s.group? gid = some g → g.fences = [] → exec (.fenceComplete gid) s = .next s)

/-- Fences: FNC numbers its fence and puts the number in D, a fence completes in order once nothing that it orders is outstanding, and FWT waits for a
fence, or for all, and traps on one not issued yet (R233, R248, R249). An acquire waits for the group's earlier atomics alone, since a load has
read when it issues: the model's choice (log entry 5). -/
def Obligations.FencesComplete : Prop := Claims.FenceIssues ∧ Claims.FenceWaits ∧ Claims.FencesEnd

/-- An unnumbered BAR: an arrival records the phase and what it orders, a second arrival traps, a wait retires when its phase is complete and what
the arrivals ordered is performed, and waits otherwise (R251 to R253, Table 8-8). -/
def Sys2Proof.Claims.BarIssues : Prop :=
  (∀ f s q, Issues (.bar f) f false false s q → f.barNumbered = false → f.scope ≠ 1 →
    s.g.launch.coresident = false ∨ (f.scope = 8 ∧ s.g.launch.linked = none) → exec (.bar f) s = .next (s.trapHere 0x14 (some 0x31) none)) ∧
  (∀ f s q, Issues (.bar f) f false false s q → f.barNumbered = false → MayMeet s f →
    f.syncKind = 1 → (barAt s.g f.scope).arrived = false → (barAt s.g f.scope).at_ ≠ some s.g.pc →
    exec (.bar f) s = .next (skipped (withBar s f.scope { barAt s.g f.scope with
      arrived := true, needs := arrivalNeeds s f.scope (f.sub.getLsbD 7), at_ := none }))) ∧
  (∀ f s q, Issues (.bar f) f false false s q → f.barNumbered = false → MayMeet s f →
    f.syncKind ≠ 2 → (barAt s.g f.scope).arrived = true → s.barFull s.g f.scope = false ∨ 5 < f.scope → (barAt s.g f.scope).at_ ≠ some s.g.pc →
    exec (.bar f) s = .next (s.trapHere 0x14 (some 0x33) none)) ∧
  (∀ f s q, Issues (.bar f) f false false s q → f.barNumbered = false → MayMeet s f →
    f.syncKind = 2 ∨ (barAt s.g f.scope).at_ = some s.g.pc → (barAt s.g f.scope).arrived = false →
    f.sub.getLsbD 7 = true ∨ Performed s (barAt s.g f.scope).release →
    exec (.bar f) s = .next (skipped (withBar (acquired s f.scope (f.sub.getLsbD 7)) f.scope { barAt s.g f.scope with at_ := none }))) ∧
  (∀ f s q, Issues (.bar f) f false false s q → f.barNumbered = false → MayMeet s f →
    f.syncKind = 2 ∨ (barAt s.g f.scope).at_ = some s.g.pc →
    ((barAt s.g f.scope).arrived = true ∧ (s.barFull s.g f.scope = false ∨ 5 < f.scope)) ∨
      ((barAt s.g f.scope).arrived = false ∧ f.sub.getLsbD 7 = false ∧ ¬ Performed s (barAt s.g f.scope).release) →
    exec (.bar f) s = .next (s.waitOn (.bar f.scope))) ∧
  (∀ f s q, Issues (.bar f) f false false s q → f.barNumbered = false → MayMeet s f → f.syncKind = 0 →
    (barAt s.g f.scope).arrived = false → (barAt s.g f.scope).at_ ≠ some s.g.pc →
    exec (.bar f) s = .next ((withBar s f.scope { barAt s.g f.scope with
      arrived := true, needs := arrivalNeeds s f.scope (f.sub.getLsbD 7), at_ := some s.g.pc }).waitOn (.bar f.scope)))

/-- A numbered BAR: the arrivals count against E, a wait is for the phase of the group's own latest arrival, and a wrong E traps (R254, R263,
R264, Table 8-8). -/
def Sys2Proof.Claims.NumberedBarIssues : Prop :=
  (∀ f s q n p, Issues (.bar f) f false false s q → f.barNumbered = true → n = nbarAt s (nbarNumber f) → 
    f.syncKind = 2 ∨ (narAt s.g (nbarNumber f)).at_ = some s.g.pc →
    (n.count = 0 ∨ n.count ≠ n.expect) → (narAt s.g (nbarNumber f)).phase = some p →
    p < n.phase → f.sub.getLsbD 7 = true ∨ Performed s (releaseOf n p) →
    exec (.bar f) s = .next (skipped (withWait (fromSequencer s (acquired s 1 (f.sub.getLsbD 7)) n p) (nbarNumber f) ⟨some p, none⟩))) ∧
  (∀ f s q n p, Issues (.bar f) f false false s q → f.barNumbered = true → n = nbarAt s (nbarNumber f) → 
    f.syncKind = 2 ∨ (narAt s.g (nbarNumber f)).at_ = some s.g.pc →
    (n.count = 0 ∨ n.count ≠ n.expect) → (narAt s.g (nbarNumber f)).phase = some p →
    n.phase ≤ p ∨ (f.sub.getLsbD 7 = false ∧ ¬ Performed s (releaseOf n p)) →
    exec (.bar f) s = .next (s.waitOn (.nbar (nbarNumber f)))) ∧
  (∀ f s q n, Issues (.bar f) f false false s q → f.barNumbered = true → n = nbarAt s (nbarNumber f) → f.syncKind ≠ 2 →
    (narAt s.g (nbarNumber f)).at_ ≠ some s.g.pc → (n.count = 0 ∨ n.count ≠ n.expect) →
    (s.g.word f.b 0).toNat = 0 ∨ 65 < (s.g.word f.b 0).toNat ∨ (0 < n.count ∧ n.expect ≠ (s.g.word f.b 0).toNat) →
    exec (.bar f) s = .next (s.trapHere 0x14 (some 0x32) none)) ∧
  (∀ f s q n, Issues (.bar f) f false false s q → f.barNumbered = true → n = nbarAt s (nbarNumber f) → f.syncKind ≠ 2 →
    (narAt s.g (nbarNumber f)).at_ ≠ some s.g.pc → (n.count = 0 ∨ n.count ≠ n.expect) →
    1 ≤ (s.g.word f.b 0).toNat → (s.g.word f.b 0).toNat ≤ 65 → (n.count = 0 ∨ n.expect = (s.g.word f.b 0).toNat) →
    ∃ t, exec (.bar f) s = .next t ∧ MemorySame s t ∧
      (f.syncKind = 1 → t = skipped (withNbar s (nbarNumber f) (arriving s f n) n.phase none)) ∧
      (f.syncKind = 0 → t = (withNbar s (nbarNumber f) (arriving s f n) n.phase (some s.g.pc)).waitOn (.nbar (nbarNumber f))))

/-- A phase completes when every member has arrived or ended, a numbered one when its count reaches E; what the arrivals ordered then holds the
waits back (R252 to R254, Table 8-7). -/
def Sys2Proof.Claims.PhasesComplete : Prop :=
  (∀ s g gid scope, s.group? gid = some g → 1 ≤ scope → scope ≤ 8 → (∃ x ∈ s.groups, State.barMember g scope x = true ∧ (barAt x scope).arrived = true) →
    (∀ x ∈ s.groups, State.barMember g scope x = true → x.wait = .ended ∨ (barAt x scope).arrived = true) →
    ∃ t, exec (.barrierPhaseComplete gid scope) s = .next t ∧ MemorySame s t ∧
      t = s.modGroups (State.barMember g scope) fun x => { x with bars := x.bars.set (scope - 1) { barAt x scope with
        arrived := false, phase := (barAt x scope).phase + 1, needs := []
        release := ((s.groups.filter (State.barMember g scope)).flatMap fun y => (barAt y scope).needs).eraseDups } }) ∧
  (∀ s g gid scope x, s.group? gid = some g → x ∈ s.groups → State.barMember g scope x = true → x.wait ≠ .ended → (barAt x scope).arrived = false →
    exec (.barrierPhaseComplete gid scope) s = .next s) ∧
  (∀ s wid b n, n = (s.wgOf wid).nbars.getD b noBar → 0 < n.count → n.count = n.expect →
    exec (.numberedBarrierComplete wid b) s = .next (s.modWg wid fun w => { w with nbars := w.nbars.set b (nextPhase (w.nbars.getD b noBar)) })) ∧
  (∀ s wid b n, n = (s.wgOf wid).nbars.getD b noBar → n.count = 0 ∨ n.count ≠ n.expect →
    exec (.numberedBarrierComplete wid b) s = .next s)

/-- BAR: an arrival records the phase and what it orders, a second arrival traps, a wait retires when its phase is complete and what the arrivals
ordered is performed, and the phase completes when every member has arrived or ended (R251 to R254, Tables 8-7, 8-8). The model's reading: at
scopes wider than the package a phase completes on this package's members (log entry 2), and task groups are members of no unnumbered barrier
wider than the workgroup (log entry 77). -/
def Obligations.BarriersComplete : Prop := Claims.BarIssues ∧ Claims.NumberedBarIssues ∧ Claims.PhasesComplete

/-- WTCT retires when the counter, or the WP of a queue, has reached its target in the sense of R255, and acquires at the core; it waits otherwise, and
traps on an unconfigured queue, a queue in error, and a bad address (R237, R255, R306). -/
def Sys2Proof.Claims.CounterWaits : Prop :=
  (∀ f s q x, Issues (.wtct f) f false false s q → f.syncKind = 1 → x = s.queueOf s.g.core s.g.ctx (s.g.word f.a 0).toNat →
    x.state ≠ .unconfigured → x.state ≠ .error → (BitVec.ofNat 64 x.wp - s.g.sval true f.d.toNat).getLsbD 63 = false →
    exec (.wtct f) s = .next (skipped { s with g := seeing s s.g })) ∧
  (∀ f s q x, Issues (.wtct f) f false false s q → f.syncKind = 1 → x = s.queueOf s.g.core s.g.ctx (s.g.word f.a 0).toNat →
    x.state ≠ .unconfigured → x.state ≠ .error → (BitVec.ofNat 64 x.wp - s.g.sval true f.d.toNat).getLsbD 63 = true →
    exec (.wtct f) s = .next (s.waitOn (.wtctQ (s.g.word f.a 0).toNat (s.g.sval true f.d.toNat)))) ∧
  (∀ f s q x, Issues (.wtct f) f false false s q → f.syncKind = 1 → x = s.queueOf s.g.core s.g.ctx (s.g.word f.a 0).toNat →
    x.state = .unconfigured → exec (.wtct f) s = .next (s.trapHere 0x14 (some 0x34) none)) ∧
  (∀ f s q x, Issues (.wtct f) f false false s q → f.syncKind = 1 → x = s.queueOf s.g.core s.g.ctx (s.g.word f.a 0).toNat →
    x.state = .error →
    exec (.wtct f) s = .next (s.trapHere 0x10 (some (BitVec.ofNat 64 (x.err + 256 * (s.g.word f.a 0).toNat))) none)) ∧
  (∀ f s q c lv, Issues (.wtct f) f false false s q → f.syncKind = 0 →
    s.checkAccess s.g .scr .load true 8 (s.g.address f false false 0) = .error (c, lv) →
    exec (.wtct f) s = .next (s.trapHere c (some (s.g.address f false false 0)) (some s.g.em))) ∧
  (∀ f s q loc, Issues (.wtct f) f false false s q → f.syncKind = 0 →
    s.checkAccess s.g .scr .load true 8 (s.g.address f false false 0) = .ok loc → s.stalls true 8 [loc] = false →
    (BitVec.ofNat 64 (leNat (s.viewBytes s.g.core s.g.gid true (.scr s.g.core) loc.off 8)) - s.g.sval true f.d.toNat).getLsbD 63 = false →
    exec (.wtct f) s = .next (skipped { s with g := seeing s s.g })) ∧
  (∀ f s q loc, Issues (.wtct f) f false false s q → f.syncKind = 0 →
    s.checkAccess s.g .scr .load true 8 (s.g.address f false false 0) = .ok loc → s.stalls true 8 [loc] = false →
    (BitVec.ofNat 64 (leNat (s.viewBytes s.g.core s.g.gid true (.scr s.g.core) loc.off 8)) - s.g.sval true f.d.toNat).getLsbD 63 = true →
    exec (.wtct f) s = .next (s.waitOn (.wtctScr loc.off (s.g.sval true f.d.toNat))))

/-- WAIT_RESUME, WAITT_WAKE and YLD_WAKE make a group ready exactly when its condition holds, unless an error stands for it: then it takes the
error (R70, R102, R103, R247, R249, R255, R299). -/
def Sys2Proof.Claims.WaitsEnd : Prop :=
  (∀ s g gid t, s.group? gid = some g → g.async = [] → g.wait = .fwt (some t) → t ≠ 0 → (g.fd - t).getLsbD 31 = true →
    exec (.waitResume gid) s = .next s) ∧
  (∀ s g gid t, s.group? gid = some g → g.async = [] → g.wait = .fwt (some t) → (g.fd - t).getLsbD 31 = false →
    exec (.waitResume gid) s = .next (Woken s gid g.core)) ∧
  (∀ s g gid, s.group? gid = some g → g.async = [] → g.wait = .fnc → g.fc - g.fd < 16 →
    exec (.waitResume gid) s = .next (Woken s gid g.core)) ∧
  (∀ s g gid, s.group? gid = some g → g.async = [] → g.wait = .fnc → ¬(g.fc - g.fd < 16) → exec (.waitResume gid) s = .next s) ∧
  (∀ s g gid n, s.group? gid = some g → g.async = [] → g.wait = .ewt n → g.ec ≤ n →
    exec (.waitResume gid) s = .next (Woken s gid g.core)) ∧
  (∀ s g gid n, s.group? gid = some g → g.async = [] → g.wait = .ewt n → n < g.ec → exec (.waitResume gid) s = .next s) ∧
  (∀ s g gid, s.group? gid = some g → g.async = [] → g.wait = .hlt → g.signal ≠ none →
    exec (.waitResume gid) s = .next (Woken s gid g.core)) ∧
  (∀ s g gid, s.group? gid = some g → g.async = [] → g.wait = .hlt → g.signal = none → exec (.waitResume gid) s = .next s) ∧
  (∀ s g gid, s.group? gid = some g → g.wait = .ready ∨ g.wait = .ended ∨ g.wait = .halted ∨ g.wait = .suspended →
    exec (.waitResume gid) s = .next s) ∧
  (∀ s g gid t, s.group? gid = some g → g.async = [] → g.wait = .waitt t → t ≤ s.localTime g.core →
    exec (.waittWake gid) s = .next (Woken s gid g.core)) ∧
  (∀ s g gid t, s.group? gid = some g → g.async = [] → g.wait = .waitt t → s.localTime g.core < t → exec (.waittWake gid) s = .next s) ∧
  (∀ s e rest w, s.g.wait = w → s.g.async = e :: rest → s.inCore s.g = true →
    w = .fnc ∨ w = .hlt ∨ (∃ n, w = .ewt n) ∨ (∃ t, w = .fwt t) →
    exec (.waitResume s.g.gid) s =
      .next (({ s with g := { s.g with async := rest } }.trap e.cause s.g.pc (some e.tval) none).issuerSelect s.g.core)) ∧
  (∀ s g gid n, s.group? gid = some g → g.gid = gid → g.wait = .yld n →
    ∃ t, exec (.yldWake gid) s = .next t ∧ MemorySame s t ∧ t.stores = s.stores ∧
      ∃ h, t.group? gid = some h ∧ h = { g with wait := .ready, behind := h.behind, passed := h.passed }) ∧
  (∀ (s : State) (core : CoreId), s.localTime core ≤ s.dtime + 4 ∧ s.dtime ≤ s.localTime core + 4)

/-- WTCT waits for a counter or a queue, and a wait ends exactly when its condition holds (R102, R103, R247, R249, R255, R306). -/
def Obligations.WaitsComplete : Prop := Claims.CounterWaits ∧ Claims.WaitsEnd

/-- A pending signal and an asynchronous error reach a group only at a point, the signal only when TIP is clear and no error is pending; then the
group takes cause 0x12 with the signal word, or the error's cause with its value, in TVAL (R299, R376). -/
def Obligations.PendingEventsAreTaken : Prop :=
  (∀ s v, s.g.signal = some v → s.g.wait = .ready → s.g.stroke = none → s.g.trapState.tip = false → s.g.async = [] → s.inCore s.g = true →
    exec (.signalDelivery s.g.gid) s =
      .next (({ s with g := { s.g with signal := none } }.trap 0x12 s.g.pc (some (v.setWidth 64)) none).issuerSelect s.g.core)) ∧
  (∀ s g gid, s.group? gid = some g → g.trapState.tip = true ∨ g.async ≠ [] ∨ (g.wait = .ready ∧ g.stroke.isSome = true) →
    exec (.signalDelivery gid) s = .next s) ∧
  (∀ s e rest, s.g.async = e :: rest → s.g.wait = .ready → s.g.stroke = none → s.inCore s.g = true →
    exec (.asyncErrorDelivery s.g.gid) s =
      .next (({ s with g := { s.g with async := rest } }.trap e.cause s.g.pc (some e.tval) none).issuerSelect s.g.core)) ∧
  (∀ s g gid, s.group? gid = some g → g.wait = .ready ∧ g.stroke.isSome = true → exec (.asyncErrorDelivery gid) s = .next s)

/-- The walk in flight that WALK completes for a requester and a page (R205). -/
def Sys2Proof.Claims.WalkDue (who : Walker) (va : DWord) (write : Bool) (w : WalkReq) : Bool :=
  w.started && w.who == who && w.page == va.toNat / 65536 && w.write == write

/-- The access for which a requester walks: a core's load or store, or a read or write of a tile fetch unit. -/
def Sys2Proof.Claims.walkKind (who : Walker) (write : Bool) : AccKind :=
  match who with
  | .core _ => if write then .store else .load
  | .fetchUnit _ => if write then .engineWrite else .engineRead

/-- Whether a walk marks the page entry: one that a prefetch of the translation, or a lane that did nothing, asked for loads the TLB alone (R203,
R221). -/
def Sys2Proof.Claims.walkMarks (who : Walker) (w : WalkReq) : Bool :=
  match who with
  | .core _ => w.mark
  | .fetchUnit _ => true

/-- FETCH_LINE, WALK and CACHE_EVICTION leave registers and the store path alone, and every byte reads at its home as before, except that a page
entry walked for an access gets A, and M for a write; a walk that nothing asked for does nothing, and a pinned line stays (R34, R203, R205 to R207, R276, R448). -/
def Obligations.FetchWalkEvict : Prop :=
  (∀ s g gid va, s.group? gid = some g → s.inCore g = true →
    ∃ t, exec (.fetchLine gid va) s = .next t ∧ t.groups = s.groups ∧ t.stores = s.stores ∧
      (∀ sp off, t.byteAt sp off = s.byteAt sp off ∨ (sp = .pool ∧ t.byteAt sp off = s.byteAt sp off ||| 0x10))) ∧
  (∀ s who va write w l, (s.dieAt (walkerDie who)).walks.find? (WalkDue who va write) = some w →
    s.engineTranslate ⟨w.ctx, w.part, w.ptbase, 0, 0, []⟩ w.super (walkKind who write) (65536 * w.page) = .ok l →
    ∃ t, exec (.walk who va write) s = .next t ∧ t.groups = s.groups ∧ t.stores = s.stores ∧
      t.byteAt .pool l.at_ = s.byteAt .pool l.at_ ||| (if walkMarks who w then (if write then 0x30 else 0x10) else 0) ∧
      (∀ sp off, sp ≠ .pool ∨ off ≠ l.at_ → t.byteAt sp off = s.byteAt sp off)) ∧
  (∀ s who va write, (s.dieAt (walkerDie who)).walks.find? (WalkDue who va write) = none → exec (.walk who va write) s = .next s) ∧
  (∀ s e, MemoryCanonical s → (∀ line, e = .l2 line → line < 2 ^ 56) → ∃ t, exec (.cacheEviction e) s = .next t ∧ MemorySame s t ∧ t.groups = s.groups ∧ t.stores = s.stores) ∧
  (∀ s line, MemoryCanonical s → s.pinned line = false → ∃ t, exec (.cacheEviction (.l2 line)) s = .next t ∧
    ∀ off, 256 * line ≤ off → off < 256 * line + 256 → Mem.get t.mem off = s.byteAt .pool off ∧ L2.get t.l2 off = none)

namespace Sys2Proof.Claims

open Sys2Proof.Machine

/-! ## Cross-lane instructions -/

/-- The instruction put a result in flight and did nothing else (R40). -/
structure PutInFlight (s t : State) (i : Instr) (kind : DeferKind) (writes : List RegWrite) (flags : FlagSet) (step : Option Nat) : Prop where
  control : Advances s.g t.g
  result : t.g.deferred = s.g.deferred ++ [⟨s.nextId, kind, i.writes, writes, flags, [], step, 0, []⟩]
  rest : t = { s with g := { s.g with pc := t.g.pc, stroke := t.g.stroke, deferred := t.g.deferred }, nextId := s.nextId + 1 }

/-- The lane that NBR reads for a position, by end mode: wrap, clamp, or the fill (R183). -/
def neighbourLane (mode : Nat) (p : Int) : Option Nat :=
  if mode = 0 then some (p % 96).toNat
  else if mode = 1 then some (max 0 (min 95 p)).toNat
  else if 0 ≤ p ∧ p < 96 then some p.toNat else none

/-- What NBR gives a lane in the group scope: A of the neighbour if that lane is live, C otherwise (R183). -/
def neighbourValue (g : Group) (f : Fields) (l : Nat) : DWord :=
  match neighbourLane (f.sub.extractLsb' 0 2).toNat ((l : Int) + g.nbrOffset f) with
  | some p => if g.live.getLsbD p then g.intOperand f.ty.is64 f.a p else g.intOperand f.ty.is64 f.c l
  | none => g.intOperand f.ty.is64 f.c l

/-- A fold over some lanes in ascending order, with its flags: at a segment's first lane it starts again from the identity (R185, R186). -/
def foldOver (op : Nat) (t : Ty) (sat : Bool) (start : DWord) (seg : Nat → Bool) (val : Nat → DWord) (ls : List Nat) : DWord × FlagSet :=
  ls.foldl (fun acc l =>
    let r := State.foldOp op t sat (if seg l then State.foldIdentity op t else acc.1) (val l)
    (r.1, acc.2 ||| r.2)) (start, 0)

def foldCode (f : Fields) : Nat := (f.sub.extractLsb' 0 3).toNat

/-- The segment predicate of SCAN. -/
def segmentAt (g : Group) (f : Fields) (l : Nat) : Bool := match f.c with
  | .p n => (g.pget n.toNat).getLsbD l
  | _ => false

/-- What SCAN gives a lane: the fold up to it, without its own value in the exclusive form (R186). -/
def scanValue (g : Group) (f : Fields) (q : Mask) (l : Nat) : DWord :=
  let before := (foldOver (foldCode f) f.ty f.sat (State.foldIdentity (foldCode f) f.ty) (segmentAt g f) (g.operand f.ty f.a)
    ((lanesOf q).filter (· < l))).1
  let start := if segmentAt g f l then State.foldIdentity (foldCode f) f.ty else before
  if f.sub.getLsbD 3 then start else (State.foldOp (foldCode f) f.ty f.sat start (g.operand f.ty f.a l)).1

/-- The qualifying lanes in which VOTE's predicate holds (R188). -/
def voters (g : Group) (f : Fields) (q : Mask) : Mask := match f.a with
  | .p k => q &&& (if f.na then ~~~(g.pget k.toNat) else g.pget k.toNat)
  | _ => 0

/-- VOTE's words: any, all, count, or the 96 bits (R188). -/
def voteWords (g : Group) (f : Fields) (q : Mask) : List Word :=
  let hit := voters g f q
  match f.voteKind with
  | 0 => [if hit ≠ 0 then 1 else 0]
  | 1 => [if hit = q then 1 else 0]
  | 2 => [BitVec.ofNat 32 (lanesOf hit).length]
  | _ => [hit.extractLsb' 0 32, hit.extractLsb' 32 32, hit.extractLsb' 64 32]

/-- What BCST gives a lane: A of the source lane if that is live, C otherwise (R189). -/
def broadcastValue (g : Group) (f : Fields) (q : Mask) (l : Nat) : DWord :=
  let src := if f.sub.getLsbD 0 then ((lanesOf q).head?).getD 96 else (g.word f.b 0).toNat
  if src < 96 ∧ g.live.getLsbD src = true then g.intOperand f.ty.is64 f.a src else g.intOperand f.ty.is64 f.c l

/-! ## Steps -/

/-- A group has posted step `k`, and it differs from the step of an opcode and its fields (R179). -/
def Differs (k : Nat) (opc : BitVec 8) (f : Fields) (h : Group) : Prop :=
  ∃ x, State.post? h k = some x ∧ (x.opc ≠ opc ∨ x.sub ≠ f.sub ∨ x.ty ≠ f.ty)

/-- A step of the workgroup has issued: CSTEP has risen by one, the contribution is posted with the group's PC, LIVE, EM and values, and the
trailer of the stroke will wait for the neighbours. Where the step of a neighbour differs, that one fails, and this one does if that neighbour
lives (R177, R179). -/
structure StepIssued (s t : State) (opc : BitVec 8) (f : Fields) (em : Mask) : Prop where
  count : t.g.cstep = s.g.cstep + 1
  post : ∃ p, t.g.posts = p :: s.g.posts ∧ p.k = s.g.cstep + 1 ∧ p.opc = opc ∧ p.sub = f.sub ∧ p.ty = f.ty ∧ p.pc = s.g.pc ∧
    p.live = s.g.live ∧ p.em = em ∧ p.done = false ∧
    (p.failed = true ↔ ∃ h ∈ s.neighbours s.g, Differs (s.g.cstep + 1) opc f h ∧ h.wait ≠ .ended)
  fails : ∀ h ∈ s.neighbours s.g, Differs (s.g.cstep + 1) opc f h →
    ∃ h', t.group? h.gid = some h' ∧ State.stepFails h' (s.g.cstep + 1) = true
  agrees : (∀ h ∈ s.neighbours s.g, ¬ Differs (s.g.cstep + 1) opc f h) → t.grps = s.grps
  others : t.grps.map (fun h => { h with posts := [] }) = s.grps.map fun h => { h with posts := [] }
  control : Advances s.g t.g
  steps : t.g.stroke.map (·.steps) = s.g.stroke.map (·.steps ++ [(s.g.cstep + 1, s.g.pc)])
  frame : t = { s with
    g := { s.g with cstep := t.g.cstep, posts := t.g.posts, pc := t.g.pc, stroke := t.g.stroke, deferred := t.g.deferred }
    grps := t.grps, nextId := t.nextId }

/-- The forms that take a step of the workgroup with a deferred result, and their opcodes. -/
def stepForms : List ((Fields → Instr) × BitVec 8) := [(.nbr, 0xA0), (.scan, 0xA1), (.red, 0xA2), (.vote, 0xA3)]

/-- The total of RED over the workgroup: the contributions of its groups in GRP order, lanes ascending (R185, R187). -/
def chainTotal (gs : List Group) (p : StepPost) : DWord × FlagSet :=
  gs.foldl (fun c g => match State.post? g p.k with
    | some x =>
      let r := foldOver (p.sub.extractLsb' 0 3).toNat x.ty x.sat c.1 (fun l => x.preds.getLsbD l) (fun l => x.vals.getD l 0) (lanesOf x.em)
      (r.1, c.2 ||| r.2)
    | none => c) (State.foldIdentity (p.sub.extractLsb' 0 3).toNat p.ty, 0)

/-- A group alone at the trailer of a regrouping step of its own: it and its neighbours have issued the step, no step of the stroke has failed,
and no result is in flight (R190, R193). -/
structure ReadyToMove (s : State) (st : Stroke) (p : StepPost) (k : Nat) : Prop where
  ready : s.g.wait = .ready
  stroke : s.g.stroke = some st
  tail : st.tail = .regroup k
  passed : s.stepsOpen s.g = false ∧ State.failedStep s.g = none
  post : State.post? s.g k = some p
  kind : p.opc = 0xA5#8 ∨ p.opc = 0xA6#8
  alone : p.sub.getLsbD 4 = false
  due : p.done = false
  issued : s.settled k s.g = true ∧ State.stepFails s.g k = false
  running : s.inCore s.g = true
  idle : s.g.deferred = []
  lanes : s.g.live ≠ 0 ∧ s.g.em = s.g.live

end Sys2Proof.Claims

open Sys2Proof Sys2Proof.Machine Sys2Proof.Claims

/-- NBR, SCAN, RED, VOTE and BCST within a group put their values in flight: the neighbour's A or the fill, the running fold, the total, the vote,
the broadcast (R40, R183, R185 to R189, Table 6-4). -/
def Obligations.GroupCrossLane : Prop :=
  (∀ f s q, Issues (.nbr f) f false false s q → f.sub.getLsbD 4 = false →
    ∃ t, exec (.nbr f) s = .next t ∧ PutInFlight s t (.nbr f) .cross (State.vWrites f.ty.is64 f.d.toNat q (neighbourValue s.g f) []) 0 none) ∧
  (∀ f s q, Issues (.scan f) f false false s q → f.sub.getLsbD 4 = false →
    ∃ t, exec (.scan f) s = .next t ∧ PutInFlight s t (.scan f) .cross (State.vWrites f.ty.is64 f.d.toNat q (scanValue s.g f q) [])
      (foldOver (foldCode f) f.ty f.sat (State.foldIdentity (foldCode f) f.ty) (segmentAt s.g f) (s.g.operand f.ty f.a) (lanesOf q)).2 none) ∧
  (∀ f s q r, Issues (.red f) f false false s q → f.sub.getLsbD 4 = false →
    r = foldOver (foldCode f) f.ty f.sat (State.foldIdentity (foldCode f) f.ty) (fun _ => false) (s.g.operand f.ty f.a) (lanesOf q) →
    ∃ t, exec (.red f) s = .next t ∧ PutInFlight s t (.red f) .cross (State.sWrites f.ty.is64 f.d.toNat r.1 []) r.2 none) ∧
  (∀ f s q, Issues (.vote f) f false false s q → f.sub.getLsbD 4 = false →
    ∃ t, exec (.vote f) s = .next t ∧
      PutInFlight s t (.vote f) .cross ((voteWords s.g f q).zipIdx.map fun x => .s (f.d.toNat + x.2) x.1 []) 0 none) ∧
  (∀ f s q, Issues (.bcst f) f false false s q →
    ∃ t, exec (.bcst f) s = .next t ∧ PutInFlight s t (.bcst f) .cross (State.vWrites f.ty.is64 f.d.toNat q (broadcastValue s.g f q) []) 0 none)

/-- The workgroup forms, RGRP and SRTK take the next step once the neighbours have issued the one before; until then the group stalls. RGRP and SRTK
trap unless the stack is empty and EM = LIVE, and NBR on an offset beyond a group (R177, R179, R180, R184, R190). -/
def Sys2Proof.Claims.StepsIssue : Prop :=
  (∀ e ∈ stepForms, ∀ f s q, Issues (e.1 f) f false false s q → f.sub.getLsbD 4 = true → s.neighboursIssued s.g s.g.cstep = true →
    (e.2 = 0xA0 → -96 ≤ s.g.nbrOffset f ∧ s.g.nbrOffset f ≤ 96) →
    ∃ t, exec (e.1 f) s = .next t ∧ StepIssued s t e.2 f (if e.2 = 0xA1 ∨ e.2 = 0xA2 then q else s.g.em) ∧ t.nextId = s.nextId + 1 ∧
      t.g.deferred = s.g.deferred ++ [⟨s.nextId, .cross, (e.1 f).writes, [], 0, [], some (s.g.cstep + 1), 0, []⟩]) ∧
  (∀ e ∈ stepForms, ∀ f s q, Issues (e.1 f) f false false s q → f.sub.getLsbD 4 = true → s.neighboursIssued s.g s.g.cstep = false →
    (e.2 = 0xA0 → -96 ≤ s.g.nbrOffset f ∧ s.g.nbrOffset f ≤ 96) → exec (e.1 f) s = .next s) ∧
  (∀ f s q, Issues (.nbr f) f false false s q → f.sub.getLsbD 4 = true → s.g.nbrOffset f < -96 ∨ 96 < s.g.nbrOffset f →
    exec (.nbr f) s = .next (s.trapHere 0x14 (some 0x21) none)) ∧
  (∀ f s q, Issues (.rgrp f) f false false s q → State.depth s.g = 0 → s.g.em = s.g.live → s.neighboursIssued s.g s.g.cstep = true →
    ∃ t, exec (.rgrp f) s = .next t ∧ StepIssued s t 0xA5 f s.g.em ∧ t.nextId = s.nextId ∧ t.g.deferred = s.g.deferred ∧
      t.g.stroke.map (·.tail) = s.g.stroke.map fun _ => .regroup (s.g.cstep + 1)) ∧
  (∀ f s q, Issues (.srtk f) f false false s q → State.depth s.g = 0 → s.g.em = s.g.live → s.neighboursIssued s.g s.g.cstep = true →
    s.g.intOperand true f.b 0 >>> s.g.launch.vregs = 0 →
    ∃ t, exec (.srtk f) s = .next t ∧ StepIssued s t 0xA6 f s.g.em ∧ t.nextId = s.nextId ∧ t.g.deferred = s.g.deferred ∧
      t.g.stroke.map (·.tail) = s.g.stroke.map fun _ => .regroup (s.g.cstep + 1)) ∧
  (∀ f s q, Issues (.rgrp f) f false false s q → State.depth s.g ≠ 0 ∨ s.g.em ≠ s.g.live →
    exec (.rgrp f) s = .next (s.trapHere 0x14 (some 0x22) none)) ∧
  (∀ f s q, Issues (.srtk f) f false false s q → State.depth s.g ≠ 0 ∨ s.g.em ≠ s.g.live →
    exec (.srtk f) s = .next (s.trapHere 0x14 (some 0x22) none))

/-- STEP_COMPLETE of a RED over the workgroup, once every group has issued the step: the destination of each group that took part holds the total
over the groups in GRP order, and is busy no longer (R40, R179, R180, R187). -/
def Sys2Proof.Claims.StepCompletes : Prop :=
  ∀ s wid k gs g d p, gs = s.chainGroups wid → (gs.map (·.gid)).Nodup → (∀ h ∈ gs, h.wid = wid) → g ∈ gs → RegistersPresent g →
    g.deferred.find? (·.step == some k) = some d → State.post? g k = some p → p.opc = 0xA2#8 → p.done = false → p.d + 1 < 60 →
    (∀ h ∈ gs, h.wait = .ended ∨ k ≤ h.cstep) →
    (∀ h ∈ gs, ∀ x, State.post? h k = some x → x.opc = p.opc ∧ x.sub = p.sub ∧ x.ty = p.ty ∧ x.failed = false) →
    ∃ t h, exec (.stepComplete wid k) s = .next t ∧ t.group? g.gid = some h ∧ (∀ x ∈ h.deferred, x.id ≠ d.id) ∧
      h.sget p.d = wordOf (chainTotal gs p).1 0 ∧ (p.ty.is64 = true → h.sget (p.d + 1) = wordOf (chainTotal gs p).1 1) ∧
      h.pc = g.pc ∧ h.v = g.v ∧ h.p = g.p ∧ MemorySame s t

/-- Steps of a workgroup: their issue, and the completion of a RED (R40, R177, R179, R180, R184, R187, R190). -/
def Obligations.StepsRun : Prop := Claims.StepsIssue ∧ Claims.StepCompletes

/-- RGRP and SRTK of one group move its threads when the trailer retires. RGRP packs the live lanes downwards; SRTK puts them in the order of their
keys, equal keys in lane order, and moves the V registers of its mask (R190 to R192). -/
def Obligations.RegroupMovesThreads : Prop :=
  (∀ tr s st p k, ReadyToMove s st p k → p.opc = 0xA5#8 →
    ∃ t, exec (.trl tr) s = .next t ∧ t.g.pc = s.g.pc + 1 ∧ t.g.stroke = none ∧ t.g.em = t.g.live ∧
      (∀ l, l < 96 → t.g.live.getLsbD l = decide (l < (lanesOf s.g.live).length)) ∧
      (∀ l src, (lanesOf s.g.live)[l]? = some src → t.g.thrd.getD l 0 = s.g.thrd.getD src 0 ∧
        (∀ r, r < s.g.v.length → t.g.vget r l = s.g.vget r src) ∧ (∀ r, r < 12 → (t.g.pget r).getLsbD l = (s.g.pget r).getLsbD src))) ∧
  (∀ tr s st p k, ReadyToMove s st p k → p.opc = 0xA6#8 →
    ∃ (t : State) (order : List Nat), exec (.trl tr) s = .next t ∧ t.g.pc = s.g.pc + 1 ∧ t.g.stroke = none ∧ t.g.em = s.g.em ∧ t.g.live = s.g.live ∧
      order.Perm (lanesOf s.g.live) ∧
      order.Pairwise (fun a b =>
        let ka := State.keyOrder p.ty (p.vals.getD a 0)
        let kb := State.keyOrder p.ty (p.vals.getD b 0)
        if p.sub.getLsbD 0 then kb < ka ∨ (ka = kb ∧ a < b) else ka < kb ∨ (ka = kb ∧ a < b)) ∧
      (∀ (i l src : Nat), (lanesOf s.g.live)[i]? = some l → order[i]? = some src → t.g.thrd.getD l 0 = s.g.thrd.getD src 0 ∧
        (∀ r, r < s.g.v.length → t.g.vget r l = s.g.vget r (if r < 64 ∧ p.vmask.getLsbD r = true then src else l)) ∧
        (∀ r, r < 12 → (t.g.pget r).getLsbD l = (s.g.pget r).getLsbD (if p.pmask.getLsbD r then src else l))))

namespace Sys2Proof.Claims

open Sys2Proof.Machine

/-! ## Queues -/

/-- A word of the parameter block in the S registers. -/
def param (s : State) (f : Fields) (k : Nat) : Nat := (s.g.sget (f.d.toNat + k)).toNat

/-- The queue that a QSUB or QRET names, in the issuing group's context on its core (R300). -/
def namedQueue (s : State) (q : Nat) : Queue := s.queueOf s.g.core s.g.ctx q

/-- A ring that R301 allows. -/
def RingAllowed (s : State) (f : Fields) : Prop :=
  param s f 0 % 256 = 0 ∧ param s f 1 % 256 = 0 ∧ 256 ≤ param s f 1 ∧ param s f 1 ≤ 65536 ∧ 1 ≤ param s f 2 ∧ param s f 2 ≤ 256 ∧
    param s f 0 + param s f 1 * param s f 2 ≤ s.scratchSize s.g.core

/-- A freshly configured queue (R301). -/
def newQueue (s : State) (f : Fields) (load : Bool) : Queue :=
  { Queue.initial s.g.core s.g.ctx f.x.toNat with
    state := if load then .load else .store, wasLoad := load, rb := param s f 0, ss := param s f 1, ns := param s f 2
    owner := s.g.launch.launch }

/-- A subscription that R302 allows. -/
def SubscriptionAllowed (s : State) (f : Fields) : Prop :=
  (s.g.sval true f.d.toNat).toNat % 64 = 0 ∧ param s f 2 % 64 = 0 ∧ 64 ≤ param s f 2 ∧ param s f 2 ≤ 1048576 ∧ 1 ≤ param s f 3 ∧
    param s f 3 ≤ 65536 ∧ (s.g.sval true (f.d.toNat + 4)).toInt % 64 = 0

/-- A cause 0x10 with its sub-code and queue (R298). -/
def engineError (s : State) (sub queue : Nat) : State := s.trapHere 0x10 (some (BitVec.ofNat 64 (sub + 256 * queue))) none

def Configures (make : Fields → Instr) (load : Bool) : Prop :=
  (∀ f s q, Issues (make f) f true false s q → (namedQueue s f.x.toNat).state = .unconfigured → RingAllowed s f →
    exec (make f) s = .next (skipped (s.setQueue (newQueue s f load)))) ∧
  (∀ f s q, Issues (make f) f true false s q → (namedQueue s f.x.toNat).state = .unconfigured → ¬RingAllowed s f →
    exec (make f) s = .next (engineError s 0x21 f.x.toNat)) ∧
  (∀ f s q, Issues (make f) f true false s q → (namedQueue s f.x.toNat).state = .load ∨ (namedQueue s f.x.toNat).state = .store →
    exec (make f) s = .next (engineError s 0x20 f.x.toNat)) ∧
  (∀ f s q, Issues (make f) f true false s q → (namedQueue s f.x.toNat).state = .error →
    exec (make f) s = .next (engineError s (namedQueue s f.x.toNat).err f.x.toNat))

/-! ## Commands -/

/-- A command has issued: it is outstanding with the group's privilege, context and PC, EC has risen by one, and nothing else has changed (R311). -/
def commandIssued (s : State) (kind : CommandKind) (counter : Word) : State :=
  skipped { s with
    nextId := s.nextId + 1
    fabric := { s.fabric with commands := s.fabric.commands ++
      [⟨s.nextId, s.g.gid, s.g.ctx, s.g.part, s.g.core, s.g.trapState.mode, s.g.pc, kind, counter, 0, 0, false, [], none, [], false⟩] }
    g := { s.g with ec := s.g.ec + 1 } }

/-- A counter that a command may name: none, or an aligned doubleword of the scratchpad. -/
def CounterAllowed (s : State) (c : Word) : Prop :=
  c = 0xFFFFFFFF ∨ (c.toNat % 8 = 0 ∧ c.toNat + 8 ≤ s.scratchSize s.g.core)

/-- Command-issue ordering lets the group's command go (R233, R236). -/
def CommandFree (s : State) : Prop := s.openReleases s.g = [] ∧ ∀ p ∈ s.stores, p.gid = s.g.gid → (∀ c, p.space ≠ .scr c) ∧ ∀ c, p.space ≠ .acc c

/-- The scratchpad of a running context lies in its core (R313, R381). -/
def InCore (s : State) (core : CoreId) (ctx : BitVec 32) : Prop := (s.coreAt core).regs.ctx = ctx ∧ (s.coreAt core).swap.exchange = []

/-- Bytes `data` stand at an offset of a space, and every other byte reads as before, but for some page entries (R203). -/
structure PlacedBytes (s t : State) (sp : Space) (off : Nat) (data : List Byte) (entries : List Nat) : Prop where
  placed : ∀ i (h : i < data.length), t.byteAt sp (off + i) = data[i]
  others : ∀ sp' o, o < 2 ^ 64 → (sp'.base ≠ sp.base ∨ o < off ∨ off + data.length ≤ o) → (sp' = .pool → o ∉ entries) → t.byteAt sp' o = s.byteAt sp' o

/-- Bytes of the next unit of a copy (R308). -/
def unitBytes (c : Command) (src dst len : Nat) : Nat :=
  min (min (256 - (src + c.progress) % 256) (256 - (dst + c.progress) % 256)) (len - c.progress)

/-- The next packet of a put (R315). -/
def nextPacket (s : State) (c : Command) (off len pkg : Nat) (dest : CoreId) (roff : Nat) (rcnt : BitVec 32) : FabricPacket :=
  let n := min (4096 - (roff + c.progress) % 4096) (len - c.progress)
  ⟨s.fabric.incarnation, s.peerInc pkg, BitVec.ofNat 12 s.pkg, c.part, c.ctx, dest, roff + c.progress,
    s.getScratch c.core c.ctx (off + c.progress) n, rcnt, some c.id, false, decide (len ≤ c.progress + n)⟩

/-- A contribution that a slot's open round has a place for (R317, R318). -/
structure Fits (x : RedSlot) (c : Contribution) : Prop where
  ctx : x.ctx = c.ctxid
  expected : x.expected.getLsbD c.index = true
  shape : x.op = c.op.toNat ∧ x.f32 = c.f32 ∧ x.n = c.n

/-- What a closing round gives each contributor: the folded elements padded to 16 bytes, the bitmap, and the status word (R318, R319). -/
def roundData (x : RedSlot) : List Byte :=
  let r := State.redResult x.op x.f32 x.n x.contribs
  let status := 256 * x.round.toNat + (if r.2 then 2 else 0) + (if x.bitmap ≠ x.expected then 1 else 0)
  State.pad16 r.1 ++ leBytes 8 x.bitmap.toNat ++ leBytes 8 (BitVec.ofNat 64 status).toNat

end Sys2Proof.Claims

open Sys2Proof Sys2Proof.Machine Sys2Proof.Claims

/-- QSUB and QRET: the checks and effects of configuring, subscribing, dropping and retiring sectors of a queue, with the sub-codes of cause
0x10 (R298, R300 to R302, R305 to R307). -/
def Obligations.QueueInstructions : Prop :=
  Configures .qsubCfgl true ∧ Configures .qsubCfgs false ∧
  (∀ f s q x, Issues (.qsubSub f) f true false s q → x = namedQueue s f.x.toNat → x.state = .load ∨ x.state = .store →
    SubscriptionAllowed s f → x.subs.length < 8 → CommandFree s →
    exec (.qsubSub f) s = .next (skipped (s.setQueue { x with
      subs := x.subs ++ [⟨s.g.sval true f.d.toNat, param s f 2, param s f 3, (s.g.sval true (f.d.toNat + 4)).toInt, x.send, s.g.trapState.mode⟩]
      send := x.send + param s f 2 * param s f 3 }))) ∧
  (∀ f s q x, Issues (.qsubSub f) f true false s q → x = namedQueue s f.x.toNat → x.state = .load ∨ x.state = .store →
    SubscriptionAllowed s f → 8 ≤ x.subs.length → exec (.qsubSub f) s = .next (s.waitOn .room)) ∧
  (∀ f s q x, Issues (.qsubSub f) f true false s q → x = namedQueue s f.x.toNat → x.state = .load ∨ x.state = .store →
    ¬SubscriptionAllowed s f → exec (.qsubSub f) s = .next (engineError s 0x22 x.q)) ∧
  (∀ f s q x, Issues (.qsubDrop f) f true false s q → x = namedQueue s f.x.toNat → x.state ≠ .unconfigured →
    (∀ a ∈ x.ahead, ∀ id ∈ a.2, ∀ p ∈ s.stores, p.id ≠ id) →
    exec (.qsubDrop f) s = .next (skipped (s.setQueue (Queue.initial s.g.core s.g.ctx f.x.toNat)))) ∧
  (∀ f s q, Issues (.qsubDrop f) f true false s q → (namedQueue s f.x.toNat).state = .unconfigured →
    exec (.qsubDrop f) s = .next (engineError s 0x20 f.x.toNat)) ∧
  (∀ f s q x n, Issues (.qret f) f true false s q → x = namedQueue s f.x.toNat → x.state = .load ∨ x.state = .store →
    n = (s.g.word f.a 0).toNat → 1 ≤ n → n ≤ 256 →
    x.gp + n * x.ss ≤ (if x.state = .load then x.wp else x.wp + x.ss * x.ns) → CommandFree s →
    exec (.qret f) s = .next (skipped (s.setQueue { x with gp := x.gp + n * x.ss }))) ∧
  (∀ f s q x n, Issues (.qret f) f true false s q → x = namedQueue s f.x.toNat → x.state = .load ∨ x.state = .store →
    n = (s.g.word f.a 0).toNat → n = 0 ∨ 256 < n ∨ (if x.state = .load then x.wp else x.wp + x.ss * x.ns) < x.gp + n * x.ss →
    exec (.qret f) s = .next (engineError s 0x23 x.q))

/-- LOADER_SECTOR_WRITE brings a sector into the ring and WP passes it when it is the next; STORER_SECTOR_WRITE sends a sector's bytes into the
store path, and once they are performed WP passes them (R209, R303, R304). -/
def Obligations.QueueControllersMove : Prop :=
  (∀ s core x u l o q, MemoryCanonical s → s.activeQueue core q o = some x → x.state = .load → x.core = core → x.covering o = some u → o = x.wp →
    o + 64 ≤ x.gp + x.ringBytes → x.ahead = [] →
    s.engineLoc (s.ctxRegs core x.ctx) u.super .engineRead (u.va o) = .ok l → s.engineBad l l.off 64 = false → InCore s core x.ctx →
    x.ringOff o + 64 ≤ 2 ^ 64 → (∀ a ∈ pageEntries [l], a < l.off ∨ l.off + 64 ≤ a) →
    ∃ t y, exec (.loaderSectorWrite core q o) s = .next t ∧
      PlacedBytes s t (.scr core) (x.ringOff o) (s.engineRead l l.off 64) (pageEntries [l]) ∧
      t.fabric.queues.find? (fun y => y.core == core && y.ctx == x.ctx && y.q == x.q) = some y ∧ y.wp = x.wp + 64 ∧ y.gp = x.gp ∧ y.ahead = [] ∧
      t.groups = s.groups ∧ t.stores = s.stores) ∧
  (∀ s core x u l o q, s.activeQueue core q o = some x → x.state = .store → s.storedSector core q o = none → x.covering o = some u → x.wp ≤ o →
    (∀ a ∈ x.ahead, a.1 ≠ o) → o + 64 ≤ x.gp → s.engineLoc (s.ctxRegs core x.ctx) u.super .engineWrite (u.va o) = .ok l →
    (∀ i, i < 64 → s.poisoned (s.scratchAt core x.ctx (x.ringOff o)).1 ((s.scratchAt core x.ctx (x.ringOff o)).2 + i) = false) →
    ∃ t p, exec (.storerSectorWrite core q o) s = .next t ∧ t.stores = s.stores ++ [p] ∧ p.space = l.space ∧ p.off = l.off ∧ p.size = 64 ∧
      (∃ d, p.effect = .write d ∧ d.length = 64 ∧ (InCore s core x.ctx → d = s.bytesAt (.scr core) (x.ringOff o) 64)) ∧
      t.groups = s.groups ∧
      (∀ sp a, (sp = .pool → a ∉ pageEntries [l]) → t.byteAt sp a = s.byteAt sp a)) ∧
  (∀ s core x o q ids, s.storedSector core q o = some x → x.ahead = [(o, ids)] → x.wp = o → (∀ id ∈ ids, ∀ p ∈ s.stores, p.id ≠ id) →
    ∃ t y, exec (.storerSectorWrite core q o) s = .next t ∧
      t.fabric.queues.find? (fun y => y.core == core && y.ctx == x.ctx && y.q == x.q) = some y ∧ y.wp = o + 64 ∧ y.gp = x.gp ∧ y.ahead = [] ∧
      t.groups = s.groups ∧ t.stores = s.stores ∧ MemorySame s t) ∧
  (∀ s core q o, s.activeQueue core q o = none → exec (.loaderSectorWrite core q o) s = .next s ∧
    (s.storedSector core q o = none → exec (.storerSectorWrite core q o) s = .next s))

/-- The commands of CPY, CPYT, XPUT, XGET and XRED become outstanding when their parameters pass, and raise EC; a bad parameter takes cause 0x10; at
EC = 32 the group waits; and EWT waits for EC to fall (R298, R308, R309, R311, R312, R314, R317). -/
def Obligations.CommandsIssue : Prop :=
  (∀ f s q ss ds, Issues (.cpy f) f true false s q → ss = (f.sub.extractLsb' 0 2).toNat → ds = (f.sub.extractLsb' 2 2).toNat →
    param s f 4 % 4 = 0 → 4 ≤ param s f 4 → param s f 4 ≤ 2 ^ 31 →
    s.copySideOk s.g.core ss (s.g.sval true f.d.toNat).toNat (param s f 4) = true →
    s.copySideOk s.g.core ds (s.g.sval true (f.d.toNat + 2)).toNat (param s f 4) = true → CounterAllowed s (s.g.sget (f.d.toNat + 5)) →
    s.g.ec < 32 → CommandFree s →
    exec (.cpy f) s = .next (commandIssued s
      (.copy (s.g.sval true f.d.toNat).toNat ss (s.g.sval true (f.d.toNat + 2)).toNat ds (param s f 4)) (s.g.sget (f.d.toNat + 5)))) ∧
  (∀ f s q, Issues (.cpy f) f true false s q → param s f 4 % 4 ≠ 0 ∨ param s f 4 < 4 ∨ 2 ^ 31 < param s f 4 →
    exec (.cpy f) s = .next (engineError s 0x26 0xFF)) ∧
  (∀ f s q a b, Issues (.cpyt f) f true false s q → param s f 0 % 128 = 0 → param s f 0 + 256 ≤ s.scratchSize s.g.core →
    CounterAllowed s (s.g.sget (f.d.toNat + 1)) →
    a = BitVec.ofNat 1024 (leNat (s.getScratch s.g.core s.g.ctx (param s f 0) 128)) →
    b = BitVec.ofNat 1024 (leNat (s.getScratch s.g.core s.g.ctx (param s f 0 + 128) 128)) →
    Tsr.valid a = true → Tsr.valid b = true → Tsr.elem a = Tsr.elem b → Tsr.boxR a = Tsr.boxR b → Tsr.boxC a = Tsr.boxC b →
    Tsr.is4bit a = false ∨ (Tsr.dir a = false ∧ Tsr.dir b = false) → s.g.ec < 32 → CommandFree s →
    exec (.cpyt f) s = .next (commandIssued s (.copyT a b) (s.g.sget (f.d.toNat + 1)))) ∧
  (∀ f s q, Issues (.xput f) f true false s q → param s f 1 % 16 = 0 → 16 ≤ param s f 1 → param s f 1 ≤ 16777216 → param s f 0 % 16 = 0 →
    param s f 3 % 16 = 0 → s.g.sget (f.d.toNat + 4) = 0xFFFFFFFF ∨ param s f 4 % 8 = 0 →
    param s f 0 + param s f 1 ≤ s.scratchSize s.g.core → param s f 2 % 4096 < s.podPackages → param s f 2 / 32768 % 64 < 48 →
    param s f 2 / 2097152 = 0 → s.g.ec < 32 → CommandFree s →
    exec (.xput f) s = .next (commandIssued s (.put (param s f 0) (param s f 1) (param s f 2 % 4096)
      ⟨param s f 2 / 4096 % 8, param s f 2 / 32768 % 64⟩ (param s f 3) (s.g.sget (f.d.toNat + 4))) 0xFFFFFFFF)) ∧
  (∀ f s q, Issues (.xget f) f true false s q → param s f 1 % 16 = 0 → 16 ≤ param s f 1 → param s f 1 ≤ 16777216 → param s f 0 % 16 = 0 →
    param s f 3 % 16 = 0 → CounterAllowed s (s.g.sget (f.d.toNat + 4)) →
    param s f 3 + param s f 1 ≤ s.scratchSize s.g.core → param s f 2 % 4096 < s.podPackages → param s f 2 / 32768 % 64 < 48 →
    param s f 2 / 2097152 = 0 → s.g.ec < 32 → CommandFree s →
    exec (.xget f) s = .next (commandIssued s (.get (param s f 0) (param s f 1) (param s f 2 % 4096)
      ⟨param s f 2 / 4096 % 8, param s f 2 / 32768 % 64⟩ (param s f 3)) (s.g.sget (f.d.toNat + 4)))) ∧
  (∀ f s q n bytes, Issues (.xred f) f true false s q → n = param s f 6 → bytes = n * (if f.ty = .f32 then 4 else 2) → 1 ≤ n → n ≤ 128 →
    param s f 0 / 65536 % 256 ≤ 63 → param s f 1 % 16 = 0 → param s f 2 % 16 = 0 → param s f 1 + bytes ≤ s.scratchSize s.g.core →
    param s f 2 + ((bytes + 15) / 16 * 16 + 16) ≤ s.scratchSize s.g.core → CounterAllowed s (s.g.sget (f.d.toNat + 3)) →
    s.g.ec < 32 → CommandFree s →
    exec (.xred f) s = .next (commandIssued s (.red (param s f 0 % 65536) (param s f 0 / 65536 % 256) (param s f 0 / 16777216) (param s f 1)
      (param s f 2) (s.g.sval true (f.d.toNat + 4)).toNat n (f.sub.extractLsb' 0 2).toNat (f.ty == .f32)) (s.g.sget (f.d.toNat + 3)))) ∧
  (∀ f s q, Issues (.xput f) f true false s q → param s f 1 % 16 ≠ 0 ∨ param s f 1 < 16 ∨ 16777216 < param s f 1 →
    exec (.xput f) s = .next (engineError s 0x2B 0xFF)) ∧
  (∀ (s : State) (i : Instr) (kind : CommandKind) (c : Word), 32 ≤ s.g.ec → s.issueCommand i kind c = s.waitOn .ec) ∧
  (∀ f s q, Issues (.ewt f) f true false s q → s.g.ec ≤ (s.g.word f.a 0).toNat → exec (.ewt f) s = .next (skipped s)) ∧
  (∀ f s q, Issues (.ewt f) f true false s q → (s.g.word f.a 0).toNat < s.g.ec →
    exec (.ewt f) s = .next (s.waitOn (.ewt (s.g.word f.a 0).toNat)))

/-- The copy engine and the gateways move the next unit of a command: COPY_COMPLETE moves at most 256 bytes and ends the command after the last,
LOCAL_COMPLETION sends a packet, and packets and requests that arrive are performed in the order of R315 and R316. -/
def Obligations.CommandsMove : Prop :=
  (∀ s c k src ss dst ds len n a b, MemoryCanonical s → s.command? k = some c → c.kind = .copy src ss dst ds len → c.moved = false →
    s.copyRuns c = true → s.windowTarget c ds dst len = none → n = unitBytes c src dst len →
    s.copyLoc c ss (src + c.progress) n .engineRead = .ok a → s.engineBad a a.off n = false →
    s.copyLoc c ds (dst + c.progress) n .engineWrite = .ok b → b.leaf = none → b.off + n ≤ 2 ^ 64 →
    ∃ t, exec (.copyComplete k) s = .next t ∧ PlacedBytes s t b.space b.off (s.engineRead a a.off n) (pageEntries [a]) ∧
      t.command? k = some { c with progress := c.progress + n, written := c.written + n, moved := decide (len ≤ c.progress + n) } ∧
      t.groups = s.groups ∧ t.stores = s.stores) ∧
  (∀ s c k src ss dst ds len n a b leaf, s.command? k = some c → c.kind = .copy src ss dst ds len → c.moved = false →
    s.copyRuns c = true → s.windowTarget c ds dst len = none → n = unitBytes c src dst len →
    s.copyLoc c ss (src + c.progress) n .engineRead = .ok a → s.engineBad a a.off n = false →
    s.copyLoc c ds (dst + c.progress) n .engineWrite = .ok b → b.leaf = some leaf →
    ∃ t, exec (.copyComplete k) s = .next t ∧
      t.stores = s.stores ++ [⟨s.nextId, ⟨c.core.die, 64⟩, 0, b.space, b.off, (s.engineRead a a.off n).length, .write (s.engineRead a a.off n), [],
        if b.emit then some (c.ctx, s.gateOf c.core.die c.ctx) else none, none⟩] ∧
      t.command? k = some { c with
        progress := c.progress + n, written := c.written + n, moved := decide (len ≤ c.progress + n), writes := c.writes ++ [s.nextId] } ∧
      t.groups = s.groups ∧ (∀ sp o, (sp = .pool → o ∉ pageEntries [a, b]) → t.byteAt sp o = s.byteAt sp o)) ∧
  (∀ s c k src ss dst ds len, s.command? k = some c → c.kind = .copy src ss dst ds len → c.moved = true →
    (∀ id ∈ c.writes, ∀ p ∈ s.stores, p.id ≠ id) →
    ∃ t, exec (.copyComplete k) s = .next t ∧ t.command? k = none ∧ t.stores = s.stores ∧ (c.counter = 0xFFFFFFFF → MemorySame s t) ∧
      ∀ g, s.group? c.gid = some g → ∃ h, t.group? c.gid = some h ∧ h = { g with ec := g.ec - 1 }) ∧
  (∀ s c k off len pkg dest roff rcnt p, s.command? k = some c → c.id = k → c.kind = .put off len pkg dest roff rcnt → c.local_ = false →
    s.sendBlocked c pkg dest = false → p = nextPacket s c off len pkg dest roff rcnt →
    s.scratchBad c.core c.ctx (off + c.progress) p.data.length = false → pkg = s.pkg →
    ∃ t, exec (.localCompletion k) s = .next t ∧ t.fabric.flight = s.fabric.flight ++ [⟨c.core.die, .inl p, some k⟩] ∧ MemorySame s t ∧
      t.command? k = some { c with progress := c.progress + p.data.length, local_ := p.last } ∧
      ∀ g, s.group? c.gid = some g → ∃ h, t.group? c.gid = some h ∧ h = { g with ec := if p.last then g.ec - 1 else g.ec }) ∧
  (∀ s pk f rest, MemoryCanonical s → State.findFlight (.inl pk) [] s.fabric.flight = some (f, rest) → s.fresh? (State.packetFrom pk) = true →
    pk.response = false → pk.cnt = 0xFFFFFFFF → s.farOk pk.dst pk.ctxid pk.part pk.off pk.data.length = true → InCore s pk.dst pk.ctxid →
    pk.off + pk.data.length ≤ 2 ^ 64 →
    ∃ t, exec (.fabricPacketArrival (.data pk)) s = .next t ∧ PlacedBytes s t (.scr pk.dst) pk.off pk.data [] ∧ t.fabric.flight = rest ∧ t.groups = s.groups) ∧
  (∀ s pk f rest c id roff len pkg src off, MemoryCanonical s → State.findFlight (.inl pk) [] s.fabric.flight = some (f, rest) →
    s.fresh? (State.packetFrom pk) = true → pk.response = true → pk.tag = some id → s.command? id = some c → c.kind = .get roff len pkg src off →
    off ≤ pk.off → pk.off + pk.data.length ≤ off + len → c.counter = 0xFFFFFFFF → InCore s c.core c.ctx → off + len ≤ 2 ^ 64 →
    ∃ t, exec (.fabricPacketArrival (.data pk)) s = .next t ∧ PlacedBytes s t (.scr c.core) pk.off pk.data [] ∧ t.fabric.flight = rest ∧
      t.command? id = (if len ≤ c.progress + pk.data.length then none else some { c with progress := c.progress + pk.data.length }) ∧
      ∀ g, s.group? c.gid = some g → ∃ h, t.group? c.gid = some h ∧
        h = { g with ec := if len ≤ c.progress + pk.data.length then g.ec - 1 else g.ec }) ∧
  (∀ s pk f rest, State.findFlight (.inl pk) [] s.fabric.flight = some (f, rest) → s.fresh? (State.packetFrom pk) = false →
    ∃ t, exec (.fabricPacketArrival (.data pk)) s = .next t ∧ MemorySame s t ∧ t.groups = s.groups ∧
      t.fabric.stale = s.fabric.stale.set pk.dst.die (s.fabric.stale.getD pk.dst.die 0 + 1)) ∧
  (∀ s r f rest, State.findFlight (.inr r) [] s.fabric.flight = some (f, rest) →
    s.fresh? (State.requestFrom r) = true → s.farOk r.src r.ctxid r.part r.off r.len = true → s.scratchBad r.src r.ctxid r.off r.len = false →
    r.spkg.toNat = s.pkg → 16 ≤ r.len →
    ∃ (t : State) (ps : List FabricPacket), exec (.xgetRequestArrival r) s = .next t ∧
      t.fabric.flight = rest ++ (ps.map fun p => ⟨r.src.die, .inl p, f.cmd⟩) ∧
      (ps.flatMap fun p => p.data) = s.getScratch r.src r.ctxid r.off r.len ∧
      (∀ p ∈ ps, p.tag = some r.tag ∧ p.response = true ∧ p.dst = r.dest ∧ p.data.length ≤ 4096) ∧ MemorySame s t ∧ t.groups = s.groups)

/-- A contribution reaches its switch in state `u`: another package's, or one that a command of this package has sent, which is marked (R317). -/
def Sys2Proof.Claims.Reaches (s : State) (c : Contribution) (u : State) : Prop :=
  (c.from_.spkg.toNat ≠ s.pkg ∧ u = s) ∨
  (c.from_ = s.stamp s.pkg ∧ c.from_.spkg.toNat = s.pkg ∧ ∃ k off res, s.command? c.tag = some k ∧ k.local_ = true ∧ k.moved = false ∧
    k.kind = .red c.slot c.index c.round.toNat off res c.deadline.toNat c.n c.op.toNat c.f32 ∧ k.ctx = c.ctxid ∧ k.payload = c.data ∧
    u = s.modCommand c.tag fun k => { k with moved := true })

/-- What a late contributor gets: the bitmap and status of the latest closed round, with LATE set (R320). -/
def Sys2Proof.Claims.lateData (x : RedSlot) : List Byte := leBytes 8 x.lastBitmap.toNat ++ leBytes 8 (x.lastStatus ||| 4).toNat

/-- A contribution joins its open round once, is counted when it is there already, is late for a round that is over, and is dropped and counted
when it is of another incarnation (R317, R318, R320, R321). -/
def Sys2Proof.Claims.ContributionsArrive : Prop :=
  (∀ s u x c, Reaches s c u → s.fresh? c.from_ = true → s.slotAt c.slot = some x → Fits x c → c.round = x.round → x.open_ = true →
    x.bitmap.getLsbD c.index = false → (x.bitmap ||| ((1 : BitVec 64) <<< c.index)) &&& x.expected ≠ x.expected → s.dtime < x.deadline →
    exec (.xredContributionArrival c) s =
      .next (u.setSlot { x with bitmap := x.bitmap ||| ((1 : BitVec 64) <<< c.index), contribs := x.contribs ++ [c] })) ∧
  (∀ s u x c, Reaches s c u → s.fresh? c.from_ = true → s.slotAt c.slot = some x → Fits x c → c.round = x.round → x.open_ = true →
    x.bitmap.getLsbD c.index = true → s.dtime < x.deadline →
    exec (.xredContributionArrival c) s = .next (
      let t := u.setSlot { x with dups := x.dups + 1 }
      if c.from_.spkg.toNat = s.pkg then t.dropCommand c.tag else t)) ∧
  (∀ s u x c, Reaches s c u → s.fresh? c.from_ = true → s.slotAt c.slot = some x → Fits x c → c.round = x.round → x.open_ = false →
    c.from_.spkg.toNat = s.pkg →
    exec (.xredContributionArrival c) s =
      .next { u with fabric := { u.fabric with results := u.fabric.results ++ [⟨c.tag, lateData x, true⟩] } }) ∧
  (∀ s u c, Reaches s c u → s.fresh? c.from_ = false →
    exec (.xredContributionArrival c) s =
      .next { u with fabric := { u.fabric with stale := u.fabric.stale.set 8 (u.fabric.stale.getD 8 0 + 1) } })

/-- A round closes at its deadline and owes each contributor the fold, the bitmap and the status; the result lands in its area (R318 to R320). -/
def Sys2Proof.Claims.RoundsClose : Prop :=
  (∀ (s : State) (x : RedSlot) (slot : Nat), s.slotAt slot = some x → x.open_ = true → x.deadline ≤ s.dtime →
    (∀ c ∈ x.contribs, c.from_.spkg.toNat = s.pkg) →
    ∃ t y, exec (.xredRoundDeadline slot) s = .next t ∧ t.slotAt slot = some y ∧ y.open_ = false ∧ y.contribs = [] ∧ y.lastBitmap = x.bitmap ∧
      t.fabric.results = s.fabric.results ++ x.contribs.map fun c => ⟨c.tag, roundData x, false⟩) ∧
  (∀ s x slot, s.slotAt slot = some x → s.dtime < x.deadline ∨ x.open_ = false → exec (.xredRoundDeadline slot) s = .next s) ∧
  (∀ s r c k slot index round off res dl n op f32, MemoryCanonical s → s.fabric.results[k]? = some r → s.command? r.cmd = some c →
    c.kind = .red slot index round off res dl n op f32 → c.counter = 0xFFFFFFFF → InCore s c.core c.ctx → res + r.data.length ≤ 2 ^ 64 →
    ∃ t, exec (.xredResultDelivery k) s = .next t ∧ PlacedBytes s t (.scr c.core) res r.data [] ∧ t.command? c.id = none ∧
      t.fabric.results = s.fabric.results.eraseIdx k ∧ t.groups = s.groups)

/-- Whether a flit checks out under a loaded key of its link (R322, R323). -/
def Sys2Proof.Claims.GoodFlit (l : Link) (fl : Flit) : Prop := fl.authentic = true ∧ (l.keys.getD (if fl.kg then 1 else 0) none).isSome = true

/-- Flits count in order, eight failures in a row retrain the link and what the replay buffer holds is sent again, and a key is loaded and used only
when the old one is no longer needed. The package has 36 ports (R13, R322, R323, Table 15-5). Whether a received flit asks for a retry of what this
package has sent is free: the model's reading (log entry 17). -/
def Sys2Proof.Claims.LinksRun : Prop :=
  (∀ s port fl, port < 36 → ¬GoodFlit (s.linkAt port) fl → (s.linkAt port).failures + 1 < 8 →
    exec (.flitReceive port fl) s = .next (s.setLink { s.linkAt port with failures := (s.linkAt port).failures + 1 })) ∧
  (∀ s port fl, port < 36 → ¬GoodFlit (s.linkAt port) fl → 8 ≤ (s.linkAt port).failures + 1 →
    exec (.flitReceive port fl) s = exec (.linkRetrain port) s) ∧
  (∀ s port fl, port < 36 → GoodFlit (s.linkAt port) fl → fl.fseq ≠ (s.linkAt port).rxNext → exec (.flitReceive port fl) s = .next s) ∧
  (∀ s port fl, port < 36 → GoodFlit (s.linkAt port) fl → fl.fseq = (s.linkAt port).rxNext → (∀ i, i < 9 → fl.smap (i + 1) = 0) →
    let l := { s.linkAt port with
      failures := 0, rxNext := (s.linkAt port).rxNext + 1
      unacked := (s.linkAt port).unacked.filter fun u => (fl.ackseq - u.fseq).getLsbD 15 }
    ∃ t, exec (.flitReceive port fl) s = .next t ∧ (l.unacked = [] → t = s.setLink l) ∧
      (∃ out n, t = { s.setLink l with free := n, fabric := { (s.setLink l).fabric with outbound := s.fabric.outbound ++ out } } ∧
        (out = [] ∨ out = l.unacked.map (State.flitOut l)))) ∧
  (∀ s port, port < 36 → ∃ t, exec (.linkRetrain port) s = .next t ∧ MemorySame s t ∧ t.groups = s.groups ∧
    t.fabric.links = (s.setLink { s.linkAt port with failures := 0, retrains := (s.linkAt port).retrains + 1 }).fabric.links ∧
    t.fabric.outbound = s.fabric.outbound ++ (s.linkAt port).unacked.map (State.flitOut (s.linkAt port)) ∧
    (port, saturated (((s.host.life.retrains.find? (·.1 == port)).map (·.2)).getD 0) 1) ∈ t.host.life.retrains) ∧
  (∀ s port key, port < 36 → (∃ u ∈ (s.linkAt port).unacked, u.kg ≠ (s.linkAt port).gen) →
    exec (.linkKeyLoad port key) s = .next (s.setLink { s.linkAt port with refused := true }) ∧
    exec (.linkKeySwitch port) s = .next (s.setLink { s.linkAt port with refused := true })) ∧
  (∀ s port key, port < 36 → (∀ u ∈ (s.linkAt port).unacked, u.kg = (s.linkAt port).gen) →
    exec (.linkKeyLoad port key) s = .next (s.setLink { s.linkAt port with
      keys := (s.linkAt port).keys.set (if (s.linkAt port).gen then 0 else 1) (some key), refused := false })) ∧
  (∀ s port, port < 36 → (∀ u ∈ (s.linkAt port).unacked, u.kg = (s.linkAt port).gen) →
    exec (.linkKeySwitch port) s = .next (
      if ((s.linkAt port).keys.getD (if (s.linkAt port).gen then 0 else 1) none).isSome then
        (s.setLink { s.linkAt port with gen := !(s.linkAt port).gen }).sendHeld else s)) ∧
  (∀ s port fl key, 36 ≤ port → exec (.flitReceive port fl) s = .next s ∧ exec (.linkRetrain port) s = .next s ∧
    exec (.linkKeyLoad port key) s = .next s ∧ exec (.linkKeySwitch port) s = .next s)

/-- Reductions and links: a contribution joins its open round, a round closes at its deadline and owes each contributor the fold, the bitmap and the
status, the result lands in its area; flits count in order, and a key is loaded and used only when the old one is no longer needed (R13, R317 to
R323). The model's choice: a contribution of another incarnation is counted for the host die's gateway, and a duplicate once for each packet (log
entry 78); whether a received flit asks for a retry is free (log entry 17). -/
def Obligations.ReductionsAndLinks : Prop := Claims.ContributionsArrive ∧ Claims.RoundsClose ∧ Claims.LinksRun

namespace Sys2Proof.Claims

open Sys2Proof.Machine

/-! ## Tasks -/

/-- The task unit of the issuing group's context on its die. -/
def unitOf (s : State) : TaskUnit := s.taskUnit s.g.core.die s.g.ctx

/-- The next task identifier of a launch on a die (R327). -/
def nextTask (s : State) (die : Nat) (ctx : BitVec 32) (launch : Nat) : Word :=
  (((s.taskUnit die ctx).ids.find? (·.1 == launch)).map (·.2)).getD 0

/-- What TSPN's parameter block allows: 1 to 96 lanes and a counter that may be named (R329, R348). -/
def SpawnAllowed (s : State) (f : Fields) : Prop :=
  1 ≤ param s f 4 ∧ param s f 4 ≤ 96 ∧ CounterAllowed s (s.g.sget (f.d.toNat + 5))

/-- The task that TSPN spawns outside a task (R348). -/
def spawnOf (s : State) (f : Fields) : Spawn :=
  ⟨nextTask s s.g.core.die s.g.ctx s.g.launch.launch, s.g.sval true f.d.toNat, s.g.sval true (f.d.toNat + 2), param s f 4, s.g.core,
    s.g.sget (f.d.toNat + 5), 0, [], { s.g.launch with groups := 1 }, s.g.part, s.nextId⟩

/-- The issuing group's buffer has grown by some entries, and the instruction did nothing else (R329, R330). -/
def Buffered (s t : State) (tk : Task) (es : List BufEntry) : Prop :=
  Advances s.g t.g ∧ t.g.task = some { tk with buffer := tk.buffer ++ es } ∧
    t = { s with g := { s.g with task := t.g.task, pc := t.g.pc, stroke := t.g.stroke } }

/-- A group that may suspend: a task with an empty stack and EM = LIVE, keeping fewer V registers than it has (R333). -/
def MaySuspend (s : State) (f : Fields) : Prop :=
  State.depth s.g = 0 ∧ s.g.em = s.g.live ∧ (f.x.extractLsb' 0 5).toNat < s.g.launch.vregs

/-- A task group at its first instruction, for the check of its entry. -/
def taskGroup (c : CoreId) (ctx : BitVec 32) (super : Bool) : Group :=
  { Group.initial with core := c, ctx := ctx, trapState := { Group.initial.trapState with mode := super } }

/-! ## Slalom -/

def setNumber (f : Fields) : Nat := (f.x.extractLsb' 0 4).toNat

/-- A set of the issuing group's context on its die. -/
def setOf? (s : State) (k : Nat) : Option SlalomSet := s.slalom? s.g.core.die s.g.ctx k

/-- The 320 bytes of a descriptor as a load of its five lines gives them (R337). -/
def descriptorBits (s : State) (locs : List Loc) : BitVec 2560 :=
  BitVec.ofNat 2560 (leNat (locs.flatMap fun l => (List.range 8).flatMap fun i => leBytes 8 (s.readElem s.g none false l (l.off + 8 * i) 8).toNat))

/-- A cause 0x15 with its set and code (Table 11-8). -/
def slalomError (s : State) (set code : Nat) : State := s.trapHere 0x15 (some (BitVec.ofNat 64 (code + 256 * set))) none

/-- The lanes that an AE instruction of chapter 11 takes: EM, or EM and its predicate (R347). -/
def predicatedLanes (g : Group) (f : Fields) : Mask :=
  match f.a with
  | .p k => g.em &&& (if f.na then ~~~(g.pget k.toNat) else g.pget k.toNat)
  | _ => g.em

/-- What SLPS and SLDP do to the outcomes of a batch: the named lanes get the outcome, and with .upd their new payload (R343, R352). -/
def givenRun (g : Group) (f : Fields) (r : StageRun) (m : Mask) (pass upd : Bool) : StageRun :=
  { r with
    outcome := (List.range r.recs.length).map fun l => if m.getLsbD l then some pass else r.outcome.getD l none
    upd := (List.range r.recs.length).map fun l => if upd && m.getLsbD l then some (g.vval true f.d.toNat l) else r.upd.getD l none }

end Sys2Proof.Claims

open Sys2Proof Sys2Proof.Machine Sys2Proof.Claims

/-- TSPN spawns, or in a task buffers, its task; TSUS goes on when its condition holds and suspends otherwise; TEND leaves the retirement to the
trailer; each traps as R298 says outside its rules (R329, R330, R333, R348 to R350). The model's reading: TSUS takes the lowest free slot (log
entry 94), its checks come in the order of log entry 62, and a commit waits for room (log entry 24). -/
def Obligations.TasksIssue : Prop :=
  (∀ f s q, Issues (.tspn f) f true false s q → s.g.task = none → SpawnAllowed s f → CommandFree s → (unitOf s).spawned.length < 4096 →
    ∃ t, exec (.tspn f) s = .next t ∧ Advances s.g t.g ∧ MemorySame s t ∧ t.g = { s.g with pc := t.g.pc, stroke := t.g.stroke } ∧
      (t.taskUnit s.g.core.die s.g.ctx).spawned = (unitOf s).spawned ++ [spawnOf s f] ∧
      nextTask t s.g.core.die s.g.ctx s.g.launch.launch = nextTask s s.g.core.die s.g.ctx s.g.launch.launch + 1 ∧
      t = { s with g := t.g, tasks := t.tasks, nextId := s.nextId + 1 }) ∧
  (∀ f s q, Issues (.tspn f) f true false s q → s.g.task = none → SpawnAllowed s f → CommandFree s → 4096 ≤ (unitOf s).spawned.length →
    exec (.tspn f) s = .next (s.waitOn .room)) ∧
  (∀ f s q tk, Issues (.tspn f) f true false s q → s.g.task = some tk → tk.stage = none → SpawnAllowed s f → BufEntry.count tk.buffer < 128 →
    ∃ t, exec (.tspn f) s = .next t ∧
      Buffered s t tk [⟨3, 0xFF, 0, 0, .scr s.g.core, 0, false, [], 0, .n8, 0, (List.range 6).map fun i => s.g.sget (f.d.toNat + i),
        false, false, none⟩]) ∧
  (∀ f s q tk, Issues (.tspn f) f true false s q → s.g.task = some tk → tk.stage = none → SpawnAllowed s f → 128 ≤ BufEntry.count tk.buffer →
    exec (.tspn f) s = .next (engineError s 0x32 0xFF)) ∧
  (∀ f s q, Issues (.tspn f) f true false s q → s.g.task = none → param s f 4 = 0 ∨ 96 < param s f 4 →
    exec (.tspn f) s = .next (engineError s 0x30 0xFF)) ∧
  (∀ f s q r, Issues (.tspn f) f true false s q → s.g.task.bind (·.stage) = some r → exec (.tspn f) s = .next (slalomError s r.set 0x06)) ∧
  (∀ f s q, Issues (.tsus f) f true false s q → s.g.task = none → exec (.tsus f) s = .next (engineError s 0x33 0xFF)) ∧
  (∀ f s q, Issues (.tsus f) f true false s q → s.g.task.isSome = true → ¬MaySuspend s f → exec (.tsus f) s = .next (engineError s 0x31 0xFF)) ∧
  (∀ f s q, Issues (.tsus f) f true false s q → s.g.task.isSome = true → MaySuspend s f → f.sub.extractLsb' 0 2 = 0#2 → s.g.ec = 0 →
    exec (.tsus f) s = .next (awaiting s .none)) ∧
  (∀ f s q slot, Issues (.tsus f) f true false s q → s.g.task.isSome = true → MaySuspend s f → f.sub.extractLsb' 0 2 = 0#2 → s.g.ec ≠ 0 →
    MayEnter s (s.g.pc + 2) → slot < (unitOf s).areaSlots → (∀ c ∈ (unitOf s).contins, c.slot ≠ slot) →
    (∀ k, k < slot → ∃ c ∈ (unitOf s).contins, c.slot = k) →
    ∃ t, exec (.tsus f) s = .next t ∧ MemorySame s t ∧ t.g = (awaiting s (.tsus 0 slot (f.x.extractLsb' 0 5).toNat)).g ∧
      (t.taskUnit s.g.core.die s.g.ctx).contins = (unitOf s).contins ++
        [⟨slot, s.g.gid, 0, 0, 0, f.sub.getLsbD 2, s.g.core, (f.x.extractLsb' 0 5).toNat, false⟩]) ∧
  (∀ f s q kind loc, Issues (.tsus f) f true false s q → s.g.task.isSome = true → MaySuspend s f → kind = (f.sub.extractLsb' 0 2).toNat →
    kind = 1 ∨ kind = 2 →
    s.checkAccess s.g (if kind = 1 then .scr else .vlt) .load true 8 ((s.g.sget (f.d.toNat + 2)).setWidth 64) = .ok loc →
    s.stalls true 8 [loc] = false →
    (BitVec.ofNat 64 (leNat (s.viewBytes s.g.core s.g.gid true loc.space loc.off 8)) - s.g.sval true f.d.toNat).getLsbD 63 = false →
    exec (.tsus f) s = .next (awaiting s .none)) ∧
  (∀ f s q, Issues (.tend f) f true false s q → s.g.task = none → exec (.tend f) s = .next (engineError s 0x33 0xFF)) ∧
  (∀ f s q, Issues (.tend f) f true false s q → s.g.task.isSome = true → s.g.ec ≠ 0 → exec (.tend f) s = .next (s.waitOn (.ewt 0))) ∧
  (∀ f s q tk, Issues (.tend f) f true false s q → s.g.task = some tk → s.g.ec = 0 → f.sub.getLsbD 4 = true ∨ State.commitsBad tk = false →
    f.sub.getLsbD 4 = true ∨ (tk.stage = none ∧ s.commitRoom s.g tk = true) ∨ (tk.stage.isSome = true ∧ s.areaOverflows s.g = false) →
    exec (.tend f) s = .next (awaiting s (.tend (f.sub.extractLsb' 0 4).toNat (f.sub.getLsbD 4)))) ∧
  (∀ f s q tk r, Issues (.tend f) f true false s q → s.g.task = some tk → s.g.ec = 0 → f.sub.getLsbD 4 = false → State.commitsBad tk = false → tk.stage = some r →
    s.areaOverflows s.g = true → exec (.tend f) s = .next (slalomError s r.set 0x05))

/-- The task unit starts a spawned task on the core that R326 chooses, with the registers of Table 11-1 in the low lanes; and a continuation becomes
ready when its condition holds (R325 to R327, R334, R348). -/
def Obligations.TaskUnitMoves : Prop :=
  (∀ s u tk c slot, s.tasks = [u] → u.contins = [] → u.batches = [] → u.spawned = [tk] → tk.attempt ≤ tk.vals.rc → tk.lanes ≤ 96 → 4 ≤ tk.vals.vregs →
    s.chooseCore u.die u.ctx tk.vals tk.used = some c → s.freeSlot c u.ctx = some slot → (∀ g ∈ s.groups, g.gid < s.nextId) →
    ({ s with g := taskGroup c u.ctx tk.vals.super } : State).targetCheck tk.entry = none →
    ∃ t g, exec (.taskStart u.die) s = .next t ∧ MemorySame s t ∧ (t.taskUnit u.die u.ctx).spawned = [] ∧ t.group? s.nextId = some g ∧
      g.core = c ∧ g.slot = slot ∧ g.ctx = u.ctx ∧ g.part = tk.part ∧ g.pc = tk.entry ∧ g.wait = .ready ∧ g.stroke = none ∧
      g.trapState.mode = tk.vals.super ∧ g.em = g.live ∧ (∀ l, l < 96 → g.live.getLsbD l = decide (l < tk.lanes)) ∧
      g.sget 0 = tk.arg.setWidth 32 ∧ g.sget 1 = tk.arg.extractLsb' 32 32 ∧ g.sget 2 = tk.id ∧ g.sget 3 = BitVec.ofNat 32 tk.attempt ∧
      g.sget 4 = BitVec.ofNat 32 tk.spawner.core ∧ (∀ n, 5 ≤ n → n < 60 → g.sget n = 0) ∧ RegistersPresent g) ∧
  (∀ s u k c g, s.tasks = [u] → u.contins.find? (fun x => x.slot == k && !x.ready) = some c → s.group? c.gid = some g → g.wait = .suspended →
    s.continHolds u.die u.ctx c = true →
    exec (.continuationReady u.die k) s = .next { s with
      tasks := [{ u with contins := u.contins.filter (·.slot != k) ++ [{ c with ready := true }] }] }) ∧
  (∀ s u k c, s.tasks = [u] → u.contins.find? (fun x => x.slot == k && !x.ready) = some c → s.continHolds u.die u.ctx c = false →
    exec (.continuationReady u.die k) s = .next s) ∧
  (∀ tr s st tk scope, s.g.stroke = some st → st.tail = .tend scope true → s.stepsOpen s.g = false → State.failedStep s.g = none →
    s.g.task = some tk → tk.stage = none →
    ∃ t, exec (.trl tr) s = .next t ∧ MemorySame s t ∧ t.g.wait = .ended ∧ t.g.live = 0 ∧ t.g.em = 0 ∧ t.g.task = none ∧ t.stores = s.stores ∧
      t.tasks = s.tasks)

/-- The Slalom instructions: installing, inserting, closing and freeing a set, outcomes and payloads of a batch, the route word, the pinned order and
the status selectors, with the codes of Table 11-8 (R337 to R339, R343, R347, R351 to R354). -/
def Obligations.SlalomInstructions : Prop :=
  (∀ f s q a locs x, Issues (.slinSet f) f true false s q → setOf? s (setNumber f) = none → a = s.g.sval true f.d.toNat → locs.length = 5 →
    (∀ i loc, locs[i]? = some loc → s.checkAccess s.g .virt .load true 64 (a + BitVec.ofNat 64 (64 * i)) = .ok loc) → s.stalls true 64 locs = false →
    CommandFree s → s.setOf s.g (setNumber f) (descriptorBits s locs) = some x →
    ∃ t, exec (.slinSet f) s = .next t ∧ Advances s.g t.g ∧ MemorySameButMarks s t false locs ∧
      t.g = { s.g with pc := t.g.pc, stroke := t.g.stroke } ∧ setOf? t (setNumber f) = some x ∧
      (∀ k, k ≠ setNumber f → setOf? t k = setOf? s k)) ∧
  (∀ f s q x, Issues (.slinSet f) f true false s q → setOf? s (setNumber f) = some x →
    exec (.slinSet f) s = .next (slalomError s (setNumber f) 0x02)) ∧
  (∀ f s q a locs, Issues (.slinSet f) f true false s q → setOf? s (setNumber f) = none → a = s.g.sval true f.d.toNat → locs.length = 5 →
    (∀ i loc, locs[i]? = some loc → s.checkAccess s.g .virt .load true 64 (a + BitVec.ofNat 64 (64 * i)) = .ok loc) → s.stalls true 64 locs = false →
    CommandFree s → s.setOf s.g (setNumber f) (descriptorBits s locs) = none →
    ∃ u, u.g = s.g ∧ MemorySameButMarks s u false locs ∧ u.tasks = s.tasks ∧ exec (.slinSet f) s = .next (slalomError u (setNumber f) 0x01)) ∧
  (∀ f s q x ls, Issues (.slinRec f) f true false s q → s.g.task = none → setOf? s (setNumber f) = some x → x.closed = false → CommandFree s →
    ls = lanesOf (predicatedLanes s.g f) → x.maxrec < x.inFlight + ls.length → exec (.slinRec f) s = .next (s.waitOn .room)) ∧
  (∀ f s q x ls, Issues (.slinRec f) f true false s q → s.g.task = none → setOf? s (setNumber f) = some x → x.closed = false → CommandFree s →
    ls = lanesOf (predicatedLanes s.g f) → x.inFlight + ls.length ≤ x.maxrec →
    ∃ t y, exec (.slinRec f) s = .next t ∧ Advances s.g t.g ∧ MemorySame s t ∧ t.g = { s.g with pc := t.g.pc, stroke := t.g.stroke } ∧
      setOf? t (setNumber f) = some y ∧ y.next = x.next + BitVec.ofNat 32 ls.length ∧ y.passed = x.passed ∧ y.dropped = x.dropped) ∧
  (∀ f s q x tk ls, Issues (.slinRec f) f true false s q → s.g.task = some tk → tk.stage = none → setOf? s (setNumber f) = some x →
    x.closed = false → ls = lanesOf (predicatedLanes s.g f) → BufEntry.count tk.buffer + ls.length ≤ 128 →
    ∃ t, exec (.slinRec f) s = .next t ∧
      Buffered s t tk (ls.map fun l => ⟨4, 0xFF, 0, setNumber f, .pool, 0, false, [], 0, .n8, s.g.vval true f.d.toNat l, [],
        false, false, none⟩)) ∧
  (∀ f s q x, Issues (.slinRec f) f true false s q → s.g.task = none → setOf? s (setNumber f) = some x → x.closed = true →
    exec (.slinRec f) s = .next (slalomError s (setNumber f) 0x03)) ∧
  (∀ f s q x, Issues (.slinClose f) f true false s q → setOf? s (setNumber f) = some x → CommandFree s →
    ∃ t y, exec (.slinClose f) s = .next t ∧ Advances s.g t.g ∧ MemorySame s t ∧ t.g = { s.g with pc := t.g.pc, stroke := t.g.stroke } ∧
      setOf? t (setNumber f) = some y ∧ y.closed = true ∧ y.next = x.next) ∧
  (∀ f s q x, Issues (.slinFree f) f true false s q → setOf? s (setNumber f) = some x → CommandFree s → x.inFlight = 0 →
    ∃ t, exec (.slinFree f) s = .next t ∧ Advances s.g t.g ∧ MemorySame s t ∧ t.g = { s.g with pc := t.g.pc, stroke := t.g.stroke } ∧
      setOf? t (setNumber f) = none ∧ ∀ k, k ≠ setNumber f → setOf? t k = setOf? s k) ∧
  (∀ f s q x, Issues (.slinFree f) f true false s q → setOf? s (setNumber f) = some x → CommandFree s → x.inFlight ≠ 0 →
    exec (.slinFree f) s = .next (s.waitOn .room)) ∧
  (∀ (e : (Fields → Instr) × Bool), e ∈ [(Instr.slps, true), (Instr.sldp, false)] → ∀ f s q tk r m, Issues (e.1 f) f true false s q →
    s.g.task = some tk → tk.stage = some r → m = predicatedLanes s.g f → (∀ l ∈ lanesOf m, l < r.recs.length) →
    (∀ l ∈ lanesOf m, r.outcome.getD l none ≠ some (!e.2)) →
    ∃ t, exec (e.1 f) s = .next t ∧ Advances s.g t.g ∧
      t.g.task = some { tk with stage := some (givenRun s.g f r m e.2 (e.2 && f.sub.getLsbD 0)) } ∧
      t = { s with g := { s.g with task := t.g.task, pc := t.g.pc, stroke := t.g.stroke } }) ∧
  (∀ (e : (Fields → Instr) × Bool), e ∈ [(Instr.slps, true), (Instr.sldp, false)] → ∀ f s q tk r m l, Issues (e.1 f) f true false s q →
    s.g.task = some tk → tk.stage = some r → m = predicatedLanes s.g f → (∀ l ∈ lanesOf m, l < r.recs.length) →
    l ∈ lanesOf m → r.outcome.getD l none = some (!e.2) → exec (e.1 f) s = .next (slalomError s r.set 0x07)) ∧
  (∀ f s q tk r m, RegistersPresent s.g → Issues (.slfxRd f) f true false s q → s.g.task = some tk → tk.stage = some r →
    m = predicatedLanes s.g f → (∀ l ∈ lanesOf m, l < r.recs.length) →
    ∃ t, exec (.slfxRd f) s = .next t ∧
      WroteLanes s t (destRun true f.d.toNat) m (fun k l => wordOf ((r.recs[l]?.map (·.route)).getD 0) k) 0) ∧
  (∀ f s q x o, Issues (.slfxPin f) f true false s q → setOf? s (setNumber f) = some x →
    State.orderOf x.stages.length (s.g.intOperand true f.b 0) = some o →
    ∃ t, exec (.slfxPin f) s = .next t ∧ Advances s.g t.g ∧ MemorySame s t ∧ t.g = { s.g with pc := t.g.pc, stroke := t.g.stroke } ∧
      setOf? t (setNumber f) = some { x with pinned := some o }) ∧
  (∀ f s q x, Issues (.slfxPin f) f true false s q → setOf? s (setNumber f) = some x →
    State.orderOf x.stages.length (s.g.intOperand true f.b 0) = none → exec (.slfxPin f) s = .next (slalomError s (setNumber f) 0x08)) ∧
  (∀ f s q x, Issues (.slfxUnpin f) f true false s q → setOf? s (setNumber f) = some x →
    ∃ t, exec (.slfxUnpin f) s = .next t ∧ Advances s.g t.g ∧ MemorySame s t ∧ t.g = { s.g with pc := t.g.pc, stroke := t.g.stroke } ∧
      setOf? t (setNumber f) = some { x with pinned := none }) ∧
  (∀ f s q x, RegistersPresent s.g → LanesLive s.g → Issues (.slst f) f true false s q → setOf? s (setNumber f) = some x →
    (∀ n, f.b = .int n → (s.g.word f.b 0).toNat < 10 ∨ 16 ≤ (s.g.word f.b 0).toNat) →
    ∃ t, exec (.slst f) s = .next t ∧
      WroteScalar s t f.d.toNat (scalarWords true ((s.slstValue x (s.g.word f.b 0).toNat).getD 0)) 0) ∧
  (∀ (e : Fields → Instr), e ∈ [Instr.slinClose, Instr.slinFree, Instr.slfxPin, Instr.slfxUnpin] → ∀ f s q, Issues (e f) f true false s q →
    setOf? s (setNumber f) = none → exec (e f) s = .next (slalomError s (setNumber f) 0x02))

/-- The router: records that have waited AGE leave as a batch in ascending sequence, a full statistics window closes and no other does, and a finished
record has its effects committed, then its output entry written, then its turn passes on (R327, R339, R341, R342, R345, Table 11-7). -/
def Obligations.SlalomRouterMoves : Prop :=
  (∀ s die ctx k st x g, s.slalom? die ctx k = some x → x.stages[st]? = some g → (∃ r ∈ g.queue, r.since + x.age ≤ s.dtime) →
    ∃ t y h, exec (.stageBatchAge die ctx k st) s = .next t ∧ MemorySame s t ∧ t.slalom? die ctx k = some y ∧ y.stages[st]? = some h ∧ h.queue = [] ∧
      y.next = x.next ∧ (t.taskUnit die ctx).batches = (s.taskUnit die ctx).batches ++
        [⟨nextTask s die ctx x.vals.launch, k, st, SlalomSet.sortRecs g.queue, 0, [], x.vals, x.part, s.nextId⟩]) ∧
  (∀ s die ctx k st x g, s.slalom? die ctx k = some x → x.stages[st]? = some g → (∀ r ∈ g.queue, s.dtime < r.since + x.age) →
    exec (.stageBatchAge die ctx k st) s = .next s) ∧
  (∀ s die ctx k x, s.slalom? die ctx k = some x → x.win ≤ x.f →
    ∃ t y, exec (.statsWindowClose die ctx k) s = .next t ∧ t.slalom? die ctx k = some y ∧ y.f = 0 ∧ y.windows = x.windows + 1 ∧
      (∀ (i : Nat) (g : Stage), y.stages[i]? = some g → g.e = 0 ∧ g.p = 0 ∧ g.c = 0) ∧ (∀ (i : Nat) (g h : Stage), x.stages[i]? = some g → y.stages[i]? = some h →
        h.queue = g.queue ∧ h.entry = g.entry ∧ (g.e = 0 → g.ran = true → h.w = g.w) ∧ (0 < g.e → h.ran = true)) ∧
      t = { s with tasks := t.tasks }) ∧
  (∀ s die ctx k x, s.slalom? die ctx k = some x → x.f < x.win →
    ∃ t, exec (.statsWindowClose die ctx k) s = .next t ∧ t.slalom? die ctx k = some x ∧ t = { s with tasks := t.tasks }) ∧
  (∀ s die ctx k x f rest a b c, s.slalom? die ctx k = some x → x.k = k → x.finishing = f :: rest → (∀ y ∈ rest, y.rec_.seq ≠ f.rec_.seq) →
    (∀ y ∈ rest, y.commit ≠ none) → x.ordered = false ∨ f.rec_.seq = BitVec.ofNat 32 x.outputs →
    f.commit = some a → f.late = some b → f.out = some c → (∀ id ∈ a ++ b ++ c, ∀ p ∈ s.stores, p.id ≠ id) → x.ocnt = 0xFFFFFFFF →
    ∃ t, exec (.recordFinish die ctx k) s = .next t ∧ MemorySame s t ∧
      t.slalom? die ctx k = some { x with finishing := rest, outputs := x.outputs + 1 }) ∧
  (∀ s die ctx k x f rest a b l, s.slalom? die ctx k = some x → x.k = k → x.finishing = f :: rest → (∀ y ∈ rest, y.rec_.seq ≠ f.rec_.seq) →
    (∀ y ∈ rest, y.commit ≠ none) → x.ordered = false ∨ f.rec_.seq = BitVec.ofNat 32 x.outputs →
    f.commit = some a → f.late = some b → f.out = none → f.tag = none → f.dropOut = false → (∀ id ∈ a ++ b, ∀ p ∈ s.stores, p.id ≠ id) →
    s.engineLoc (s.ctxRegs x.owner ctx) x.vals.super .engineWrite ((x.outbase.toNat + 16 * (f.rec_.seq.toNat % 2 ^ x.logout)) % 2 ^ 64) = .ok l →
    ∃ t d, exec (.recordFinish die ctx k) s = .next t ∧
      t.stores = s.stores ++ [⟨s.nextId, ⟨die, 65⟩, 0, l.space, l.off, 16, .write d, [],
        if l.emit then some (ctx, s.gateOf die ctx) else none, none⟩] ∧
      d.length = 16 ∧ leNat d = f.rec_.payload.toNat + 2 ^ 64 * f.rec_.seq.toNat + 2 ^ 96 * f.rec_.done.toNat + 2 ^ 112 * (f.dstg % 16)
        + (if f.passed then 0 else 2 ^ 116) + (if f.noout then 2 ^ 117 else 0) ∧
      t.slalom? die ctx k = some { x with finishing := { f with out := some [s.nextId] } :: rest }) ∧
  (∀ s die ctx k x f rest, s.slalom? die ctx k = some x → x.k = k → x.finishing = f :: rest → (∀ y ∈ rest, y.rec_.seq ≠ f.rec_.seq) →
    f.commit = none → f.rec_.entries = [] →
    ∃ t, exec (.recordFinish die ctx k) s = .next t ∧ MemorySame s t ∧ t.stores = s.stores ∧
      t.slalom? die ctx k = some { x with finishing := { f with commit := some [] } :: rest })

namespace Sys2Proof.Claims

open Sys2Proof.Machine

/-! ## The journal -/

/-- The stream of a context on the issuing group's die. -/
def streamOf (s : State) (ctx : BitVec 32) : Option Stream := s.stream? s.g.core.die ctx

/-- A cause 0x16 with its code (Table 12-7). -/
def journalError (s : State) (code : Nat) : State := s.trapHere 0x16 (some (BitVec.ofNat 64 code)) none

/-- The record that JTOK forms from its parameter block (Table 12-1, R368). -/
def tokenRecord (g : Group) (d : Nat) : JRec :=
  JRec.build 0 ((g.sget (d + 3)).getLsbD 16) 0 ((g.sget (d + 3)).setWidth 16) (g.sget d) (g.sget (d + 1)) (g.sget (d + 2)) (g.sval true (d + 4)) 0

/-- The record that JRTE forms (Table 12-1, R368). -/
def routeRecord (g : Group) (f : Fields) : JRec :=
  let d := f.d.toNat
  JRec.build (0#2 ++ f.sub.extractLsb' 0 2) false ((g.sget (d + 3)).extractLsb' 16 8) ((g.sget (d + 3)).setWidth 16) (g.sget d) (g.sget (d + 1))
    (g.sget (d + 2)) (g.sval true (d + 4)) (g.sval true (d + 6))

/-- The two instructions that journalise, the record each forms, and the bits its tag word may not have. -/
def journalForms : List ((Fields → Instr) × (Group → Fields → JRec) × Nat) :=
  [(Instr.jtok, fun g f => tokenRecord g f.d.toNat, 17), (Instr.jrte, routeRecord, 24)]

/-- Two records have the same key: SEQ, POS, KIND and ORD (R356). -/
def sameKey (a b : JRec) : Bool := JRec.hasKey a (JRec.seq b) (JRec.pos b) (JRec.kind b) (JRec.ord b)

/-- The record has been appended at JI: in the window and in the local copy (R356), and nothing else in memory has changed. -/
structure Appended (s t : State) (x : Stream) (r : JRec) : Prop where
  window : t.stream? x.die x.ctx = some { x with recs := x.recs ++ [r], ji := x.ji + 1 }
  copy : PlacedBytes s t .pool (x.base + 32 * (x.ji % 2 ^ x.lcap)) (State.recordBytes r) []

/-- Traffic leaves the package on a link whose key is loaded; with no such link it waits (R322, R323). -/
def SentOut (s t : State) (o : Outbound) : Prop :=
  ((∃ l ∈ s.fabric.links, State.keyed l = true) → t.fabric.outbound = s.fabric.outbound ++ [o] ∧ t.fabric.held = s.fabric.held) ∧
  ((∀ l ∈ s.fabric.links, State.keyed l = false) → t.fabric.held = s.fabric.held ++ [o] ∧ t.fabric.outbound = s.fabric.outbound)

/-- Record `i` of a window was sent, is not acknowledged, and was last sent 10 µs ago or more (R362). -/
def DueAgain (s : State) (x : Stream) (i : Nat) : Prop := x.ja ≤ i ∧ i < x.sent ∧ x.sentAt.getD (i - x.jt) 0 + 10000 ≤ s.dtime

/-- Records `first` to `first + n - 1` of a window, as they go to the partner (R362). -/
def appendPacket (s : State) (x : Stream) (first n : Nat) : Outbound :=
  .journal x.partner x.die (s.stamp x.partner) x.ctx x.jt first ((x.recs.drop (first - x.jt)).take n)

/-- A JTRN operation whose context has a stream that is not replaying. -/
structure OnStream (make : Fields → Instr) (f : Fields) (s : State) (q : Mask) (x : Stream) : Prop where
  issues : Issues (make f) f true true s q
  stream : streamOf s (s.g.sget f.d.toNat) = some x
  ready : x.replay = none

end Sys2Proof.Claims

open Sys2Proof Sys2Proof.Machine Sys2Proof.Claims

/-- JTOK, JRTE, JRD and JTRN: a record with a new key is appended, one with a standing key is counted only if it differs, a full window makes the
group wait, and each operation has the effect and the codes of Tables 12-6 and 12-7 (R356, R358, R367 to R369). -/
def Obligations.JournalInstructions : Prop :=
  (∀ e ∈ journalForms, ∀ f s q x, MemoryCanonical s → Issues (e.1 f) f true false s q → streamOf s s.g.ctx = some x → x.replay = none →
    s.g.sget (f.d.toNat + 3) >>> e.2.2 = 0 → (∀ y ∈ x.recs, sameKey y (e.2.1 s.g f) = false) → CommandFree s → x.ji - x.jt < 2 ^ x.lcap →
    x.base + 32 * 2 ^ x.lcap ≤ 2 ^ 64 →
    ∃ t, exec (e.1 f) s = .next t ∧ Advances s.g t.g ∧ t.g = { s.g with pc := t.g.pc, stroke := t.g.stroke } ∧ Appended s t x (e.2.1 s.g f)) ∧
  (∀ e ∈ journalForms, ∀ f s q x y, Issues (e.1 f) f true false s q → streamOf s s.g.ctx = some x → x.replay = none →
    s.g.sget (f.d.toNat + 3) >>> e.2.2 = 0 → x.recs.find? (sameKey · (e.2.1 s.g f)) = some y → CommandFree s →
    ∃ t, exec (e.1 f) s = .next t ∧ Advances s.g t.g ∧ MemorySame s t ∧ t.g = { s.g with pc := t.g.pc, stroke := t.g.stroke } ∧
      streamOf t s.g.ctx = some { x with
        disagree := x.disagree + (if JRec.differs y (e.2.1 s.g f) then 1 else 0)
        replayDisagree := x.replayDisagree + (if JRec.differs y (e.2.1 s.g f) && JRec.rpl y then 1 else 0) }) ∧
  (∀ e ∈ journalForms, ∀ f s q x, Issues (e.1 f) f true false s q → streamOf s s.g.ctx = some x → x.replay = none →
    s.g.sget (f.d.toNat + 3) >>> e.2.2 = 0 → (∀ y ∈ x.recs, sameKey y (e.2.1 s.g f) = false) → CommandFree s → 2 ^ x.lcap ≤ x.ji - x.jt →
    exec (e.1 f) s = .next (s.waitOn .journal)) ∧
  (∀ e ∈ journalForms, ∀ f s q, Issues (e.1 f) f true false s q → streamOf s s.g.ctx = none → exec (e.1 f) s = .next (journalError s 0x01)) ∧
  (∀ e ∈ journalForms, ∀ f s q x, Issues (e.1 f) f true false s q → streamOf s s.g.ctx = some x → x.replay = none →
    s.g.sget (f.d.toNat + 3) >>> e.2.2 ≠ 0 → exec (e.1 f) s = .next (journalError s 0x02)) ∧
  (∀ f s q x n w, Issues (.jrd f) f true false s q → streamOf s s.g.ctx = some x → x.replay = none → f.a = .s n → w = s.g.sget (n.toNat + 2) →
    w.extractLsb' 0 4 ≤ 4#4 → w.extractLsb' 4 12 = 0 → w >>> 24 = 0 →
    ∃ t, exec (.jrd f) s = .next t ∧ PutInFlight s t (.jrd f) .journal ((List.range 8).map fun k => .s (f.d.toNat + k)
      ((jrdResult x (s.g.sget n.toNat) (s.g.sget (n.toNat + 1)) (w.extractLsb' 0 4).toNat (w.extractLsb' 16 8)).extractLsb' (32 * k) 32) []) 0 none) ∧
  (∀ f s q lcap base, Issues (.jtrnCfg f) f true true s q → streamOf s (s.g.sget f.d.toNat) = none → lcap = param s f 1 →
    base = s.g.sval true (f.d.toNat + 2) → 10 ≤ lcap → lcap ≤ 20 → s.ringBaseOk base = true →
    s.partnerOk ((s.g.sget (f.d.toNat + 4)).extractLsb' 0 12).toNat = true →
    exec (.jtrnCfg f) s = .next (skipped { s with streams := s.streams ++ [⟨s.g.core.die, s.g.sget f.d.toNat, lcap, base.toNat,
      ((s.g.sget (f.d.toNat + 4)).extractLsb' 0 12).toNat, 0, 0, 0, [], 0, [], 0, 0, 0, none, none⟩] })) ∧
  (∀ f s q x, Issues (.jtrnCfg f) f true true s q → streamOf s (s.g.sget f.d.toNat) = some x → x.replay.isSome = true →
    exec (.jtrnCfg f) s = .next (s.waitOn .journal)) ∧
  (∀ f s q x, Issues (.jtrnCfg f) f true true s q → streamOf s (s.g.sget f.d.toNat) = some x → x.replay = none →
    param s f 1 ≠ 0 ∨ x.ja ≠ x.ji → exec (.jtrnCfg f) s = .next (journalError s 0x03)) ∧
  (∀ f s q x, Issues (.jtrnCfg f) f true true s q → streamOf s (s.g.sget f.d.toNat) = some x → x.replay = none → param s f 1 = 0 → x.ja = x.ji →
    ∃ t, exec (.jtrnCfg f) s = .next t ∧ Advances s.g t.g ∧ MemorySame s t ∧ streamOf t (s.g.sget f.d.toNat) = none ∧
      SentOut s t (.journalTruncate x.partner x.die (s.stamp x.partner) x.ctx x.ji)) ∧
  (∀ f s q lcap base, Issues (.jtrnHost f) f true true s q → lcap = param s f 1 → base = s.g.sval true (f.d.toNat + 2) → 12 ≤ lcap → lcap ≤ 24 →
    s.ringBaseOk base = true → exec (.jtrnHost f) s = .next (skipped { s with
      rings := s.rings.filter (·.die != s.g.core.die) ++ [⟨s.g.core.die, lcap, base.toNat, []⟩] })) ∧
  (∀ f s q x p, OnStream .jtrnPart f s q x → p = ((s.g.sget (f.d.toNat + 1)).extractLsb' 0 12).toNat → s.partnerOk p = true →
    exec (.jtrnPart f) s = .next (skipped (s.modStream x.die x.ctx fun y => { y with partner := p, ja := y.jt, sent := y.jt, sentAt := [] }))) ∧
  (∀ f s q x, MemoryCanonical s → RegistersPresent s.g → LanesLive s.g → OnStream .jtrnCkpt f s q x → x.ji - x.jt < 2 ^ x.lcap →
    x.base + 32 * 2 ^ x.lcap ≤ 2 ^ 64 →
    ∃ t, exec (.jtrnCkpt f) s = .next t ∧ Advances s.g t.g ∧
      Appended s t x (JRec.build 4 false 0 0 0xFFFFFFFF 0 0 (s.g.sval true (f.d.toNat + 2)) 0) ∧
      (f.d.toNat + 5 < 60 → t.g.sval true (f.d.toNat + 4) = BitVec.ofNat 64 x.ji)) ∧
  (∀ f s q x c, OnStream .jtrnTrunc f s q x → c = (s.g.sval true (f.d.toNat + 2)).toNat → x.jt ≤ c → c < x.ja →
    JRec.kind (x.recs.getD (c - x.jt) 0) = 4 →
    ∃ t, exec (.jtrnTrunc f) s = .next t ∧ Advances s.g t.g ∧ MemorySame s t ∧
      t.stream? x.die x.ctx = some { x with
        jt := c, recs := x.recs.drop (c - x.jt), sent := max x.sent c, sentAt := x.sentAt.drop (c - x.jt) } ∧
      SentOut s t (.journalTruncate x.partner x.die (s.stamp x.partner) x.ctx c)) ∧
  (∀ f s q x c, OnStream .jtrnTrunc f s q x → c = (s.g.sval true (f.d.toNat + 2)).toNat →
    c < x.jt ∨ x.ja ≤ c ∨ JRec.kind (x.recs.getD (c - x.jt) 0) ≠ 4 → exec (.jtrnTrunc f) s = .next (journalError s 0x05)) ∧
  (∀ f s q x, OnStream .jtrnSync f s q x → s.g.captured = none → x.ji ≤ x.ja → exec (.jtrnSync f) s = .next (skipped s)) ∧
  (∀ f s q x, OnStream .jtrnSync f s q x → s.g.captured = none → x.ja < x.ji →
    exec (.jtrnSync f) s = .next ({ s with g := { s.g with captured := some (s.g.pc, x.ji) } }.waitOn .journal)) ∧
  (∀ f s q x n, OnStream .jtrnSync f s q x → s.g.captured = some (s.g.pc, n) → n ≤ x.ja →
    exec (.jtrnSync f) s = .next (skipped { s with g := { s.g with captured := none } })) ∧
  (∀ f s q x, OnStream .jtrnRply f s q x → x.asker ≠ some (s.g.gid, s.g.pc) → x.ji = 0 → s.partnerOk (param s f 1) = true →
    ∃ t, exec (.jtrnRply f) s = .next t ∧ t.g.wait = .journal ∧ t.g.pc = s.g.pc ∧ MemorySame s t ∧
      t.stream? x.die x.ctx = some { x with
        replay := some ⟨param s f 1, param s f 2, ((s.g.sget (f.d.toNat + 3)).extractLsb' 0 3).toNat, s.g.sget (f.d.toNat + 4)⟩
        asker := some (s.g.gid, s.g.pc) } ∧
      SentOut s t (.journalFetch (param s f 1) (s.stamp (param s f 1)) (param s f 2) ((s.g.sget (f.d.toNat + 3)).extractLsb' 0 3).toNat
        (s.g.sget (f.d.toNat + 4)) x.die x.ctx 0)) ∧
  (∀ f s q x, OnStream .jtrnRply f s q x → x.asker = some (s.g.gid, s.g.pc) → x.ji ≠ 0 →
    exec (.jtrnRply f) s = .next (skipped (s.modStream x.die x.ctx fun y => { y with asker := none }))) ∧
  (∀ f s q x, OnStream .jtrnRply f s q x → x.asker ≠ some (s.g.gid, s.g.pc) → x.ji ≠ 0 → exec (.jtrnRply f) s = .next (journalError s 0x06))

/-- The partner protocol: records are sent in index order, the partner holds and acknowledges them, an acknowledgement of the current incarnations
raises JA and opens the gate for writes that waited for it, and a replay installs the holder's records with RPL set (R321, R360 to R364). The
model's reading: a journal packet carries JT and hosting starts there (log entry 37), and a replay fetches its records packet by packet until one
is empty (log entry 38). -/
def Obligations.JournalProtocol : Prop :=
  (∀ s die ctx count x, s.stream? die ctx = some x → 1 ≤ count → count ≤ 127 → x.sent + count ≤ x.ji → x.replay = none →
    ∃ t y, exec (.journalAppendSend die ctx count) s = .next t ∧ MemorySame s t ∧ t.groups = s.groups ∧
      t.stream? die ctx = some y ∧ y = { x with sent := x.sent + count, sentAt := y.sentAt } ∧ y.sentAt.length = x.sentAt.length + count ∧
      (∀ i, i < y.sentAt.length → x.sent ≤ x.jt + i → x.jt + i < x.sent + count → y.sentAt[i]? = some s.dtime) ∧
      (∀ i, i < x.sentAt.length → x.jt + i < x.sent → y.sentAt[i]? = x.sentAt[i]?) ∧ SentOut s t (appendPacket s x x.sent count)) ∧
  (∀ s die ctx x i, s.stream? die ctx = some x → DueAgain s x i →
    ∃ t y first n, exec (.journalResendTimer die ctx) s = .next t ∧ MemorySame s t ∧ t.groups = s.groups ∧ 1 ≤ n ∧ n ≤ 127 ∧
      (∀ j, first ≤ j → j < first + n → DueAgain s x j) ∧ (∀ j, j < first → ¬DueAgain s x j) ∧ (n < 127 → ¬DueAgain s x (first + n)) ∧
      t.stream? die ctx = some y ∧ y = { x with sentAt := y.sentAt, resends := x.resends + n } ∧ SentOut s t (appendPacket s x first n)) ∧
  (∀ s die ctx x, s.stream? die ctx = some x → (∀ i, ¬DueAgain s x i) → exec (.journalResendTimer die ctx) s = .next s) ∧
  (∀ s die ctx from_ upto x, s.stream? die ctx = some x → s.fresh? from_ = true → x.partner = from_.spkg.toNat →
    ∃ t, exec (.journalAckArrival die ctx from_.spkg from_.sinc from_.dinc upto) s = .next t ∧ t = { s with streams := t.streams } ∧
      t.stream? die ctx = some { x with ja := max x.ja (min upto x.sent) }) ∧
  (∀ s die ctx from_ upto x, s.stream? die ctx = some x → s.fresh? from_ = true → x.partner ≠ from_.spkg.toNat →
    exec (.journalAckArrival die ctx from_.spkg from_.sinc from_.dinc upto) s = .next s) ∧
  (∀ s die ctx from_ upto, s.fresh? from_ = false →
    ∃ t, exec (.journalAckArrival die ctx from_.spkg from_.sinc from_.dinc upto) s = .next t ∧ t.streams = s.streams ∧
      t.fabric.stale = s.fabric.stale.set die (s.fabric.stale.getD die 0 + 1)) ∧
  (∀ (s : State) (die : Nat) (ctx : BitVec 32) (x : Stream) (p : Pending), s.stream? die ctx = some x → p.gate.isSome = true → (∀ c n, p.gate = some (c, n) → c = ctx ∧ p.core.die = die) →
    (s.gateOpen p = true ↔ ∀ c n, p.gate = some (c, n) → n ≤ x.ja)) ∧
  (∀ s die from_ ctx jt first recs r, s.fresh? from_ = true → s.ringFor from_.spkg.toNat die ctx = some r → r.hosted = [] →
    recs.length ≤ 2 ^ r.lcap → first = jt ∨ jt < first →
    let held := if first = jt then recs else []
    ∃ t, exec (.journalAppendArrival die from_ ctx jt first recs) s = .next t ∧ MemorySame s t ∧ t.groups = s.groups ∧
      t.rings.find? (·.die == r.die) = some { r with hosted := [⟨from_.sinc, from_.spkg.toNat, die, ctx, jt, held⟩] } ∧
      SentOut s t (.journalAck from_.spkg.toNat die (s.stamp from_.spkg.toNat) ctx (jt + held.length))) ∧
  (∀ s die from_ ctx jt first recs r h, s.fresh? from_ = true → s.ringFor from_.spkg.toNat die ctx = some r → r.hosted = [h] →
    h.spkg = from_.spkg.toNat → h.sdie = die → h.ctx = ctx → h.inc = from_.sinc → h.first ≤ jt → jt ≤ first → first = h.first + h.recs.length →
    h.recs.length + recs.length ≤ 2 ^ r.lcap →
    ∃ t, exec (.journalAppendArrival die from_ ctx jt first recs) s = .next t ∧ MemorySame s t ∧ t.groups = s.groups ∧
      t.rings.find? (·.die == r.die) = some { r with hosted := [{ h with recs := h.recs ++ recs }] } ∧
      SentOut s t (.journalAck from_.spkg.toNat die (s.stamp from_.spkg.toNat) ctx (first + recs.length))) ∧
  (∀ s die from_ ctx jt r h, s.fresh? from_ = true → s.rings.find? (·.die == die) = some r → r.hosted = [h] → h.spkg = from_.spkg.toNat →
    h.sdie = die → h.ctx = ctx → h.first ≤ jt → jt ≤ h.first + h.recs.length →
    ∃ t, exec (.journalTruncateArrival die from_ ctx jt) s = .next t ∧ t = { s with rings := t.rings } ∧
      t.rings.find? (·.die == die) = some { r with hosted := [{ h with first := jt, recs := h.recs.drop (jt - h.first) }] }) ∧
  (∀ s die from_ rdie spkg sdie sctx nctx h, s.fresh? from_ = true →
    s.rings.findSome? (fun r => r.hosted.find? fun h => h.isFor spkg.toNat sdie sctx) = some h →
    let rekeyed (x : Hosted) : Hosted :=
      if x.isFor spkg.toNat sdie sctx then { x with inc := from_.sinc, spkg := from_.spkg.toNat, sdie := rdie, ctx := nctx } else x
    ∃ t, exec (.journalFetchRequest die ⟨from_, rdie, 0⟩ spkg sdie sctx nctx) s = .next t ∧ MemorySame s t ∧ t.groups = s.groups ∧
      t.rings = s.rings.map (fun r => { r with hosted := r.hosted.map rekeyed }) ∧
      SentOut s t (.journalRecords from_.spkg.toNat rdie (s.stamp from_.spkg.toNat) nctx h.first (h.recs.take 127))) ∧
  (∀ s die from_ rdie first spkg sdie sctx nctx h, s.fresh? from_ = true → 0 < first →
    s.rings.findSome? (fun r => r.hosted.find? fun h => h.isFor from_.spkg.toNat rdie nctx && h.inc == from_.sinc) = some h → h.first ≤ first →
    ∃ t, exec (.journalFetchRequest die ⟨from_, rdie, first⟩ spkg sdie sctx nctx) s = .next t ∧ MemorySame s t ∧ t.groups = s.groups ∧
      t.rings = s.rings ∧
      SentOut s t (.journalRecords from_.spkg.toNat rdie (s.stamp from_.spkg.toNat) nctx first ((h.recs.drop (first - h.first)).take 127))) ∧
  (∀ s die from_ ctx first recs x r, MemoryCanonical s → s.fresh? from_ = true → s.stream? die ctx = some x → x.replay = some r →
    r.holder = from_.spkg.toNat → recs ≠ [] → x.recs = [] ∨ first = x.ji → x.recs.length + recs.length < 2 ^ x.lcap →
    let low := if x.recs = [] then first else x.jt
    let top := low + (x.recs.length + recs.length)
    ∃ t, exec (.journalFetchResponse die ctx from_ ⟨first, recs⟩) s = .next t ∧ t.groups = s.groups ∧ (∀ sp off, sp ≠ .pool → t.byteAt sp off = s.byteAt sp off) ∧
      t.stream? die ctx = some { x with
        jt := low, ji := top, ja := top, sent := top
        sentAt := List.replicate (x.recs.length + recs.length) 0
        recs := x.recs ++ recs.map fun e => e ||| ((1 : JRec) <<< 27), partner := r.holder } ∧
      SentOut s t (.journalFetch r.holder (s.stamp r.holder) r.spkg r.sdie r.sctx die ctx top)) ∧
  (∀ s die from_ ctx first x r, s.fresh? from_ = true → s.stream? die ctx = some x → x.replay = some r → r.holder = from_.spkg.toNat →
    ∃ t, exec (.journalFetchResponse die ctx from_ ⟨first, []⟩) s = .next t ∧ t = { s with streams := t.streams } ∧
      t.stream? die ctx = some { x with replay := none }) ∧
  (∀ s die from_ ctx first recs x r, MemoryCanonical s → s.fresh? from_ = true → s.stream? die ctx = some x → x.replay = some r →
    r.holder = from_.spkg.toNat → x.recs = [] → recs.length = 2 ^ x.lcap →
    ∃ t, exec (.journalFetchResponse die ctx from_ ⟨first, recs⟩) s = .next t ∧ t.groups = s.groups ∧ (∀ sp off, sp ≠ .pool → t.byteAt sp off = s.byteAt sp off) ∧
      t.stream? die ctx = some { x with
        jt := first, ji := first + recs.length, ja := first + recs.length, sent := first + recs.length
        sentAt := List.replicate recs.length 0
        recs := recs.map fun e => e ||| ((1 : JRec) <<< 27), partner := r.holder, replay := none })

namespace Sys2Proof.Claims

open Sys2Proof.Machine

/-! ## System instructions -/

/-- The bits of a CSR that CSRW writes (R373, R374, R377, Table 13-2). -/
def csrMask (n : Nat) : DWord := match n with
  | 0x000 => 0xFFFFFFFFFFFF0000
  | 0x001 => 0x1FF
  | 0x002 | 0x003 => 0xFFFFFFFFFFFFFFFF
  | 0x004 | 0x005 | 0x006 => 0xFFFFFFFF
  | 0x007 => 0x6000007F
  | 0x011 => 0x000FFFFFFFE00000
  | 0x013 => 0x000FFFFFFFFFF800
  | _ => 0

/-- The value that CSRW makes of the old value and its operand: write, set or clear (R394). -/
def csrNew (s : State) (f : Fields) : DWord :=
  let src := s.g.intOperand f.csrWide f.a 0
  if f.sub.extractLsb' 0 2 = 0#2 then src
  else if f.sub.extractLsb' 0 2 = 1#2 then s.csrRead f.csrNum ||| src
  else s.csrRead f.csrNum &&& ~~~src

/-- The CSRs of a group, and those of its core. -/
def groupCsrs : List Nat := [1, 2, 3, 4, 5, 6, 7]
def coreCsrs : List Nat := [0x000, 0x011, 0x013]

/-- The TLB entries that a TLBI names, as a test and as the other packages are told of them (R395). -/
def tlbiForms : List ((Fields → Instr) × (State → Fields → TlbEntry → Bool) × (State → Fields → TlbiKind)) :=
  [ (.tlbiPage, fun s f e => decide (e.va < (s.g.intOperand true f.a 0).toNat / 65536 * 65536 + 65536 * f.x.toNat ∧
      (s.g.intOperand true f.a 0).toNat / 65536 * 65536 < e.va + e.size) && (e.ctx == none || e.ctx == some (s.g.word f.b 0)),
      fun s f => .page (s.g.intOperand true f.a 0).toNat f.x.toNat (s.g.word f.b 0)),
    (.tlbiCtx, fun s f e => e.ctx == some (s.g.word f.b 0), fun s f => .ctx (s.g.word f.b 0)),
    (.tlbiPart, fun s f e => e.part == (s.g.word f.b 0).setWidth 8, fun s f => .part ((s.g.word f.b 0).setWidth 8)),
    (.tlbiAll, fun _ _ _ => true, fun _ _ => .all) ]

/-- A page range that TLBI.page may name (Table 13-8). -/
def PagesAllowed (s : State) (f : Fields) : Prop := f.x.toNat ≠ 0 ∧ canonical (s.g.intOperand true f.a 0).toNat = true

/-- A TLB entry reaches the location of an access. -/
def Spans (e : TlbEntry) (p : Pending) : Prop :=
  let l : Leaf := ⟨e.leaf, e.at_, e.va, e.size⟩
  l.space = p.space ∧ l.phys e.va < p.off + p.size ∧ p.off < l.phys e.va + e.size

/-- The accesses for which a TLBI waits: accepted and not performed, in memory, not at the journal gate, and made through an entry that it drops:
one of the TLB of the access's core that spans its location, or one that has gone from there already; of an engine every write, since the engines
keep no entry. With .core only the core's own (R395, log entry 97). -/
def Covers (s : State) (f : Fields) (drop : TlbEntry → Bool) (p : Pending) : Prop :=
  p.gate = none ∧ p.space.isLocal = false ∧ p.effect ≠ .confirm ∧
    (if 64 ≤ p.core.core then f.sub.getLsbD 2 = false
     else (f.sub.getLsbD 2 = true → p.core = s.g.core) ∧
      ((∃ e ∈ (s.coreAt p.core).tlb, drop e = true ∧ Spans e p) ∨ ∀ e ∈ (s.coreAt p.core).tlb, ¬Spans e p))

/-- A TLBI that the Vuvosum's other packages have to answer: one without .core, where there are others (R395). -/
def AsksOthers (s : State) (f : Fields) : Prop := f.sub.getLsbD 2 = false ∧ s.vuvPeers ≠ []

/-- The cores with the named TLB entries gone. -/
def withoutTlb (s : State) (f : Fields) (drop : TlbEntry → Bool) : List Core :=
  s.cores.map fun c => if f.sub.getLsbD 2 && c.id != s.g.core then c else { c with tlb := c.tlb.filter fun e => !drop e }

/-- The engines with the named entries of their walk-ahead TLBs gone: with .core, that of the core's quad (R204, R275). -/
def withoutAhead (s : State) (f : Fields) (drop : TlbEntry → Bool) : List Engine :=
  s.engines.map fun q =>
    if f.sub.getLsbD 2 && q.quad != ⟨s.g.core.die, s.g.core.core / 4⟩ then q else { q with tlb := q.tlb.filter fun e => !drop e }

/-- An SCPW operation that its parameters allow completes: the group goes on, and outside its own effect nothing changes. -/
def PolicySet (i : Instr) (s : State) (t : State) : Prop :=
  exec i s = .next t ∧ t.g = (skipped s).g ∧ t.grps = s.grps ∧ t.wgs = s.wgs ∧ t.cores = s.cores ∧ t.stores = s.stores

/-- The SCPW operations with the parameters that lie outside Table 13-9 (R401); FQACK has none. -/
def scpwForms : List ((Fields → Instr) × (State → Fields → Prop)) :=
  [ (.scpwVault, fun s f => 256 ≤ param s f 0 ∨ 4096 ≤ param s f 1),
    (.scpwL2way, fun s f => 256 ≤ param s f 0 ∨ 65536 ≤ param s f 1),
    (.scpwPinq, fun s f => 14336 < param s f 1),
    (.scpwSlot, fun s f => 65536 ≤ param s f 0 ∨ s.g.sget (f.d.toNat + 2) &&& 0xFFFF80F8 ≠ 0),
    (.scpwTask, fun s f => (s.g.sval true (f.d.toNat + 2)).toNat % 512 ≠ 0 ∨ 2 ^ 52 ≤ (s.g.sval true (f.d.toNat + 2)).toNat),
    (.scpwFq, fun s f => (s.g.sval true f.d.toNat).toNat % 4096 ≠ 0 ∨ 2 ^ 52 ≤ (s.g.sval true f.d.toNat).toNat ∨ param s f 2 < 8 ∨ 16 < param s f 2),
    (.scpwStrict, fun s f => 2 ≤ param s f 0),
    (.scpwPeer, fun s f => s.podPackages ≤ param s f 0 ∨ 65536 ≤ param s f 1),
    (.scpwSpare, fun s f => 48 ≤ param s f 0) ]

/-- The fields of a SIGT target word (R400). -/
def targetOf (s : State) (f : Fields) : CoreId × Nat :=
  (⟨param s f 0 / 4096 % 8, param s f 0 / 32768 % 64⟩, param s f 0 / 2097152 % 64)

end Sys2Proof.Claims

open Sys2Proof Sys2Proof.Machine Sys2Proof.Claims

/-- KRET passes its checks and leaves the return to the trailer; CSRR reads a CSR; CSRW puts the old value in D and writes the writable bits alone;
ENGR reads a selector, and clears the log count where X asks for it (R375, R377, R378, R394, R397). That KRET's target is translated in the mode
of PMODE is the model's reading (log entry 59). -/
def Obligations.SystemRegisters : Prop :=
  (∀ f s q l, Issues (.kret f) f true true s q →
    s.translate s.g.core (s.regsOf s.g) s.g.trapState.pmode .fetch (State.lineVa s.g.trapState.tepc) = .ok l →
    s.g.trapState.saved.depth ≤ State.depth s.g → exec (.kret f) s = .next (awaiting s .kret)) ∧
  (∀ f s q l, Issues (.kret f) f true true s q →
    s.translate s.g.core (s.regsOf s.g) s.g.trapState.pmode .fetch (State.lineVa s.g.trapState.tepc) = .ok l →
    State.depth s.g < s.g.trapState.saved.depth → exec (.kret f) s = .next (s.doubleTrap 0x03 0 s.g.pc)) ∧
  (∀ f s q, RegistersPresent s.g → LanesLive s.g → Issues (.csrr f) f true true s q → f.csrNum ∈ groupCsrs → s.g.deferred = [] →
    ∃ t, exec (.csrr f) s = .next t ∧ WroteScalar s t f.d.toNat (scalarWords f.csrWide (s.csrRead f.csrNum)) 0) ∧
  (∀ f s q, RegistersPresent s.g → LanesLive s.g → Issues (.csrr f) f true true s q → f.csrNum ∉ groupCsrs →
    ∃ t, exec (.csrr f) s = .next t ∧ WroteScalar s t f.d.toNat (scalarWords f.csrWide (s.csrRead f.csrNum)) 0) ∧
  (∀ f s q, RegistersPresent s.g → Issues (.csrw f) f true true s q → f.csrNum ∈ groupCsrs → s.g.deferred = [] →
    ∃ t, exec (.csrw f) s = .next t ∧ Advances s.g t.g ∧ MemorySame s t ∧ GroupOnly s t ∧
      t.g = { s.g with s := t.g.s, em := t.g.em, marks := t.g.marks, trapState := t.g.trapState, flags := t.g.flags, pc := t.g.pc, stroke := t.g.stroke } ∧
      (∀ k x, (scalarWords f.csrWide (s.csrRead f.csrNum))[k]? = some x → f.d.toNat + k < 60 → t.g.sget (f.d.toNat + k) = x) ∧
      t.csrRead f.csrNum = (csrNew s f &&& csrMask f.csrNum) |||
        (if f.csrNum = 7 then s.csrRead 7 &&& ~~~(csrMask 7) else 0) ∧
      (∀ n ∈ groupCsrs, n ≠ f.csrNum → t.csrRead n = s.csrRead n) ∧ (f.csrNum ≠ 7 → t.g.flags = s.g.flags)) ∧
  (∀ (e : Fields → Instr), e ∈ [Instr.csrw, Instr.scopetabWrite] → ∀ f s q, RegistersPresent s.g → Issues (e f) f true true s q →
    f.csrNum ∈ coreCsrs → s.g.deferred = [] → (s.coreAt s.g.core).regs.ctx = s.g.ctx →
    ∃ t, exec (e f) s = .next t ∧ Advances s.g t.g ∧ MemorySame s t ∧ t = { s with g := t.g, cores := t.cores } ∧
      t.g = { s.g with s := t.g.s, em := t.g.em, marks := t.g.marks, pc := t.g.pc, stroke := t.g.stroke } ∧
      (∀ k x, (scalarWords true (s.csrRead f.csrNum))[k]? = some x → f.d.toNat + k < 60 → t.g.sget (f.d.toNat + k) = x) ∧
      t.csrRead f.csrNum = csrNew s f &&& csrMask f.csrNum ∧ (∀ n ∈ coreCsrs ++ [0x010, 0x012], n ≠ f.csrNum → t.csrRead n = s.csrRead n) ∧
      (f.csrNum = 0x013 → (t.coreAt s.g.core).regs.hops = s.hopsAt (csrNew s f &&& csrMask 0x013)) ∧
      (∀ c, c ≠ s.g.core → t.coreAt c = s.coreAt c)) ∧
  (∀ f s q, RegistersPresent s.g → LanesLive s.g → Issues (.engr f) f true true s q → (s.g.word f.b 0).toNat ≠ 1 ∨ f.x.getLsbD 31 = false →
    ∃ t, exec (.engr f) s = .next t ∧ WroteScalar s t f.d.toNat (scalarWords true (s.engrValue (s.g.word f.b 0).toNat f.x)) 0) ∧
  (∀ f s q, RegistersPresent s.g → Issues (.engr f) f true true s q → (s.g.word f.b 0).toNat = 1 → f.x.getLsbD 31 = true →
    ∃ t, exec (.engr f) s = .next t ∧ Advances s.g t.g ∧ MemorySame s t ∧ t = { s with g := t.g, cores := t.cores } ∧
      (f.d.toNat + 1 < 60 → t.g.sget f.d.toNat = BitVec.ofNat 32 (s.errLog s.g.core s.g.ctx).count) ∧
      (t.errLog s.g.core s.g.ctx).count = 0 ∧ (t.errLog s.g.core s.g.ctx).entries = (s.errLog s.g.core s.g.ctx).entries)

/-- TLBI drops the entries that it names, here and in the Vuvosum's other packages, waits until the accesses through them are performed and the others
have answered, and then goes on. Which accesses went through an entry is told by their locations: the model's reading (log entry 97). SWCX loads shadow banks, arms and cancels swaps; each takes
cause 0x10 where Table 13-8 says so (R298, R379, R382, R395, R396). -/
def Obligations.TranslationAndSwapInstructions : Prop :=
  (∀ e ∈ tlbiForms, ∀ f s q, Issues (e.1 f) f true true s q → (e.1 f = .tlbiPage f → PagesAllowed s f) → s.g.captured.map (·.1) ≠ some s.g.pc →
    (∀ p ∈ s.stores, ¬Covers s f (e.2.1 s f) p) → ¬AsksOthers s f →
    ∃ t, exec (e.1 f) s = .next t ∧ Advances s.g t.g ∧ MemorySame s t ∧ t.g = { s.g with pc := t.g.pc, stroke := t.g.stroke } ∧
      t = { s with g := t.g, cores := withoutTlb s f (e.2.1 s f), engines := withoutAhead s f (e.2.1 s f) }) ∧
  (∀ e ∈ tlbiForms, ∀ f s q, Issues (e.1 f) f true true s q → (e.1 f = .tlbiPage f → PagesAllowed s f) → s.g.captured.map (·.1) ≠ some s.g.pc →
    (∃ p ∈ s.stores, Covers s f (e.2.1 s f) p) ∨ AsksOthers s f →
    ∃ t ids, exec (e.1 f) s = .next t ∧ t.g.wait = .drain ids ∧
      (∀ id, id ∈ ids ↔ (∃ r ∈ s.stores, r.id = id ∧ Covers s f (e.2.1 s f) r) ∨ (id = s.nextId ∧ AsksOthers s f)) ∧
      (AsksOthers s f → t.fabric.tlbis = s.fabric.tlbis ++ s.vuvPeers.map fun p => (s.nextId, p)) ∧
      (∀ p, AsksOthers s f → s.vuvPeers = [p] → SentOut s t (.notice p (s.stamp p) (.tlbi s.nextId (e.2.2 s f)))) ∧
      MemorySame s t ∧ t.g.pc = s.g.pc ∧ t.g.captured = some (s.g.pc, s.nextId) ∧ ∀ c, (t.coreAt c).tlb =
        if f.sub.getLsbD 2 = true ∧ c ≠ s.g.core then (s.coreAt c).tlb else (s.coreAt c).tlb.filter fun x => !e.2.1 s f x) ∧
  (∀ e ∈ tlbiForms, ∀ f s q n, Issues (e.1 f) f true true s q → (e.1 f = .tlbiPage f → PagesAllowed s f) → s.g.captured = some (s.g.pc, n) →
    exec (e.1 f) s = .next (skipped { s with g := { s.g with captured := none } })) ∧
  (∀ f s q, Issues (.tlbiPage f) f true true s q → ¬PagesAllowed s f → exec (.tlbiPage f) s = .next (engineError s 0x41 0xFF)) ∧
  (∀ f s q, Issues (.swcxLoad f) f true true s q →
    (∀ c ∈ s.swcxCores f, (s.coreAt c).swap.armed = none ∧ (s.coreAt c).swap.spilling = none) →
    ∃ t, exec (.swcxLoad f) s = .next t ∧ MemorySame s t ∧ t.g = (awaiting s .none).g ∧
      (∀ c ∈ s.swcxCores f, (t.coreAt c).swap = { (s.coreAt c).swap with
        load := .loading, frame := (s.g.sval true f.d.toNat).toNat + c.core * 0x1000000, incoming := some ⟨s.g.sget (f.d.toNat + 2), 0, 0, 0, 0, []⟩ }) ∧
      (∀ c, c ∉ s.swcxCores f → t.coreAt c = s.coreAt c)) ∧
  (∀ f s q c, Issues (.swcxLoad f) f true true s q → c ∈ s.swcxCores f → (s.coreAt c).swap.armed ≠ none ∨ (s.coreAt c).swap.spilling ≠ none →
    exec (.swcxLoad f) s = .next (engineError s 0x40 0xFF)) ∧
  (∀ f s q, Issues (.swcxArm f) f true true s q →
    (∀ c ∈ s.swcxCores f, ((s.coreAt c).swap.load = .loading ∨ (s.coreAt c).swap.load = .loaded) ∧ s.localTime c < (s.g.sval true f.d.toNat).toNat) →
    ∃ t, exec (.swcxArm f) s = .next t ∧ MemorySame s t ∧
      t.g = (awaiting s (if s.g.core ∈ s.swcxCores f then .arm (s.g.sval true f.d.toNat).toNat else .none)).g ∧
      (∀ c ∈ s.swcxCores f, c ≠ s.g.core → (t.coreAt c).swap = { (s.coreAt c).swap with armed := some (s.g.sval true f.d.toNat).toNat }) ∧
      (∀ c, c ∉ s.swcxCores f ∨ c = s.g.core → t.coreAt c = s.coreAt c)) ∧
  (∀ f s q c, Issues (.swcxArm f) f true true s q → c ∈ s.swcxCores f → (s.coreAt c).swap.load = .idle ∨ (s.coreAt c).swap.load = .failed →
    exec (.swcxArm f) s = .next (engineError s 0x40 0xFF)) ∧
  (∀ f s q, Issues (.swcxCancel f) f true true s q →
    ∃ t, exec (.swcxCancel f) s = .next t ∧ MemorySame s t ∧ t.g = (awaiting s .none).g ∧
      (∀ c ∈ s.swcxCores f, ∀ n, (s.coreAt c).swap.armed = some n →
        (t.coreAt c).swap.armed = if s.localTime c < n then none else some n) ∧
      (∀ c, c ∉ s.swcxCores f → t.coreAt c = s.coreAt c))

/-- FLTR sends its reply, HLT takes a pending signal or waits for one, and SIGT sets or merges the signal of the group in the slot that it names, counts
a signal to an empty slot, and sends one to another package out (R376, R398 to R400). -/
def Obligations.SignalsAndReplies : Prop :=
  (∀ f s q, Issues (.fltr f) f true true s q → param s f 1 / 2 ^ 20 % 16 = 0 ∨ (param s f 1 / 2 ^ 20 % 16 = 1 ∧
      param s f 1 / 2 ^ 24 ∈ [0x07, 0x08, 0x09, 0x0A, 0x0C]) → 1 ≤ param s f 2 → param s f 2 ≤ 96 →
    exec (.fltr f) s = .next (skipped { s with replies := s.replies ++
      [⟨s.g.sget f.d.toNat, param s f 1 / 2 ^ 16 % 8, BitVec.ofNat 16 (param s f 1), BitVec.ofNat 4 (param s f 1 / 2 ^ 20),
        BitVec.ofNat 8 (param s f 1 / 2 ^ 24), param s f 2⟩] })) ∧
  (∀ f s q, Issues (.fltr f) f true true s q → 2 ≤ param s f 1 / 2 ^ 20 % 16 ∨ param s f 2 = 0 ∨ 96 < param s f 2 →
    exec (.fltr f) s = .next (engineError s 0x42 0xFF)) ∧
  (∀ f s q v, RegistersPresent s.g → LanesLive s.g → Issues (.hlt f) f true true s q → s.g.signal = some v →
    ∃ t, exec (.hlt f) s = .next t ∧ Advances s.g t.g ∧ MemorySame s t ∧ GroupOnly s t ∧ t.g.signal = none ∧
      (f.d.toNat < 60 → t.g.sget f.d.toNat = v) ∧ (∀ n, n ≠ f.d.toNat → t.g.sget n = s.g.sget n) ∧
      t.g = { s.g with s := t.g.s, em := t.g.em, marks := t.g.marks, signal := none, pc := t.g.pc, stroke := t.g.stroke }) ∧
  (∀ f s q, Issues (.hlt f) f true true s q → s.g.signal = none → ∃ t, exec (.hlt f) s = .next t ∧ Waits s t .hlt) ∧
  (∀ f s q x, Issues (.sigt f) f true true s q → param s f 0 < 2 ^ 27 → param s f 0 % 4096 = s.pkg → s.pkg < s.podPackages →
    (targetOf s f).1.core < 48 →
    s.groups.find? (fun g => g.core == (targetOf s f).1 && g.slot == (targetOf s f).2 && g.ctx == s.g.sget (f.d.toNat + 1) && State.occupies g) = some x →
    exec (.sigt f) s = .next (skipped (s.modGroup x.gid fun h => { h with signal := some (h.signal.getD 0 ||| s.g.sget (f.d.toNat + 2)) }))) ∧
  (∀ f s q, Issues (.sigt f) f true true s q → param s f 0 < 2 ^ 27 → param s f 0 % 4096 = s.pkg → s.pkg < s.podPackages →
    (targetOf s f).1.core < 48 →
    (∀ g ∈ s.groups, g.core = (targetOf s f).1 → g.slot = (targetOf s f).2 → g.ctx = s.g.sget (f.d.toNat + 1) → State.occupies g = false) →
    ∃ t, exec (.sigt f) s = .next t ∧ t.g = (skipped s).g ∧ t.grps = s.grps ∧ MemorySame s t ∧
      (t.dieAt (targetOf s f).1.die).droppedSignals = (s.dieAt (targetOf s f).1.die).droppedSignals + 1) ∧
  (∀ f s q, Issues (.sigt f) f true true s q → param s f 0 < 2 ^ 27 → param s f 0 % 4096 ≠ s.pkg → param s f 0 % 4096 < s.podPackages →
    (targetOf s f).1.core < 48 →
    ∃ t, exec (.sigt f) s = .next t ∧ t.g = (skipped s).g ∧ t.grps = s.grps ∧ MemorySame s t ∧
      SentOut s t (.signal (param s f 0 % 4096) (targetOf s f).1.die (targetOf s f).1.core (targetOf s f).2 (s.g.sget (f.d.toNat + 1))
        (s.g.sget (f.d.toNat + 2)))) ∧
  (∀ f s q, Issues (.sigt f) f true true s q → 2 ^ 27 ≤ param s f 0 ∨ s.podPackages ≤ param s f 0 % 4096 ∨ 47 < (targetOf s f).1.core →
    exec (.sigt f) s = .next (engineError s 0x43 0xFF))

/-- SCPW sets the policy that it names: vaults, L2 ways, pin quotas, reduction slots, the continuation area, the fault queue and its acknowledgement,
strict mode, peers and spares; a parameter outside its range takes cause 0x10 (R276, R318, R321, R333, R386, R389 to R392, R401). The model's
reading: bits outside Table 13-9 make a parameter word bad (log entry 45), and a pin quota counts from SCPW.pinq on (log entry 67). -/
def Obligations.PolicyWrites : Prop :=
  (∀ f s q, Issues (.scpwVault f) f true true s q → param s f 0 < 256 → param s f 1 < 4096 →
    ∃ t, PolicySet (.scpwVault f) s t ∧ MemorySame s t ∧
      (∀ v, v < 12 → (t.dieAt s.g.core.die).vaults.getD v none =
        if (param s f 1).testBit v then some (BitVec.ofNat 8 (param s f 0)) else (s.dieAt s.g.core.die).vaults.getD v none) ∧
      (∀ v p, v < 12 → (param s f 1).testBit v = true → (s.dieAt s.g.core.die).vaults.getD v none = some p → p ≠ BitVec.ofNat 8 (param s f 0) →
        ClearUnit.vault s.g.core.die v ∈ t.clears)) ∧
  (∀ f s q, Issues (.scpwL2way f) f true true s q → param s f 0 < 256 → param s f 1 < 65536 →
    ∃ t, PolicySet (.scpwL2way f) s t ∧ MemorySame s t ∧
      (t.dieAt s.g.core.die).ways = (BitVec.ofNat 8 (param s f 0), BitVec.ofNat 16 (param s f 1)) ::
        (s.dieAt s.g.core.die).ways.filter (·.1 != BitVec.ofNat 8 (param s f 0))) ∧
  (∀ f s q, Issues (.scpwPinq f) f true true s q → param s f 1 ≤ 14336 →
    ∃ t, PolicySet (.scpwPinq f) s t ∧ MemorySame s t ∧
      (t.dieAt s.g.core.die).pinq.find? (·.1 == s.g.sget f.d.toNat) = some (s.g.sget f.d.toNat, param s f 1)) ∧
  (∀ f s q, Issues (.scpwSlot f) f true true s q → param s f 0 < 65536 → s.g.sget (f.d.toNat + 2) &&& 0xFFFF80F8 = 0 →
    s.g.sget (f.d.toNat + 1) ≠ 0xFFFFFFFF → (∀ x ∈ s.fabric.slots, x.slot ≠ param s f 0) →
    ∃ t, PolicySet (.scpwSlot f) s t ∧ MemorySame s t ∧ t.fabric.slots = s.fabric.slots ++
      [⟨param s f 0, s.g.sget (f.d.toNat + 1), param s f 2 % 4, (s.g.sget (f.d.toNat + 2)).getLsbD 2, param s f 2 / 256 % 128 + 1,
        s.g.sval true (f.d.toNat + 4), 0, false, 0, 0, [], 0, 1, 0⟩]) ∧
  (∀ f s q, Issues (.scpwSlot f) f true true s q → param s f 0 < 65536 → s.g.sget (f.d.toNat + 2) &&& 0xFFFF80F8 = 0 →
    s.g.sget (f.d.toNat + 1) = 0xFFFFFFFF →
    ∃ t, PolicySet (.scpwSlot f) s t ∧ MemorySame s t ∧ t.fabric.slots = s.fabric.slots.filter (·.slot != param s f 0)) ∧
  (∀ f s q, Issues (.scpwTask f) f true true s q → (s.g.sval true (f.d.toNat + 2)).toNat % 512 = 0 → (s.g.sval true (f.d.toNat + 2)).toNat < 2 ^ 52 →
    ∃ t, PolicySet (.scpwTask f) s t ∧ MemorySame s t ∧
      (t.taskUnit s.g.core.die (s.g.sget f.d.toNat)).areaBase = (s.g.sval true (f.d.toNat + 2)).toNat ∧
      (t.taskUnit s.g.core.die (s.g.sget f.d.toNat)).areaSlots = param s f 4) ∧
  (∀ f s q, Issues (.scpwFq f) f true true s q → (s.g.sval true f.d.toNat).toNat % 4096 = 0 → (s.g.sval true f.d.toNat).toNat < 2 ^ 52 →
    8 ≤ param s f 2 → param s f 2 ≤ 16 → s.fq.waiting = [] →
    ∃ t, PolicySet (.scpwFq f) s t ∧ MemorySame s t ∧ t.fq = ⟨true, (s.g.sval true f.d.toNat).toNat, param s f 2, 0, 0, []⟩ ∧
      t.notif.getLsbD 0 = false) ∧
  (∀ f s q n, Issues (.scpwFqack f) f true true s q → s.fq.waiting = [] → s.fq.cons + n ≤ s.fq.prod → n < 2 ^ 32 →
    s.g.sget f.d.toNat = BitVec.ofNat 32 (s.fq.cons + n) →
    ∃ t, PolicySet (.scpwFqack f) s t ∧ MemorySame s t ∧ t.fq = { s.fq with cons := s.fq.cons + n } ∧
      (s.fq.prod = s.fq.cons + n → t.notif.getLsbD 0 = false)) ∧
  (∀ f s q, Issues (.scpwStrict f) f true true s q → param s f 0 < 2 →
    ∃ t, PolicySet (.scpwStrict f) s t ∧ MemorySame s t ∧ (t.dieAt s.g.core.die).strict = (s.g.sget f.d.toNat).getLsbD 0) ∧
  (∀ f s q, Issues (.scpwPeer f) f true true s q → param s f 0 < s.podPackages → param s f 1 < 65536 → s.fabric.commands = [] → s.stores = [] →
    (∀ g ∈ s.groups, g.deferred = []) →
    ∃ t, PolicySet (.scpwPeer f) s t ∧ MemorySame s t ∧ t.peerInc (param s f 0) = BitVec.ofNat 16 (param s f 1)) ∧
  (∀ f s q c, Issues (.scpwSpare f) f true true s q → c = (⟨s.g.core.die, param s f 0⟩ : CoreId) → c.core < 48 →
    (s.coreAt c).status = .live ∨ (s.dieAt c.die).spares = 0 → exec (.scpwSpare f) s = .next (skipped s)) ∧
  (∀ f s q c, Issues (.scpwSpare f) f true true s q → c = (⟨s.g.core.die, param s f 0⟩ : CoreId) → c.core < 48 →
    (s.coreAt c).status = .fenced → (s.dieAt c.die).spares ≠ 0 → (∀ g ∈ s.groups, g.core ≠ c) →
    ∃ t, exec (.scpwSpare f) s = .next t ∧ t.g.pc = (skipped s).g.pc ∧ (t.coreAt c).status = .live ∧ (t.coreAt c).tlb = [] ∧ (t.coreAt c).l1 = [] ∧
      (t.dieAt c.die).spares = (s.dieAt c.die).spares - 1) ∧
  (∀ e ∈ scpwForms, ∀ f s q, Issues (e.1 f) f true true s q → e.2 s f → exec (e.1 f) s = .next (engineError s 0x44 0xFF))

/-- A fault reply frees its group, a failed core is fenced, an uncorrectable error marks bytes, a partition's vault is cleared, and the swap, the
shadow load, the spill and the lazy exchange move as R379 to R382 say (R213, R387, R388, R391). That MACHINE_CHECK names exactly the bytes that
become uncorrectable is the model's choice (log entry 11), as is where the lists of a frame stand (log entry 13). -/
def Obligations.ContextsMove : Prop :=
  (∀ s r t g p, s.replies = [r] → (s.dieAt r.die).tags.find? (fun x => x.tag == r.tag && x.ctx == r.ctx && !x.answered) = some t → t.owner = .group g.gid →
    s.group? g.gid = some g → g.gid ≠ s.g.gid → g.park = some p → p.tag = t.tag → g.wait = .parked → g.place = .core → g.trapState.tip = true →
    (s.coreAt g.core).regs.ctx = g.ctx → g.async = [] → g.rec_ = none ∨ g.rec_ = some g.slot → r.status = 0 → t.npg ≤ t.replies + r.k →
    (s.coreAt ⟨r.die, t.core⟩).regs.ctx = t.ctx → g.badSave = false →
    (∀ x ∈ s.groups, x.core = g.core → x.ctx = g.ctx → x.rec_ = some g.slot → x.gid = g.gid) →
    ∃ u, exec (.faultReplyArrival r.ctx r.die r.tag r.status r.cause r.k) s = .next u ∧ u.replies = [] ∧ MemorySame s u ∧
      t ∉ (u.dieAt r.die).tags ∧
      ∃ h, u.group? g.gid = some h ∧ h.wait = .ready ∧ h.slot = g.slot ∧ h.pc = g.pc ∧ h.em = g.em ∧ h.live = g.live) ∧
  (∀ s r, r ∉ s.replies → exec (.faultReplyArrival r.ctx r.die r.tag r.status r.cause r.k) s = .next s) ∧
  (∀ s r, s.replies = [r] → (s.dieAt r.die).tags = [] →
    ∃ u, exec (.faultReplyArrival r.ctx r.die r.tag r.status r.cause r.k) s = .next u ∧ u.replies = [] ∧
      (u.dieAt r.die).droppedReplies = (s.dieAt r.die).droppedReplies + 1 ∧ u.g = s.g ∧ u.grps = s.grps ∧ MemorySame s u) ∧
  (∀ s keys, ∃ t, exec (.machineCheck (.data keys)) s = .next t ∧ MemorySame s t ∧ (∀ k, k ∈ t.poison ↔ k ∈ keys ∨ k ∈ s.poison) ∧
    t = { s with poison := t.poison }) ∧
  (∀ s c, (s.coreAt c).swap.load = .loading →
    ∃ t, exec (.machineCheck (.shadowLoad c)) s = .next t ∧ (t.coreAt c).swap.load = .failed ∧ (t.coreAt c).swap.incoming = none ∧
      (t.dieAt c.die).mcLog.length = (s.dieAt c.die).mcLog.length + 1 ∧ t.notif.getLsbD 2 = true ∧ t.g = s.g ∧ t.grps = s.grps) ∧
  (∀ s die v, v < 12 → die < 8 → MemoryCanonical s → ClearUnit.vault die v ∈ s.clears → (∀ p ∈ s.stores, p.space ≠ .vlt die v) →
    ∃ t, exec (.partitionClear (.vault die v)) s = .next t ∧ ClearUnit.vault die v ∉ t.clears ∧
      (∀ off, off < 2 ^ 64 → t.byteAt (.vlt die v) off = 0) ∧
      (∀ sp off, off < 2 ^ 64 → sp.base ≠ (Space.vlt die v).base → t.byteAt sp off = s.byteAt sp off) ∧ t.g = s.g ∧ t.grps = s.grps) ∧
  (∀ s c, (s.coreAt c).swap.armed = none → exec (.swap c) s = .next s) ∧
  (∀ s c n, (s.coreAt c).swap.armed = some n → s.localTime c < n → exec (.swap c) s = .next s) ∧
  (∀ s c n, (s.coreAt c).swap.armed = some n → n ≤ s.localTime c → (s.coreAt c).status = .live → (s.coreAt c).swap.load = .loading →
    (s.coreAt c).swap.late = false →
    ∃ t, exec (.swap c) s = .next t ∧ (t.coreAt c).swap.late = true ∧ (t.dieAt c.die).lateSwaps = (s.dieAt c.die).lateSwaps + 1 ∧
      (∀ i ∈ (t.coreAt c).issuers, i.group = none) ∧ MemorySame s t ∧ t.g = s.g ∧ t.grps = s.grps) ∧
  (∀ s c n r, (s.coreAt c).swap.armed = some n → n ≤ s.localTime c → (s.coreAt c).status = .live → (s.coreAt c).swap.load = .loaded →
    (s.coreAt c).swap.incoming = some r → (s.dieAt c.die).strict = false → (∀ g ∈ s.groups, g.core = c → g.ctx = r.ctx → g.wait ≠ .parked ∧ g.badSave = false) →
    ∃ t, exec (.swap c) s = .next t ∧ (t.coreAt c).regs = r ∧ (t.coreAt c).swap.load = .idle ∧ (t.coreAt c).swap.armed = none ∧
      (r.part ≠ (s.coreAt c).regs.part → (t.coreAt c).tlb = [] ∧ ClearUnit.core c ∈ t.clears) ∧
      (t.coreAt c).swap.spilling = some (s.coreAt c).regs.ctx ∧ (t.coreAt c).swap.outgoing = (s.coreAt c).regs.ctx ∧ (t.coreAt c).l1 = [] ∧
      (t.coreAt c).swap.exchange =
        (List.range (4 * (s.coreAt c).split.scr)).map (fun k => (false, k)) ++ (List.range 48).map (fun k => (true, k)) ∧
      (∀ g ∈ t.groups, g.core = c → g.ctx = (s.coreAt c).regs.ctx → g.ctx ≠ r.ctx → g.place ≠ .core)) ∧
  (∀ s c, (s.coreAt c).swap.load ≠ .loading → exec (.shadowLoadComplete c) s = .next s) ∧
  (∀ s c r, (s.coreAt c).swap.load = .loading → (s.coreAt c).swap.incoming = some r →
    s.wordAt .pool (s.coreAt c).swap.frame 4 ≠ r.ctx.toNat →
    ∃ t, exec (.shadowLoadComplete c) s = .next t ∧ (t.coreAt c).swap.load = .failed ∧ MemorySame s t ∧ t.g = s.g ∧ t.grps = s.grps) ∧
  (∀ s c r, (s.coreAt c).swap.load = .loading → (s.coreAt c).swap.incoming = some r →
    s.wordAt .pool (s.coreAt c).swap.frame 4 = r.ctx.toNat → s.frameState (s.coreAt c).swap.frame ∈ [0, 3] →
    s.frameSplit (s.coreAt c).swap.frame = (s.coreAt c).split →
    ∃ t x, exec (.shadowLoadComplete c) s = .next t ∧ (t.coreAt c).swap.load = .loaded ∧ (t.coreAt c).swap.incoming = some x ∧ MemorySame s t ∧
      x.ctx = r.ctx ∧ x.part.toNat = s.wordAt .pool ((s.coreAt c).swap.frame + 4) 1 ∧
      x.ptbase = BitVec.ofNat 64 (s.wordAt .pool ((s.coreAt c).swap.frame + 8) 8) &&& csrMask 0x011 ∧
      x.tvb = BitVec.ofNat 64 (s.wordAt .pool ((s.coreAt c).swap.frame + 0x10) 8) &&& csrMask 0x000 ∧
      x.scopetab = BitVec.ofNat 64 (s.wordAt .pool ((s.coreAt c).swap.frame + 0x18) 8) &&& csrMask 0x013) ∧
  (∀ s c, (s.coreAt c).swap.spilling = none → exec (.spillComplete c) s = .next s) ∧
  (∀ s c, (s.coreAt c).status = .live → (∀ g ∈ s.groups, g.core ≠ c) →
    ∃ t, exec (.machineCheck (.coreLogic c [])) s = .next t ∧ (t.coreAt c).status = .fenced ∧ (∀ i ∈ (t.coreAt c).issuers, i.group = none) ∧
      (t.coreAt c).swap.load = .idle ∧ (t.coreAt c).swap.armed = none ∧ t.host.life.fenced = saturated s.host.life.fenced 1 ∧
      (t.dieAt c.die).mcLog.length = (s.dieAt c.die).mcLog.length + 1) ∧
  (∀ s c ctx fr, MemoryCanonical s → (s.coreAt c).swap.spilling = some ctx → s.frameOf c ctx = some fr → fr + 0x1000000 ≤ 2 ^ 52 →
    (∀ g ∈ s.groups, g.core ≠ c) →
    ∃ t, exec (.spillComplete c) s = .next t ∧ (t.coreAt c).swap.spilling = none ∧ t.wordAt .pool (fr + 0x24) 4 = 3 ∧ t.g = s.g ∧ t.grps = s.grps ∧
      (∀ off, off < 2 ^ 64 → off < fr ∨ fr + 0x1000000 ≤ off →
        (∀ fb, s.frameOf (State.burinHome c) ctx = some fb → off < fb + 0x10000 ∨ fb + 0x1E000 ≤ off) → t.byteAt .pool off = s.byteAt .pool off) ∧
      (∀ sp off, off < 2 ^ 64 → sp.base ≠ Space.pool.base → t.byteAt sp off = s.byteAt sp off)) ∧
  (∀ s c k, (s.coreAt c).swap.exchange[k]? = none → exec (.granuleExchange c k) s = .next s) ∧
  (∀ s c k n fo fi, MemoryCanonical s → (s.coreAt c).swap.exchange[k]? = some (false, n) → n < 64 →
    s.frameOf c (s.coreAt c).swap.outgoing = some fo → s.frameOf c (s.coreAt c).regs.ctx = some fi →
    fo + 0x1000000 ≤ fi ∨ fi + 0x1000000 ≤ fo → fo + 0x1000000 ≤ 2 ^ 52 → fi + 0x1000000 ≤ 2 ^ 52 → (s.frameSplit fo).regs ≤ 22 → (s.frameSplit fi).regs ≤ 22 →
    ∃ t, exec (.granuleExchange c k) s = .next t ∧ (false, n) ∉ (t.coreAt c).swap.exchange ∧ t.g = s.g ∧ t.grps = s.grps ∧
      (∀ i, i < 65536 → t.byteAt (.scr c) (65536 * n + i) =
        s.byteAt .pool (fi + 0x4C0000 + (s.frameSplit fi).regs * 262144 + 65536 * n + i)) ∧
      (∀ i, i < 65536 → t.byteAt .pool (fo + 0x4C0000 + (s.frameSplit fo).regs * 262144 + 65536 * n + i) = s.byteAt (.scr c) (65536 * n + i)))

namespace Sys2Proof.Claims

open Sys2Proof.Machine

/-! ## The Burin sequencer and its engine -/

/-- The instruction of the sequencer completes: its PC moves on, and nothing outside the sequencer changes (R261). -/
def seqDone (s : State) (q r : Sequencer) : State :=
  { s with w := { s.w with seq := some { r with pc := q.pc + 1, wait := .none } } }

/-- The sequencer waits at its PC, and nothing else changes (R292, R293). -/
def seqWaits (s : State) (q : Sequencer) (w : SeqWait) : State := { s with w := { s.w with seq := some { q with wait := w } } }

/-- The vector of a cause can be entered: its line is supervisor code and its slot 0 has TGT (R374). -/
def VectorReady (s : State) (cause : Nat) : Prop :=
  ∃ l line, s.fetchAt s.g true (State.vectorPc (s.regsOf s.g).tvb cause) = .ok (l, line) ∧
    line.tgt ((State.vectorPc (s.regsOf s.g).tvb cause).toNat % 5) = true

/-- The sequencer stops at its PC, and cause 0x10 with the sub-code is on its way to every group of the workgroup (R70, R262). -/
def seqStops (s : State) (q : Sequencer) (sub : Nat) : State :=
  let post (g : Group) : Group := if s.w.members.contains g.gid && g.wait != Wait.ended then
      { g with async := g.async ++ [⟨0x10, (q.pc <<< 8) ||| BitVec.ofNat 64 sub, true⟩] } else g
  { s with w := { s.w with seq := some { q with wait := .faulted } }, g := post s.g, grps := s.grps.map post }

/-- An instruction of the sequencer stops it with a sub-code: the groups of the workgroup that run take it at their next point, and one that waits
takes it at once (R70, R262). -/
def StopsAt (i : Instr) (s : State) (q : Sequencer) (sub : Nat) : Prop :=
  ((∀ g ∈ s.groups, g.gid ∈ s.w.members → State.atWait g = false) → exec i s = .next (seqStops s q sub)) ∧
  (s.w.members = [s.g.gid] → State.atWait s.g = true → s.inCore s.g = true → s.g.async = [] → s.g.trapState.tip = false →
    VectorReady s 0x10 → (∀ d ∈ s.g.deferred, d.kind ≠ .divide) →
    ∃ t, exec i s = .next t ∧ MemorySame s t ∧ t.w = (seqStops s q sub).w ∧ t.g.wait = .ready ∧ t.g.async = [] ∧
      t.g.pc = State.vectorPc (s.regsOf s.g).tvb 0x10 ∧ t.g.trapState.tepc = s.g.pc ∧ t.g.trapState.mode = true ∧
      t.g.trapState.tval = ((q.pc <<< 8) ||| BitVec.ofNat 64 sub))

def yOf (q : Sequencer) (n : BitVec 4) : DWord := q.y.getD n.toNat 0
def dOf (q : Sequencer) (n : BitVec 3) : Tsr := q.d.getD n.toNat 0

/-- The effective address of TSRW and of YMOV's load (R290, R294). -/
def addressOf (q : Sequencer) (y : BitVec 4) (disp : BitVec 32) : Nat := (yOf q y + disp.signExtend 64).toNat

/-- The engine of the sequencer's quad. -/
def engineOf (s : State) : Engine := s.engineAt s.w.quad

/-- The reservation table can take an operation of the sequencer (R261, R272). -/
def TableRoom (s : State) : Prop := (s.entriesOf s.w).length < 8 ∧ (engineOf s).entries.length < 32

/-- The windows of a pass are of a size and shape that R271 allows. -/
def PassExtents (f : PassFields) (a b : Tsr) : Prop :=
  1 ≤ Tsr.ext1 a ∧ Tsr.ext1 a ≤ 128 ∧ 1 ≤ Tsr.ext1 b ∧ Tsr.ext1 b ≤ 128 ∧ 32 ≤ Tsr.ext2 a ∧ Tsr.ext2 a ≤ 2048 ∧ Tsr.ext2 a % 32 = 0 ∧
    Tsr.ext2 b = Tsr.ext2 a ∧ (f.mode ≠ .bb → Tsr.ext2 a % Tsr.blk b = 0 ∧ Tsr.col0 b % Tsr.blk b = 0)

/-- The element formats of a pass (R269, R271). -/
def PassFormats (f : PassFields) (a b : Tsr) : Prop :=
  Tsr.elem a = 0 ∧ Tsr.elem b = (match f.mode with | .bb => 0 | .bq => 1 | .bf => 2 | .bi => 3)

/-- A window of ZIN or ZOUT of a size that R288 and R289 allow. -/
def TileExtents (t : Tsr) : Prop := 1 ≤ Tsr.ext1 t ∧ Tsr.ext1 t ≤ 128 ∧ 1 ≤ Tsr.ext2 t ∧ Tsr.ext2 t ≤ 128

/-- The operation `x` has been posted: it stands last in the table, eligible unless an earlier operation of its sequencer on the same tile
is unfinished, and the sequencer goes on (R261, R270, R272). -/
def Posted (i : Instr) (s : State) (q : Sequencer) (x : EngEntry) : Prop :=
  ∃ t y, exec i s = .next t ∧ (engineOf t).entries = (engineOf s).entries ++ [y] ∧ t.w = (seqDone s q q).w ∧
    y = { x with age := (engineOf s).age, state := y.state } ∧ (y.state = .waiting ∨ y.state = .eligible) ∧
    (y.state = .waiting ↔ ∃ o ∈ (engineOf s).entries, o.wid = s.w.wid ∧ o.age < (engineOf s).age ∧ o.zc = x.zc ∧ o.zt = x.zt ∧ o.finished = false) ∧
    t = { s with w := t.w, engines := t.engines }

/-- A TSR with one of its position fields advanced (R291). -/
def advanced (f : TadvFields) (q : Sequencer) (t : Tsr) : Tsr :=
  let lo := match f.fld with | .row0 => 512 | .col0 => 544 | .org2 => 576 | .org3 => 608
  let x := t.extractLsb' lo 32 + (if f.ysel then (yOf q f.yn).setWidth 32 else f.imm)
  BitVec.ofNat 1024 (t.toNat % 2 ^ lo + 2 ^ lo * x.toNat + 2 ^ (lo + 32) * (t.toNat / 2 ^ (lo + 32)))

/-- The numbered barrier that the sequencer meets. -/
def seqBar (s : State) (b : BitVec 4) : NumBar := s.w.nbars.getD b.toNat noBar

/-- The target of YBR. -/
def ybrTarget (q : Sequencer) (off : BitVec 32) : DWord := q.pc + off.signExtend 64

/-- A line that the sequencer may enter at a slot: present, executable and with the slot's TGT bit (R260, R450). -/
def SeqTarget (s : State) (target : DWord) (l : Leaf) (line : Line) : Prop :=
  s.translate s.w.first (s.ctxRegs s.w.first s.w.ctx) s.w.supervisor .fetch (State.lineVa target) = .ok l ∧
    line = (s.useLeaf s.w.first (s.ctxRegs s.w.first s.w.ctx) l false).fetchLine s.w.first l (State.lineVa target) ∧
    line.parityOk = true ∧ line.tgt (target.toNat % 5) = true

/-- R273: one eligible operation goes before another. -/
def Before (e x : EngEntry) : Prop :=
  (e.boost = true ∧ x.boost = false) ∨ (e.boost = true ∧ x.boost = true ∧ e.age < x.age) ∨
    (e.boost = false ∧ x.boost = false ∧ (x.pri < e.pri ∨ (x.pri = e.pri ∧ e.age < x.age)))

/-- An operation that the arbiter may grant. -/
def MayRun (s : State) (e : EngEntry) : Prop := e.state = .eligible ∧ s.entryLive e = true

/-- The CSRs under which an operation translates. -/
def entryRegs (s : State) (e : EngEntry) : CtxRegs := s.ctxRegs (s.entryCore e) e.ctx

/-- The fetch unit's TLB holds the page of an operand byte, which the operation may read (R202, R275). -/
def AheadHas (s : State) (q : QuadId) (e : EngEntry) (key : Nat) (l : Leaf) : Prop :=
  key < 2 ^ 64 ∧ canonical key = true ∧ s.aheadHit q (entryRegs s e) key = some l ∧
    State.leafCheck (entryRegs s e) (s.wgOf e.wid).supervisor .engineRead l = none

/-- Fewer than 14 ways of the set of an operand line are pinned (R276). -/
def WayFree (s : State) (l : Leaf) (key : Nat) : Prop :=
  let line := l.phys key / 256
  ((((s.engines.flatMap (·.pins)).filter fun p => s.sliceOf p.line == s.sliceOf line && Config.l2set p.line == Config.l2set line).map
    (·.line)).eraseDups).length < 14

/-- The running operation that still reads its operands. -/
def Reading (s : State) (q : QuadId) (e : EngEntry) : Prop :=
  (s.runningEntries q).find? (fun x => !x.opsDone && x.op != 3) = some e

end Sys2Proof.Claims

open Sys2Proof Sys2Proof.Machine Sys2Proof.Claims

/-- MMA, MMZ, ZIN and ZOUT post their operation with its windows as the descriptors stand, stall while the table is full, and stop the sequencer on a
bad window, a wrong element format, or a ZC that names no core (R261, R269 to R272, R287 to R289). -/
def Obligations.MatrixInstructionsPost : Prop :=
  (∀ (e : (PassFields → Instr) × Nat), e ∈ [(Instr.mma, 0), (Instr.mmz, 1)] → ∀ f s q core, s.w.seq = some q →
    PassExtents f (dOf q f.da) (dOf q f.db) → PassFormats f (dOf q f.da) (dOf q f.db) → s.w.zcCore f.zc.toNat = some core → TableRoom s →
    Posted (e.1 f) s q { s.newEntry q e.2 f.zt f.zc with
      mode := f.mode, m := Tsr.ext1 (dOf q f.da), n := Tsr.ext1 (dOf q f.db), k := Tsr.ext2 (dOf q f.da), pri := f.pri.toNat
      tsrA := dOf q f.da, tsrB := dOf q f.db }) ∧
  (∀ f s q core, s.w.seq = some q → TileExtents (dOf q f.dt) → Tsr.elem (dOf q f.dt) = 0 ∨ Tsr.elem (dOf q f.dt) = 4 →
    s.w.zcCore f.zc.toNat = some core → TableRoom s →
    Posted (.zin f) s q { s.newEntry q 2 f.zt f.zc with m := Tsr.ext1 (dOf q f.dt), n := Tsr.ext2 (dOf q f.dt), tsrA := dOf q f.dt }) ∧
  (∀ f s q core, s.w.seq = some q → TileExtents (dOf q f.dt) →
    Tsr.elem (dOf q f.dt) = 0 ∨ Tsr.elem (dOf q f.dt) = 4 ∨ Tsr.elem (dOf q f.dt) = 5 → s.w.zcCore f.zc.toNat = some core → TableRoom s →
    Posted (.zout f) s q { s.newEntry q 3 f.zt f.zc with
      m := Tsr.ext1 (dOf q f.dt), n := Tsr.ext2 (dOf q f.dt), tsrA := dOf q f.dt, rnd := f.rnd.toNat, satn := f.satn, ntz := f.ntz
      sce := if f.sce then some ((yOf q f.ys).toNat % 64) else none }) ∧
  (∀ (e : PassFields → Instr), e ∈ [Instr.mma, Instr.mmz] → ∀ f s q core, s.w.seq = some q → PassExtents f (dOf q f.da) (dOf q f.db) →
    PassFormats f (dOf q f.da) (dOf q f.db) → s.w.zcCore f.zc.toNat = some core → ¬TableRoom s → exec (e f) s = .next s) ∧
  (∀ (e : PassFields → Instr), e ∈ [Instr.mma, Instr.mmz] → ∀ f s q, s.w.seq = some q → ¬PassExtents f (dOf q f.da) (dOf q f.db) →
    StopsAt (e f) s q 0x11) ∧
  (∀ (e : PassFields → Instr), e ∈ [Instr.mma, Instr.mmz] → ∀ f s q, s.w.seq = some q → PassExtents f (dOf q f.da) (dOf q f.db) →
    ¬PassFormats f (dOf q f.da) (dOf q f.db) → StopsAt (e f) s q 0x12) ∧
  (∀ (e : PassFields → Instr), e ∈ [Instr.mma, Instr.mmz] → ∀ f s q, s.w.seq = some q → PassExtents f (dOf q f.da) (dOf q f.db) →
    PassFormats f (dOf q f.da) (dOf q f.db) → s.w.zcCore f.zc.toNat = none → StopsAt (e f) s q 0x13) ∧
  (∀ f s q, s.w.seq = some q → ¬TileExtents (dOf q f.dt) → StopsAt (.zin f) s q 0x11) ∧
  (∀ f s q, s.w.seq = some q → TileExtents (dOf q f.dt) → Tsr.elem (dOf q f.dt) ≠ 0 → Tsr.elem (dOf q f.dt) ≠ 4 → StopsAt (.zin f) s q 0x12) ∧
  (∀ f s q, s.w.seq = some q → TileExtents (dOf q f.dt) → Tsr.elem (dOf q f.dt) = 0 ∨ Tsr.elem (dOf q f.dt) = 4 →
    s.w.zcCore f.zc.toNat = none → StopsAt (.zin f) s q 0x13) ∧
  (∀ f s q core, s.w.seq = some q → TileExtents (dOf q f.dt) → Tsr.elem (dOf q f.dt) = 0 ∨ Tsr.elem (dOf q f.dt) = 4 →
    s.w.zcCore f.zc.toNat = some core → ¬TableRoom s → exec (.zin f) s = .next s) ∧
  (∀ f s q, s.w.seq = some q → ¬TileExtents (dOf q f.dt) → StopsAt (.zout f) s q 0x11) ∧
  (∀ f s q, s.w.seq = some q → TileExtents (dOf q f.dt) → Tsr.elem (dOf q f.dt) ∉ [0, 4, 5] → StopsAt (.zout f) s q 0x12) ∧
  (∀ f s q, s.w.seq = some q → TileExtents (dOf q f.dt) → Tsr.elem (dOf q f.dt) ∈ [0, 4, 5] → s.w.zcCore f.zc.toNat = none →
    StopsAt (.zout f) s q 0x13) ∧
  (∀ f s q core, s.w.seq = some q → TileExtents (dOf q f.dt) → Tsr.elem (dOf q f.dt) ∈ [0, 4, 5] → s.w.zcCore f.zc.toNat = some core →
    ¬TableRoom s → exec (.zout f) s = .next s)

/-- The sequencer's own instructions: descriptors and Y registers, barriers, waits on operations, branches and the end, with the sub-codes of Table 9-3
(R252, R254, R261 to R264, R267, R280, R290 to R295, R450). -/
def Obligations.SequencerInstructions : Prop :=
  (∀ f s q core t, s.w.seq = some q → f.sp = true → addressOf q f.ya f.disp % 128 = 0 → s.w.zcCore f.zc.toNat = some core →
    InCore s core s.w.ctx → addressOf q f.ya f.disp + 128 ≤ (s.coreAt core).split.scr * 262144 →
    (∀ i, i < 128 → s.poisoned (.scr core) (addressOf q f.ya f.disp + i) = false) →
    t = BitVec.ofNat 1024 (leNat ((List.range 128).map fun i => s.byteAt (.scr core) (addressOf q f.ya f.disp + i))) →
    (Tsr.valid t = true → exec (.tsrw f) s = .next (seqDone s q { q with d := q.d.set f.dt.toNat t })) ∧
    (Tsr.valid t = false → StopsAt (.tsrw f) s q 0x10)) ∧
  (∀ f s q core, s.w.seq = some q → f.sp = true → addressOf q f.ya f.disp % 128 = 0 → s.w.zcCore f.zc.toNat = some core →
    InCore s core s.w.ctx → (s.coreAt core).split.scr * 262144 < addressOf q f.ya f.disp + 128 → StopsAt (.tsrw f) s q 0x1A) ∧
  (∀ f s q core i, s.w.seq = some q → f.sp = true → addressOf q f.ya f.disp % 128 = 0 → s.w.zcCore f.zc.toNat = some core →
    InCore s core s.w.ctx → addressOf q f.ya f.disp + 128 ≤ (s.coreAt core).split.scr * 262144 → i < 128 →
    s.poisoned (.scr core) (addressOf q f.ya f.disp + i) = true → StopsAt (.tsrw f) s q 0x19) ∧
  (∀ f s q, s.w.seq = some q → f.sp = true → addressOf q f.ya f.disp % 128 = 0 → s.w.zcCore f.zc.toNat = none → StopsAt (.tsrw f) s q 0x13) ∧
  (∀ f s q l, s.w.seq = some q → f.sp = false → addressOf q f.ya f.disp % 128 = 0 →
    s.engineTranslate (s.ctxRegs s.w.first s.w.ctx) s.w.supervisor .engineRead (addressOf q f.ya f.disp) = .ok l → l.apt ≠ 2 →
    s.engineBad ⟨l.space, l.phys (addressOf q f.ya f.disp), some l⟩ (l.phys (addressOf q f.ya f.disp)) 128 = false →
    Tsr.valid (BitVec.ofNat 1024 (leNat (s.engineRead ⟨l.space, l.phys (addressOf q f.ya f.disp), some l⟩
      (l.phys (addressOf q f.ya f.disp)) 128))) = true →
    ∃ t, exec (.tsrw f) s = .next t ∧ MarkedPage s t false l ∧ t.g = s.g ∧
      t.w.seq = some { q with pc := q.pc + 1, wait := .none, d := q.d.set f.dt.toNat (BitVec.ofNat 1024 (leNat (s.engineRead
        ⟨l.space, l.phys (addressOf q f.ya f.disp), some l⟩ (l.phys (addressOf q f.ya f.disp)) 128))) }) ∧
  (∀ f s q, s.w.seq = some q → addressOf q f.ya f.disp % 128 ≠ 0 → StopsAt (.tsrw f) s q 0x15) ∧
  (∀ f s q, s.w.seq = some q → Tsr.valid (advanced f q (dOf q f.dt)) = true →
    exec (.tadv f) s = .next (seqDone s q { q with d := q.d.set f.dt.toNat (advanced f q (dOf q f.dt)) })) ∧
  (∀ f s q, s.w.seq = some q → Tsr.valid (advanced f q (dOf q f.dt)) = false → StopsAt (.tadv f) s q 0x10) ∧
  (∀ b e s q n, s.w.seq = some q → n = seqBar s b → (n.count = 0 ∨ n.count ≠ n.expect) → (n.count = 0 ∨ n.expect = e.toNat) →
    exec (.barr b e) s = .next { s with w := { s.w with
      nbars := s.w.nbars.set b.toNat { n with count := n.count + 1, expect := e.toNat, seq := some (q.waited || n.seq == some true) }
      seq := some { q with pc := q.pc + 1, wait := .none, arrivals := q.arrivals.set b.toNat (some n.phase) } } }) ∧
  (∀ b e s q n, s.w.seq = some q → n = seqBar s b → 0 < n.count → n.count ≠ n.expect → n.expect ≠ e.toNat →
    StopsAt (.barr b e) s q 0x14) ∧
  (∀ b s q p n, s.w.seq = some q → n = seqBar s b → (n.count = 0 ∨ n.count ≠ n.expect) → q.arrivals.getD b.toNat none = some p →
    p < n.phase → Performed s (releaseOf n p) → exec (.bwai b) s = .next (seqDone s q q)) ∧
  (∀ b s q p n, s.w.seq = some q → n = seqBar s b → (n.count = 0 ∨ n.count ≠ n.expect) → q.arrivals.getD b.toNat none = some p →
    p < n.phase → ¬Performed s (releaseOf n p) → exec (.bwai b) s = .next (seqWaits s q (.bwai b.toNat))) ∧
  (∀ b s q n, s.w.seq = some q → n = seqBar s b → (n.count = 0 ∨ n.count ≠ n.expect) → q.arrivals.getD b.toNat none = none →
    exec (.bwai b) s = .next (seqDone s q q)) ∧
  (∀ b s q p n, s.w.seq = some q → n = seqBar s b → (n.count = 0 ∨ n.count ≠ n.expect) → q.arrivals.getD b.toNat none = some p →
    n.phase ≤ p → exec (.bwai b) s = .next (seqWaits s q (.bwai b.toNat))) ∧
  (∀ s q, s.w.seq = some q → (∀ e ∈ s.entriesOf s.w, e.op = 3 ∨ e.opsDone = true ∨ e.finished = true) → exec .ordy s = .next (seqDone s q q)) ∧
  (∀ s q e, s.w.seq = some q → e ∈ s.entriesOf s.w → e.op ≠ 3 → e.opsDone = false → e.finished = false →
    exec .ordy s = .next (seqWaits s q .ordy)) ∧
  (∀ sel s q, s.w.seq = some q → (∀ e ∈ s.entriesOf s.w, e.finished = true) → exec (.mwt sel) s = .next (seqDone s q { q with waited := true })) ∧
  (∀ zt zc s q, s.w.seq = some q → (∀ e ∈ s.entriesOf s.w, e.zt = zt.toNat → e.zc = zc.toNat → e.finished = true) →
    exec (.mwt (.tile zt zc)) s = .next (seqDone s q { q with waited := true })) ∧
  (∀ s q e, s.w.seq = some q → e ∈ s.entriesOf s.w → e.finished = false → exec (.mwt .all) s = .next (seqWaits s q (.mwt .all))) ∧
  (∀ s q, s.w.seq = some q → (∀ e ∈ s.entriesOf s.w, e.finished = true) → exec .bend s = .next (seqWaits s q .ended)) ∧
  (∀ s q e, s.w.seq = some q → e ∈ s.entriesOf s.w → e.finished = false → exec .bend s = .next (seqWaits s q .bendWait)) ∧
  (∀ s q, s.w.seq = some q → exec .bnop s = .next (seqDone s q q)) ∧
  (∀ d y s q, s.w.seq = some q → exec (.ymov d (.reg y)) s = .next (seqDone s q { q with y := q.y.set d.toNat (yOf q y) })) ∧
  (∀ d x s q, s.w.seq = some q → exec (.ymov d (.imm x)) s = .next (seqDone s q { q with y := q.y.set d.toNat x })) ∧
  (∀ d y disp s q l, s.w.seq = some q → addressOf q y disp % 8 = 0 →
    s.engineTranslate (s.ctxRegs s.w.first s.w.ctx) s.w.supervisor .engineRead (addressOf q y disp) = .ok l → l.apt ≠ 2 →
    s.engineBad ⟨l.space, l.phys (addressOf q y disp), some l⟩ (l.phys (addressOf q y disp)) 8 = false →
    ∃ t, exec (.ymov d (.load y disp)) s = .next t ∧ MarkedPage s t false l ∧ t.g = s.g ∧
      t.w.seq = some { q with pc := q.pc + 1, wait := .none, y := q.y.set d.toNat (BitVec.ofNat 64 (leNat (s.engineRead
        ⟨l.space, l.phys (addressOf q y disp), some l⟩ (l.phys (addressOf q y disp)) 8))) }) ∧
  (∀ d y disp s q, s.w.seq = some q → addressOf q y disp % 8 ≠ 0 → StopsAt (.ymov d (.load y disp)) s q 0x15) ∧
  (∀ d y disp s q c lv, s.w.seq = some q → addressOf q y disp % 8 = 0 → c ≠ 0x08 →
    s.engineTranslate (s.ctxRegs s.w.first s.w.ctx) s.w.supervisor .engineRead (addressOf q y disp) = .fail c lv →
    StopsAt (.ymov d (.load y disp)) s q 0x16) ∧
  (∀ d a b s q, s.w.seq = some q → exec (.yadd d a (.reg b)) s = .next (seqDone s q { q with y := q.y.set d.toNat (yOf q a + yOf q b) })) ∧
  (∀ d a x s q, s.w.seq = some q → exec (.yadd d a (.imm x)) s = .next (seqDone s q { q with y := q.y.set d.toNat (yOf q a + x.signExtend 64) })) ∧
  (∀ y off s q, s.w.seq = some q → yOf q y ≠ 0 → exec (.ybr y .z off) s = .next (seqDone s q q)) ∧
  (∀ y off s q, s.w.seq = some q → yOf q y = 0 → exec (.ybr y .nz off) s = .next (seqDone s q q)) ∧
  (∀ y off s q, s.w.seq = some q → (yOf q y).getLsbD 63 = false → exec (.ybr y .lt off) s = .next (seqDone s q q)) ∧
  (∀ y off s q, s.w.seq = some q → (yOf q y).getLsbD 63 = true → exec (.ybr y .ge off) s = .next (seqDone s q q)) ∧
  (∀ y off s q, s.w.seq = some q → yOf q y = 1 → exec (.ybr y .dnz off) s = .next (seqDone s q { q with y := q.y.set y.toNat 0 })) ∧
  (∀ y c off s q l line, s.w.seq = some q → (c = .always ∨ (c = .z ∧ yOf q y = 0) ∨ (c = .nz ∧ yOf q y ≠ 0) ∨
      (c = .lt ∧ (yOf q y).getLsbD 63 = true) ∨ (c = .ge ∧ (yOf q y).getLsbD 63 = false)) → SeqTarget s (ybrTarget q off) l line →
    ∃ t, exec (.ybr y c off) s = .next t ∧ t.w = { s.w with seq := some { q with pc := ybrTarget q off, wait := .none } } ∧ t.g = s.g) ∧
  (∀ y off s q l line, s.w.seq = some q → yOf q y ≠ 1 → SeqTarget s (ybrTarget q off) l line →
    ∃ t, exec (.ybr y .dnz off) s = .next t ∧ t.g = s.g ∧
      t.w = { s.w with seq := some { q with pc := ybrTarget q off, wait := .none, y := q.y.set y.toNat (yOf q y - 1) } })

/-- The engine: the arbiter grants the operation that R273 puts first and counts those it passes over, the fetch unit reads operand lines, an operation
whose operands are read says so, and an ended one leaves its sums in its tile (R263, R269, R273 to R281, R288, R289). -/
def Obligations.EngineMoves : Prop :=
  (∀ s q e, (∀ x ∈ s.runningEntries q, x.op = 3 ∧ x.opsDone = true) → e ∈ (s.engineAt q).entries → MayRun s e →
    (∀ x ∈ (s.engineAt q).entries, MayRun s x → x ≠ e → Before e x) → ((s.engineAt q).entries.Pairwise fun x y => x.age ≠ y.age) →
    ∃ t, exec (.arbiterGrant q) s = .next t ∧ t = { s with engines := t.engines } ∧
      (t.engineAt q).entries.length = (s.engineAt q).entries.length ∧
      ∀ (i : Nat) (x y : EngEntry), (s.engineAt q).entries[i]? = some x → (t.engineAt q).entries[i]? = some y →
        (x = e → y = { x with state := .running }) ∧
        (x ≠ e → MayRun s x → y = { x with passed := min 31 (x.passed + 1), boost := x.boost || decide (31 ≤ x.passed + 1) }) ∧
        (¬MayRun s x → y = x)) ∧
  (∀ s q x, x ∈ s.runningEntries q → (x.op ≠ 3 ∨ x.opsDone = false) → exec (.arbiterGrant q) s = .next s) ∧
  (∀ (e : (QuadId → Instr) × Bool), e ∈ [(Instr.tileFetchLine, true), (Instr.pinTimeout, false)] → ∀ s q x key l, Reading s q x →
    x.needs.find? (fun k => !x.has k) = some key → AheadHas s q x key l → l.apt ≠ 2 → (e.2 = true → x.isPass = true → WayFree s l key) →
    (∀ k ∈ x.needs, k / 256 = key / 256 → s.engineBad ⟨l.space, l.phys key, some l⟩ (l.phys key / 256 * 256 + k % 256) 1 = false) →
    ∃ t y, exec (e.1 q) s = .next t ∧ MemorySame s t ∧ t.g = s.g ∧ t.w = s.w ∧
      y ∈ (t.engineAt q).entries ∧ y.age = x.age ∧ y.state = .running ∧ (∀ k ∈ x.needs, k / 256 = key / 256 → y.has k = true) ∧
      (e.2 = false → ¬WayFree s l key → (∀ en ∈ s.engines, ∀ p ∈ en.pins, p.line ≠ l.phys key / 256) →
        ∀ p ∈ (t.engineAt q).pins, p ∈ (s.engineAt q).pins)) ∧
  (∀ (e : QuadId → Instr), e ∈ [Instr.tileFetchLine, Instr.pinTimeout] → ∀ s q x key l, Reading s q x →
    x.needs.find? (fun k => !x.has k) = some key → key < 2 ^ 64 → (∀ va, va / 65536 = key / 65536 → s.aheadHit q (entryRegs s x) va = none) →
    s.engineTranslate (entryRegs s x) (s.wgOf x.wid).supervisor .engineRead key = .ok l →
    ∃ t, exec (e q) s = .next t ∧ MemorySame s t ∧ t.g = s.g ∧ t.w = s.w ∧ t.engineAt q = s.engineAt q ∧
      ∃ w ∈ (t.dieAt q.die).walks, w.who = .fetchUnit q ∧ w.page = key / 65536 ∧ w.ctx = (entryRegs s x).ctx) ∧
  (∀ (e : QuadId → Instr), e ∈ [Instr.tileFetchLine, Instr.pinTimeout] → ∀ s q x key lv, Reading s q x →
    x.needs.find? (fun k => !x.has k) = some key → key < 2 ^ 64 → canonical key = false ∨ s.aheadHit q (entryRegs s x) key = none →
    s.engineTranslate (entryRegs s x) (s.wgOf x.wid).supervisor .engineRead key = .fail 0x08 lv →
    ∃ t y, exec (e q) s = .next t ∧ t.g = s.g ∧ y ∈ (t.engineAt q).entries ∧ y.age = x.age ∧ y.state = .faulted) ∧
  (∀ (e : QuadId → Instr), e ∈ [Instr.tileFetchLine, Instr.pinTimeout, Instr.operandPhaseEnd] → ∀ s q,
    (s.runningEntries q).find? (fun x => !x.opsDone && x.op != 3) = none → exec (e q) s = .next s) ∧
  (∀ s q x, Reading s q x → (∀ k ∈ x.needs, x.has k = true) →
    ∃ t, exec (.operandPhaseEnd q) s = .next t ∧ t = { s with engines := t.engines } ∧
      (t.engineAt q).entries = (s.engineAt q).entries.map fun y => if y.age == x.age then { y with opsDone := true } else y) ∧
  (∀ s q x k, Reading s q x → k ∈ x.needs → x.has k = false → exec (.operandPhaseEnd q) s = .next s) ∧
  (∀ s q x core, MemoryCanonical s → s.runningEntries q = [x] → (s.engineAt q).entries = [x] → x.op < 2 → x.opsDone = true → x.zt < 64 →
    core = s.entryCore x → InCore s core x.ctx → x.m ≤ 128 → x.n ≤ 128 →
    ∃ t, exec (.engineOpDone q) s = .next t ∧ (t.engineAt q).entries = [] ∧ (t.engineAt q).pins = [] ∧ t.g = s.g ∧ t.stores = s.stores ∧
      (∀ m n, m < x.m → n < x.n → t.tileElem core x.ctx x.zt m n =
        (x.accumulate x.chunksLeft m n (if x.op = 1 ∧ x.kdone = 0 then 0 else s.tileElem core x.ctx x.zt m n)).1) ∧
      (∀ off, off < 2 ^ 64 → (∀ m n i, m < x.m → n < x.n → i < 4 → off ≠ 65536 * x.zt + 512 * m + 4 * n + i) →
        t.byteAt (.acc core) off = s.byteAt (.acc core) off) ∧
      (∀ sp off, off < 2 ^ 64 → sp.base ≠ (Space.acc core).base → t.byteAt sp off = s.byteAt sp off)) ∧
  (∀ s q x core, MemoryCanonical s → s.runningEntries q = [x] → (s.engineAt q).entries = [x] → x.op = 2 → x.opsDone = true → x.zt < 64 →
    core = s.entryCore x → InCore s core x.ctx → x.m ≤ 128 → x.n ≤ 128 →
    ∃ t, exec (.engineOpDone q) s = .next t ∧ (t.engineAt q).entries = [] ∧ t.g = s.g ∧ t.stores = s.stores ∧
      (∀ m n, m < x.m → n < x.n → t.tileElem core x.ctx x.zt m n =
        if x.kdone ≤ m then (zinElem (Tsr.value x.tsrA x.byte (Tsr.pos x.tsrA m n)).1).1 else s.tileElem core x.ctx x.zt m n)) ∧
  (∀ s q x, s.runningEntries q = [x] → (s.engineAt q).entries = [x] → x.op = 3 → x.opsDone = true →
    (∀ id ∈ x.writes, ∀ p ∈ s.stores, p.id ≠ id) →
    ∃ t, exec (.engineOpDone q) s = .next t ∧ (t.engineAt q).entries = [] ∧ MemorySame s t ∧ t.g = s.g) ∧
  (∀ s q x l a, s.runningEntries q = [x] → x.op = 3 → x.opsDone = false → x.m = 1 → x.n = 1 → x.kdone = 0 →
    Tsr.inb x.tsrA (Tsr.pos x.tsrA 0 0) = true → Tsr.space x.tsrA = 0 →
    a = Tsr.addrAt x.tsrA (Tsr.pos x.tsrA 0 0).1 (Tsr.pos x.tsrA 0 0).2 (Tsr.org x.tsrA 2) (Tsr.org x.tsrA 3) →
    s.engineTranslate (s.ctxRegs (s.entryCore x) x.ctx) (s.wgOf x.wid).supervisor .engineWrite a = .ok l → l.apt ≠ 2 →
    ∃ t p, exec (.engineOpDone q) s = .next t ∧ t.stores = s.stores ++ [p] ∧ p.id = s.nextId ∧ p.space = l.space ∧ p.off = l.phys a ∧
      p.effect = .write (leBytes (Tsr.elemBytes x.tsrA) (zoutElem (Tsr.floatFmt x.tsrA) (Rnd.ofCode x.rnd) x.satn x.ntz x.sce
        (s.tileElem (s.entryCore x) x.ctx x.zt 0 0)).1) ∧
      MarkedPage s t true l)

namespace Sys2Proof.Claims

open Sys2Proof.Machine

/-! ## Queues and launches -/

/-- The packet `p` at RI of the queue on a slot, from its launch window or from the ring, and the state after the read (R405 to R407). -/
structure Head (s : State) (slot : Nat) (q : HostQueue) (p : Packet) (s1 : State) : Prop where
  queue : s.queueOnSlot slot = some q
  mapped : q.state = .mapped
  there : q.ri < q.wic
  read : (q.inline_ = some p ∧ s1 = s) ∨ (q.inline_ = none ∧ ∃ bs,
    s.tableRead q.ctx (q.ring.toNat + 64 * (q.ri % 2 ^ q.log2n)) 64 = some (bs, s1) ∧ p = BitVec.ofNat 512 (leNat bs))

/-- The head may be dispatched: no error of Table 14-5, and with BAR every earlier packet has completed (R408, R415). -/
structure Dispatchable (s : State) (slot : Nat) (q : HostQueue) (p : Packet) (s1 : State) : Prop where
  head : Head s slot q p s1
  error : s1.packetError q p = none
  barrier : p.bar = true → q.ri ≤ q.ci

/-- The queue after a packet with no signal and no earlier packet in flight has been dispatched and completed: RI and CI have passed it. -/
def PacketDone (s t : State) (q : HostQueue) : Prop :=
  t.queueAt q.rec_ = some { q with ri := q.ri + 1, ci := q.ri + 1, wic := max q.wic (q.ri + 1), inline_ := none, flights := [] } ∧
    t.g = s.g ∧ t.grps = s.grps

/-- The queue has stopped with a code, RI stays, and QERR is set (R415, R423). -/
def QueueStopped (s t : State) (q : HostQueue) (c : Nat) : Prop :=
  t.queueAt q.rec_ = some { q with state := .error, err := c, inline_ := none } ∧ t.notif.getLsbD 1 = true ∧ t.g = s.g ∧ t.grps = s.grps

/-- A packet with no signal that stands alone in its queue. -/
def Alone (q : HostQueue) (p : Packet) : Prop := q.flights = [] ∧ p.sigop = 0

/-- The state in which a control operation acts: its packet has been taken (R405, R412). -/
def taken (s1 : State) (q : HostQueue) (p : Packet) : State := s1.takePacket q (State.flightOf q p none)

/-- The head is control operation `op` of a kernel queue, and its operand is `x` (R412). -/
def Control (s : State) (slot op x : Nat) (q : HostQueue) (p : Packet) (s1 : State) : Prop :=
  Dispatchable s slot q p s1 ∧ Alone q p ∧ p.type = 0x10 ∧ p.nat 64 8 = op ∧ p.nat 72 56 = x

/-- A host die of the kernel's pair that is no longer the holder of its lease (R434). -/
def Former (s : State) (from_ : Option Nat) : Prop :=
  ∃ h l, from_ = some h ∧ s.host.leases.find? (·.kind == .kernel) = some l ∧ l.epoch ≠ 0 ∧ h ≠ l.holder

/-- The launches of a packet's linked set that are dispatched now: those of this package, once all of the set stand ready at the heads of their
queues in the pod (R410, log entry 96). -/
def linkedGo (s : State) (p : Packet) : Nat :=
  let here := (s.host.queues.filter (s.linkedHead p.lset)).length
  let there := (s.linkedAt p.lset).theirs.foldl (fun n x => n + x.2) 0
  if (s.linkedAt p.lset).go ≠ 0 then (s.linkedAt p.lset).go else if p.lsetn ≤ here + there then here else 0

/-- Length of a lease in nanoseconds (R414, R434). -/
def leaseLength (k : LeaseKind) : Nat := match k with | .package => 2000000 | _ => 20000000

/-- The state has changed in the host die alone. -/
def HostOnly (s t : State) : Prop := t = { s with host := t.host }

end Sys2Proof.Claims

open Sys2Proof Sys2Proof.Machine Sys2Proof.Claims

/-- Queue engines: launch windows, the scanner, and the no-operation, launch, wait and signal packets, with the errors of Table 14-5 (R404 to R410,
R415, R434). The model's reading: a second window store of the same index keeps the first copy (log entry 76), how packages agree that a linked
set is complete (log entry 96), and which stream holds a signal on an EMIT page (log entry 36). -/
def Obligations.QueueEnginesAct : Prop :=
  (∀ s slot p from_, s.queueOnSlot slot = none → exec (.windowStore (.slot slot) p from_) s = .next s) ∧
  (∀ s r p from_, s.queueAt r = none → exec (.windowStore (.index r) p from_) s = .next s) ∧
  (∀ s r p q from_, s.queueAt r = some q → Former s from_ → q.kq = true →
    ∃ t, exec (.windowStore (.index r) p from_) s = .next t ∧ t.queueAt r = some { q with drops := q.drops + 1 } ∧ t.g = s.g ∧ t.grps = s.grps) ∧
  (∀ s r (p : BitVec 512) q from_ x l, MemoryCanonical s → s.queueAt r = some q → ¬Former s from_ ∨ q.kq = false → s.ctxTables q.ctx = some x →
    s.engineTranslate x false .store q.wiaddr.toNat = .ok l → l.apt = 0 → l.phys q.wiaddr.toNat + 8 ≤ 2 ^ 52 →
    ∃ t, exec (.windowStore (.index r) p from_) s = .next t ∧ t.wordAt .pool (l.phys q.wiaddr.toNat) 8 = p.toNat % 2 ^ 64 ∧
      t.host = s.host ∧ t.g = s.g ∧ t.grps = s.grps) ∧
  (∀ s slot p q from_, s.queueOnSlot slot = some q → (Former s from_ ∧ q.kq = true) ∨ q.state ≠ .mapped ∨ Packet.qtag p ≠ q.qtag ∨
      Packet.idx p ≠ BitVec.ofNat 32 q.ri →
    ∃ t, exec (.windowStore (.slot slot) p from_) s = .next t ∧ t.queueAt q.rec_ = some { q with drops := q.drops + 1 } ∧ t.g = s.g ∧ t.grps = s.grps) ∧
  (∀ s slot p q from_, s.queueOnSlot slot = some q → ¬Former s from_ ∨ q.kq = false → q.state = .mapped → Packet.qtag p = q.qtag →
      Packet.idx p = BitVec.ofNat 32 q.ri →
    ∃ t, exec (.windowStore (.slot slot) p from_) s = .next t ∧ t.g = s.g ∧ t.grps = s.grps ∧ t.queueAt q.rec_ = some { q with
      wic := max q.wic (q.ri + 1), interval := 1000, next := min q.next (s.dtime + 1000), inline_ := some (q.inline_.getD p) }) ∧
  (∀ s slot q, s.queueOnSlot slot = some q → s.dtime < q.next → exec (.queueScan slot) s = .next s) ∧
  (∀ s slot q bs s1, s.queueOnSlot slot = some q → q.state = .mapped → q.next ≤ s.dtime →
    s.tableRead q.ctx q.wiaddr.toNat 8 = some (bs, s1) →
    ∃ t i, exec (.queueScan slot) s = .next t ∧ i = (if leNat bs ≤ q.ri then min (2 * q.interval) 1024000 else 1000) ∧
      t.queueAt q.rec_ = some { q with wic := max q.wic (leNat bs), interval := i, next := s.dtime + i } ∧ t.g = s.g ∧ t.grps = s.grps) ∧
  (∀ s slot q p s1 c, Head s slot q p s1 → p.type < 2 → s1.packetError q p = some c →
    ∃ t, exec (.launchDispatch slot) s = .next t ∧ QueueStopped s t q c) ∧
  (∀ s slot q p s1, Dispatchable s slot q p s1 → Alone q p → p.type = 0 →
    ∃ t, exec (.launchDispatch slot) s = .next t ∧ PacketDone s t q) ∧
  (∀ s slot q p s1 bs s2 d, Dispatchable s slot q p s1 → p.type = 1 → s1.tableRead q.ctx p.kdesc.toNat 256 = some (bs, s2) →
    d = BitVec.ofNat 2048 (leNat bs) → s2.descError q p d = none → p.lset = 0 ∨ linkedGo s2 p ≠ 0 →
    ∃ t l, exec (.launchDispatch slot) s = .next t ∧ t.host.launches = s.host.launches ++ [l] ∧ t.g = s.g ∧ t.grps = s.grps ∧
      l.lid = s.nextId ∧ l.rec_ = q.rec_ ∧ l.idx = q.ri ∧ l.ctx = q.ctx ∧ l.packet = p ∧ l.desc = d ∧ l.placed = false ∧
      l.origin = none ∧ l.took + l.away = State.gridSize p ∧
      l.reserved = false ∧ l.heard = [] ∧ l.go = false ∧ (p.lset = 0 → l.pending = (List.range 8).map fun k => (k, (List.range (State.gridSize p)).filterMap fun w =>
        if (s2.homeOfWg q p d w).1 = s2.pkgIndex ∧ (s2.homeOfWg q p d w).2.1 = k then some (s2.homeOfWg q p d w).2.2 else none)) ∧
      t.queueAt q.rec_ = some { q with ri := q.ri + 1, wic := max q.wic (q.ri + 1), inline_ := none
                                       flights := q.flights ++ [⟨q.ri, p.sigop, p.sigaddr, p.sigval, some l.lid, false, none⟩] }) ∧
  (∀ s slot q p s1 bs s2 d, Dispatchable s slot q p s1 → p.type = 1 → s1.tableRead q.ctx p.kdesc.toNat 256 = some (bs, s2) →
    d = BitVec.ofNat 2048 (leNat bs) → s2.descError q p d = none → p.lset ≠ 0 → linkedGo s2 p = 0 →
    ∃ t, exec (.launchDispatch slot) s = .next t ∧ t.host.launches = s.host.launches ∧ t.host.queues = s.host.queues ∧ t.g = s.g ∧ t.grps = s.grps) ∧
  (∀ s slot q p s1 bs s2 d c, Dispatchable s slot q p s1 → p.type = 1 → s1.tableRead q.ctx p.kdesc.toNat 256 = some (bs, s2) →
    d = BitVec.ofNat 2048 (leNat bs) → s2.descError q p d = some c → ∃ t, exec (.launchDispatch slot) s = .next t ∧ QueueStopped s t q c) ∧
  (∀ s slot q p s1 bs s2, Dispatchable s slot q p s1 → Alone q p → p.type = 2 → s1.tableRead q.ctx p.sigaddr.toNat 8 = some (bs, s2) →
    (BitVec.ofNat 64 (leNat bs) - p.sigval).getLsbD 63 = false → ∃ t, exec (.waitPacket slot) s = .next t ∧ PacketDone s t q) ∧
  (∀ s slot q p s1 bs s2, Dispatchable s slot q p s1 → p.type = 2 → s1.tableRead q.ctx p.sigaddr.toNat 8 = some (bs, s2) →
    (BitVec.ofNat 64 (leNat bs) - p.sigval).getLsbD 63 = true →
    ∃ t, exec (.waitPacket slot) s = .next t ∧ t.host = s.host ∧ t.g = s.g ∧ t.grps = s.grps) ∧
  (∀ s slot q p s1, Dispatchable s slot q p s1 → Alone q p → q.ci = q.ri → p.type = 3 →
    ∃ t, exec (.signalPacket slot) s = .next t ∧ PacketDone s t q) ∧
  (∀ s slot q f r l, MemoryCanonical s → s.queueOnSlot slot = some q → s.queueAt q.rec_ = some q → q.state = .mapped → q.flights = [f] → f.done = false →
    f.launch = none → f.write = none → 1 ≤ f.sigop → f.sigop ≤ 2 → s.ctxTables q.ctx = some r → s.engineTranslate r false .store f.sigaddr.toNat = .ok l →
    l.space = .pool → l.apt ≠ 2 → l.emit = false → l.phys f.sigaddr.toNat + 8 ≤ 2 ^ 52 →
    (l.at_ < l.phys f.sigaddr.toNat ∨ l.phys f.sigaddr.toNat + 8 ≤ l.at_) →
    (q.rec_ + 64 ≤ l.phys f.sigaddr.toNat ∨ l.phys f.sigaddr.toNat + 8 ≤ q.rec_) →
    ∃ t, exec (.signalPacket slot) s = .next t ∧ t.queueAt q.rec_ = some { q with flights := [], ci := q.ri } ∧
      t.wordAt .pool (l.phys f.sigaddr.toNat) 8 = (if f.sigop = 1 then f.sigval.toNat
        else (s.wordAt .pool (l.phys f.sigaddr.toNat) 8 + f.sigval.toNat) % 2 ^ 64) ∧ t.g = s.g ∧ t.grps = s.grps) ∧
  (∀ s slot q f r l, s.queueOnSlot slot = some q → s.queueAt q.rec_ = some q → q.state = .mapped → q.flights = [f] → f.done = false →
    f.launch = none → f.write = none → 1 ≤ f.sigop → f.sigop ≤ 2 → s.ctxTables q.ctx = some r → s.engineTranslate r false .store f.sigaddr.toNat = .ok l →
    l.apt ≠ 2 → l.emit = true →
    ∃ t x, exec (.signalPacket slot) s = .next t ∧
      t.queueAt q.rec_ = some { q with flights := [{ f with write := some x.id }], ci := f.idx } ∧ t.stores = s.stores ++ [x] ∧
      x.space = l.space ∧ x.off = l.phys f.sigaddr.toNat ∧ x.size = 8 ∧ x.gate.map (·.1) = some q.ctx ∧ t.g = s.g ∧ t.grps = s.grps ∧
      x.effect = if f.sigop = 1 then .write (leBytes 8 f.sigval.toNat) else .rmw 0 .n64 f.sigval 0 none) ∧
  (∀ s slot q f r l, s.queueOnSlot slot = some q → s.queueAt q.rec_ = some q → q.state = .mapped → q.flights = [f] → f.done = false →
    f.launch = none → f.write = none → 1 ≤ f.sigop → f.sigop ≤ 2 → s.ctxTables q.ctx = some r →
    s.engineTranslate r false .store f.sigaddr.toNat = .ok l → l.apt = 2 → s.hostGone (l.phys f.sigaddr.toNat) = false →
    ∃ t more, exec (.signalPacket slot) s = .next t ∧ t.queueAt q.rec_ = some { q with flights := [], ci := q.ri } ∧ t.g = s.g ∧ t.grps = s.grps ∧
      t.fabric.outbound = s.fabric.outbound ++ (if f.sigop = 1 then Outbound.ioWrite (l.phys f.sigaddr.toNat) (leBytes 8 f.sigval.toNat)
        else .ioAtomic (l.phys f.sigaddr.toNat) 0 .n64 f.sigval 0) :: more) ∧
  (∀ s slot q f r c lv, s.queueOnSlot slot = some q → s.queueAt q.rec_ = some q → q.state = .mapped → q.flights = [f] → f.done = false →
    f.launch = none → f.write = none → 1 ≤ f.sigop → s.ctxTables q.ctx = some r →
    s.engineTranslate r false .store f.sigaddr.toNat = .fail c lv → ∃ t, exec (.signalPacket slot) s = .next t ∧ QueueStopped s t q 0x07)

/-- Distributors and the end of a launch: a group starts at its entry with the registers of Table 14-4, a die steals from the tail of the fullest
sibling, and a launch that has finished completes its packet (R410, R411, R417 to R419). The model's reading: the workgroups that another package
takes come four from the tail of the fullest die, leave as shares and count as away (log entry 51), and co-resident shares tell each other of
their places (log entry 96). -/
def Obligations.LaunchesRun : Prop :=
  (∀ s die l p rest c slot wid gid, s.host.launches = [l] → s.host.stepped = true → l.packet.notBefore ≤ s.dtime → l.placed = false → l.desc.cores = false →
    l.desc.quad = false → l.desc.bentry = 0 → l.desc.groups = 1 → State.pendingOn l die = p :: rest → s.findPlace l die [] p = some [c] →
    (s.coreAt c).split = l.desc.split → s.freeSlot c l.ctx = some slot → wid = s.nextId → gid = s.nextId + 1 →
    (∀ g ∈ s.groups, g.gid < s.nextId) → (∀ w ∈ s.workgroups, w.wid < s.nextId) →
    ({ s with g := taskGroup c l.ctx l.desc.super } : State).targetCheck (BitVec.ofNat 64 (l.desc.entry / 64 * 5)) = none →
    ∃ t g w, exec (.workgroupPlace (.here die)) s = .next t ∧ MemorySame s t ∧
      t.host.launches = [{ l with
        pending := l.pending.map fun x => if x.1 == die then (die, rest) else x, drain := l.drain.filter (· != c) }] ∧
      t.wg? wid = some w ∧ w.members = [gid] ∧ w.cores = [c] ∧ w.launch = l.lid ∧ w.seq = none ∧
      t.group? gid = some g ∧ g.core = c ∧ g.slot = slot ∧ g.ctx = l.ctx ∧ g.part = l.part ∧ g.wid = wid ∧ g.grp = 0 ∧ g.wait = .ready ∧
      g.pc = BitVec.ofNat 64 (l.desc.entry / 64 * 5) ∧ g.em = ~~~0 ∧ g.live = ~~~0 ∧ g.trapState.mode = l.desc.super ∧ g.stroke = none ∧
      g.v = List.replicate l.desc.vregs (List.replicate 96 0) ∧ g.thrd = (List.range 96).map (BitVec.ofNat 32) ∧
      g.s = [l.packet.karg.setWidth 32, l.packet.karg.extractLsb' 32 32, BitVec.ofNat 32 (p.w % l.packet.gridX),
        BitVec.ofNat 32 (p.w / l.packet.gridX % l.packet.gridY), BitVec.ofNat 32 (p.w / (l.packet.gridX * l.packet.gridY)), 0, 1,
        BitVec.ofNat 32 l.idx] ++ List.replicate 52 0) ∧
  (∀ s die l, s.host.launches = [l] → s.dtime < l.packet.notBefore ∨ s.host.stepped = false → exec (.workgroupPlace (.here die)) s = .next s) ∧
  (∀ s die l, s.host.launches = [l] → l.desc.cores = true → l.origin.isSome = true ∨ l.away ≠ 0 → l.go = false →
    ∃ t, exec (.workgroupPlace (.here die)) s = .next t ∧ t.groups = s.groups ∧ MemorySame s t) ∧
  (∀ s die l from_ ps, s.host.launches = [l] → l.pending.map (·.1) = List.range 8 → State.pendingOn l die = [] → l.desc.cores = false →
    l.desc.aff ≠ 2 → die ∈ s.allowedDies l.packet → (s.findPlace l die [] ⟨0, none, none⟩).isSome = true → State.fullest l = some from_ →
    ps = State.pendingOn l from_ →
    ∃ t l', exec (.workSteal (.sibling die)) s = .next t ∧ t.host.launches = [l'] ∧ HostOnly s t ∧
      State.pendingOn l' from_ = ps.take (ps.length - 4) ∧ State.pendingOn l' die = (ps.drop (ps.length - 4)).map (fun p => { p with pref := none }) ∧
      ∀ k, k ≠ die → k ≠ from_ → State.pendingOn l' k = State.pendingOn l k) ∧
  (∀ s lid l, s.host.launches.find? (·.lid == lid) = some l → s.launchDone l = false → exec (.launchComplete ⟨lid, 0⟩) s = .next s) ∧
  (∀ (s : State) (l : Launch) (g : Group), g ∈ s.groups → g.launch.launch = l.lid → g.wait ≠ .ended → s.launchDone l = false) ∧
  (∀ s lid l q f, s.host.launches.find? (·.lid == lid) = some l → s.launchDone l = true → s.queueAt l.rec_ = some q → q.flights = [f] →
    f.idx = l.idx → f.sigop = 0 → l.origin = none →
    ∃ t, exec (.launchComplete ⟨lid, 0⟩) s = .next t ∧ t.host.launches = s.host.launches.filter (·.lid != lid) ∧
      t.queueAt l.rec_ = some { q with flights := [], ci := q.ri } ∧ t.g = s.g ∧ t.grps = s.grps) ∧
  (∀ s lid l o, s.host.launches.find? (·.lid == lid) = some l → s.launchDone l = true → l.origin = some o →
    ∃ t, exec (.launchComplete ⟨lid, 0⟩) s = .next t ∧ t.host.launches = s.host.launches.filter (·.lid != lid) ∧
      SentOut s t (.ended o.1 o.2 l.took) ∧ t.g = s.g ∧ t.grps = s.grps) ∧
  (∀ s lid l n, s.host.launches = [l] → l.lid = lid → l.origin = none → n < l.away →
    exec (.launchComplete ⟨lid, n⟩) s = .next { s with host := { s.host with launches := [{ l with away := l.away - n }] } }) ∧
  (∀ s l x, s.host.launches = [l] → l.origin.getD (s.pkg, l.lid) = (x.pkg, x.lid) → x.die ∈ s.allowedDies x.packet → l.pending.map (·.1) = List.range 8 →
    ∃ t l', exec (.workgroupPlace (.arrives x)) s = .next t ∧ HostOnly s t ∧ t.host.launches = [l'] ∧ l'.took = l.took + 1 ∧
      l'.placed = false ∧ l'.reserved = false ∧
      (∀ p, p ∈ State.pendingOn l' x.die ↔ p ∈ State.pendingOn l x.die ∨ p = ⟨x.w, x.pref, x.named⟩) ∧
      ∀ k, k ≠ x.die → State.pendingOn l' k = State.pendingOn l k) ∧
  (∀ s l from_ ps pkg, s.host.launches = [l] → l.pending.map (·.1) = List.range 8 → l.desc.cores = false → l.desc.aff ≠ 2 → pkg / 64 = s.vuv →
    pkg % 64 ∈ s.othersAllowed l.packet → l.origin = none → State.fullest l = some from_ → ps = State.pendingOn l from_ →
    ∃ t l', exec (.workSteal (.taken pkg l.lid)) s = .next t ∧ t.host.launches = [l'] ∧ MemorySame s t ∧ t.groups = s.groups ∧
      State.pendingOn l' from_ = ps.take (ps.length - 4) ∧ l'.away = l.away + min 4 ps.length ∧
      ((∃ k ∈ s.fabric.links, State.keyed k = true) → t.fabric.outbound = s.fabric.outbound ++ (ps.drop (ps.length - 4)).map fun p =>
        .share pkg (State.shareOf s l from_ { p with pref := none }))) ∧
  (∀ s l pkg, s.host.launches = [l] → pkg / 64 ≠ s.vuv ∨ pkg % 64 ∉ s.othersAllowed l.packet → exec (.workSteal (.taken pkg l.lid)) s = .next s)

/-- Control operations on queues, firmware commands under their epoch, and leases (R403, R412 to R414, R416, R434). The model's reading: a control
operation whose check fails does nothing (log entry 25), a reset ends its groups at once (log entry 70), and when a new leader maps its queues
again (log entry 19). -/
def Obligations.FirmwareActs : Prop :=
  (∀ s slot x q p s1 r, Control s slot 1 x q p s1 → r = (taken s1 q p).recordQueue (64 * x) → (taken s1 q p).recordOk (64 * x) r = true →
    r.kq = false →
    ∃ t, exec (.queueRegister slot) s = .next t ∧ PacketDone s t q ∧ t.queueAt (64 * x) = some r ∧ r.rec_ = 64 * x ∧ r.state = .registered) ∧
  (∀ s slot x q p s1 r, Control s slot 1 x q p s1 → r = (taken s1 q p).recordQueue (64 * x) →
    (taken s1 q p).recordOk (64 * x) r = false ∨ r.kq = true →
    ∃ t, exec (.queueRegister slot) s = .next t ∧ PacketDone s t q ∧ t.host.queues.length = s.host.queues.length) ∧
  (∀ s slot x q p s1 y, Control s slot 2 x q p s1 → 64 * x ≠ q.rec_ → s.queueAt (64 * x) = some y → y.state = .registered ∨ y.state = .resetDone →
    ∃ t, exec (.queueDeregister slot) s = .next t ∧ PacketDone s t q ∧ t.queueAt (64 * x) = none) ∧
  (∀ s slot x q p s1 y, Control s slot 3 x q p s1 → 64 * x ≠ q.rec_ → s.queueAt (64 * x) = some y →
    ∃ t z, exec (.queueReset slot) s = .next t ∧ t.queueAt (64 * x) = some z ∧ z.slot = none ∧ z.flights = [] ∧ z.inline_ = none ∧
      ((z.state = .resetDone ∧ z.err = 0 ∧ z.ci = z.ri) ∨
        (z.state = .resetting ∧ z.resetter = (q.rec_, q.ri) ∧ (z.quiesce ≠ [] ∨ z.drains ≠ []))) ∧
      (∀ l ∈ t.host.launches, l.origin = none → l.rec_ ≠ 64 * x) ∧
      (∀ g ∈ t.groups, (∃ l ∈ s.host.launches, l.origin = none ∧ l.rec_ = 64 * x ∧ l.lid = g.launch.launch) → g.wait = .ended)) ∧
  (∀ (s : State) r y bs u, s.queueAt r = some y → s.tableRead y.ctx y.wiaddr.toNat 8 = some (bs, u) →
    (s.finishReset r).queueAt r = some { y with
      state := .resetDone, slot := none, inline_ := none, flights := [], ri := leNat bs, ci := leNat bs, wic := leNat bs, err := 0, drains := [] }) ∧
  (∀ s slot x q p s1 y, Control s slot 4 x q p s1 → 64 * (x / 256) ≠ q.rec_ → s.queueAt (64 * (x / 256)) = some y →
    ∃ t, exec (.queuePriority slot) s = .next t ∧ PacketDone s t q ∧ t.queueAt (64 * (x / 256)) = some { y with pri := x % 16 }) ∧
  (∀ s epoch, epoch < s.host.maxEpoch → (∀ r, exec (.map epoch r) s = .next s) ∧ (∀ k, exec (.unmap epoch k) s = .next s) ∧
    ∀ ds c f n, exec (.switch epoch ds c f n) s = .next s) ∧
  (∀ s epoch r q k, s.host.maxEpoch ≤ epoch → s.queueAt r = some q → q.slot = none → q.state ≠ .error → s.freeEngineSlot = some k →
    ∃ t x, exec (.map epoch r) s = .next t ∧ t.host.maxEpoch = epoch ∧ t.queueAt r = some x ∧ x.slot = some k ∧ x.state = .mapped ∧
      x.ri = s.wordAt .pool (r + 48) 8 ∧ x.drops = s.wordAt .pool r 8 ∧ x.wic = x.ri ∧ x.interval = 1000 ∧ x.next = s.dtime + 1000 ∧ t.g = s.g ∧ t.grps = s.grps) ∧
  (∀ s epoch k q, s.host.maxEpoch ≤ epoch → s.queueOnSlot k = some q →
    ∃ t, exec (.unmap epoch k) s = .next t ∧ t.host.maxEpoch = epoch ∧ t.host.launches = s.host.launches ∧
      t.queueAt q.rec_ = some { q with slot := none, inline_ := none, state := if q.state = .error then .error else .registered } ∧
      t.g = s.g ∧ t.grps = s.grps) ∧
  (∀ s epoch d ctx (frame time : DWord), s.host.maxEpoch ≤ epoch →
    (∀ c ∈ s.liveCores d, (s.coreAt c).swap.armed = none ∧ (s.coreAt c).swap.spilling = none ∧ s.localTime c < time.toNat) →
    ∃ t, exec (.switch epoch [d] ctx frame time) s = .next t ∧ t.host.maxEpoch = epoch ∧ MemorySame s t ∧ t.g = s.g ∧ t.grps = s.grps ∧
      ∀ c ∈ s.liveCores d, (t.coreAt c).swap = { (s.coreAt c).swap with
        load := .loading, frame := frame.toNat + c.core * 0x1000000, incoming := some ⟨ctx, 0, 0, 0, 0, []⟩, armed := some time.toNat }) ∧
  (∀ s epoch d ctx frame time c, s.host.maxEpoch ≤ epoch → c ∈ s.liveCores d → (s.coreAt c).swap.armed ≠ none →
    exec (.switch epoch [d] ctx frame time) s = .next { s with host := { s.host with maxEpoch := epoch } }) ∧
  (∀ s k l, l ∈ s.host.leases → s.leaseOf k = l → l.kind = k → s.dtime ≤ l.expiry → k ≠ .package ∨ s.host.remap = [] →
    ∃ t, exec (.leaseRenew k) s = .next t ∧ HostOnly s t ∧ t.leaseOf k = { l with expiry := s.dtime + leaseLength k } ∧
      ∀ j, j ≠ k → t.leaseOf j = s.leaseOf j) ∧
  (∀ s r q n, s.dtime ≤ (s.leaseOf .package).expiry → s.host.remap = [r] → s.host.maxEpoch ≤ (s.leaseOf .package).epoch → s.queueAt r = some q →
    q.slot = none → q.state ≠ .error → s.freeEngineSlot = some n →
    ∃ t x, exec (.leaseRenew .package) s = .next t ∧ t.host.remap = [] ∧ t.host.maxEpoch = (s.leaseOf .package).epoch ∧
      t.queueAt r = some x ∧ x.slot = some n ∧ x.state = .mapped ∧ t.g = s.g ∧ t.grps = s.grps) ∧
  (∀ s k, (s.leaseOf k).expiry < s.dtime → exec (.leaseRenew k) s = .next s) ∧
  (∀ s k h l, l ∈ s.host.leases → s.leaseOf k = l → l.kind = k → s.mayTake k h = true → l.expiry + 1000 < s.dtime →
    ∃ t, exec (.leaseTakeover k h) s = .next t ∧ t.notif.getLsbD 3 = true ∧ t.g = s.g ∧ t.grps = s.grps ∧
      t.leaseOf k = { l with holder := h, epoch := l.epoch + 1, expiry := s.dtime + leaseLength k } ∧
      (k = .package → s.host.maxEpoch ≤ l.epoch + 1 → (∀ q ∈ t.host.queues, q.slot = none) ∧
        t.host.remap = (s.host.queues.filter (·.slot.isSome)).map (·.rec_))) ∧
  (∀ s k h, s.dtime ≤ (s.leaseOf k).expiry + 1000 ∨ s.mayTake k h = false → exec (.leaseTakeover k h) s = .next s) ∧
  (∀ s l, l ∈ s.host.leases → s.leaseOf .kernel = l → l.kind = .kernel → l.expiry < s.dtime →
    ∃ t, exec .kernelTakeover s = .next t ∧ t.leaseOf .kernel = { l with holder := 1 - l.holder, epoch := l.epoch + 1, expiry := s.dtime + 20000000 } ∧
      t.fabric.outbound = s.fabric.outbound ++ ((List.range 5).filter s.notif.getLsbD).flatMap fun b => [Outbound.interrupt b, .msix b]) ∧
  (∀ s, s.dtime ≤ (s.leaseOf .kernel).expiry → exec .kernelTakeover s = .next s)

/-- The endpoint, the ports, time, the root of trust, the lifetime record and power (R420, R422 to R433). The model's choice: one boot event does all
of R427, and what survives it (log entry 20); memory that nothing has written reads 0 (log entry 1); the widths of the lifetime counters (log
entry 21); the descriptor and the tag of a frame (log entry 98); slewing in parts of a clock (log entry 4). -/
def Obligations.PlatformEvents : Prop :=
  (∀ s, ∃ t, exec .notificationRead s = .next t ∧ t.fabric.outbound = s.fabric.outbound ++ [.completion (leBytes 4 s.notif.toNat)] ∧
    t.notif = s.notif &&& 0x17 ∧ MemorySame s t ∧ t.g = s.g ∧ t.grps = s.grps) ∧
  (∀ s base part off len, s.host.aperture = (base, part) → s.host.pcieDown = false → (∀ i, i < len → s.isStale part (base + off + i) = false) →
    off + len ≤ 2 ^ 36 →
    ∃ t, exec (.pcieHostAccess (.read off len)) s = .next t ∧ MemorySame s t ∧ t.fabric.outbound = s.fabric.outbound ++
      [.completion ((List.range len).map fun i => s.byteAt .pool (base + off + i))]) ∧
  (∀ s base part off (data : List Byte), MemoryCanonical s → s.host.aperture = (base, part) → s.host.pcieDown = false → base < 2 ^ 52 →
    off + data.length ≤ 2 ^ 36 →
    ∃ t, exec (.pcieHostAccess (.write off data)) s = .next t ∧ t.g = s.g ∧ t.grps = s.grps ∧
      (∀ i x, data[i]? = some x → t.byteAt .pool (base + off + i) = x) ∧
      (∀ a, a < 2 ^ 64 → a < base + off ∨ base + off + data.length ≤ a → t.byteAt .pool a = s.byteAt .pool a) ∧
      (∀ sp a, a < 2 ^ 64 → sp.base ≠ Space.pool.base → t.byteAt sp a = s.byteAt sp a)) ∧
  (∀ s base part off v, MemoryCanonical s → s.host.aperture = (base, part) → s.host.pcieDown = false → base < 2 ^ 52 → off % 8 = 0 →
    off + 8 ≤ 2 ^ 36 → (∀ i, i < 8 → s.isStale part (base + off + i) = false ∧ s.poisoned .pool (base + off + i) = false) →
    ∃ t, exec (.pcieHostAccess (.fetchAdd off true v)) s = .next t ∧
      t.wordAt .pool (base + off) 8 = (s.wordAt .pool (base + off) 8 + v.toNat) % 2 ^ 64 ∧
      t.fabric.outbound = s.fabric.outbound ++ [.completion (leBytes 8 (s.wordAt .pool (base + off) 8))]) ∧
  (∀ s a, s.host.pcieDown = true → (∀ r, a = .management r → r = .aperture) → exec (.pcieHostAccess a) s = .next s) ∧
  (∀ s, s.host.pcieDown = false → exec (.pcieHostAccess (.management .aperture)) s = .next { s with fabric := { s.fabric with
    outbound := s.fabric.outbound ++ [.completion (leBytes 8 s.host.aperture.1 ++ [s.host.aperture.2])] } }) ∧
  (∀ s, ∃ t, exec (.pcieHostAccess (.management .lifetime)) s = .next t ∧ MemorySame s t ∧ t.g = s.g ∧ t.grps = s.grps ∧
    t.fabric.outbound = s.fabric.outbound ++ [.completion (State.lifeBytes t.host.life)] ∧
    t.host.life.onTime = saturated s.host.life.onTime (s.dtime - s.host.countedAt) ∧ t.host.countedAt = s.dtime) ∧
  (∀ s, exec (.pcieHostAccess (.management .bootStatus)) s = .next { s with fabric := { s.fabric with
    outbound := s.fabric.outbound ++ [.completion (leBytes 8 (s.host.bootStatus.getD 0).toNat)] } }) ∧
  (∀ s base part, base % 2 ^ 36 = 0 → base < 2 ^ 52 →
    exec (.apertureConfig base part) s = .next { s with host := { s.host with aperture := (base, part) } }) ∧
  (∀ s base part, base % 2 ^ 36 ≠ 0 ∨ 2 ^ 52 ≤ base → exec (.apertureConfig base part) s = .next s) ∧
  (∀ s port desc d frame, port < 2 → d = Config.txDescriptor (s.bytesAt .pool desc 64) →
    frame = Ethernet.sent d (s.bytesAt .pool d.buf d.len) → frame.length ≤ 9216 →
    (∀ p ∈ s.stores, p.space = .pool → p.off + p.size ≤ desc ∨ desc + 64 ≤ p.off) →
    exec (.ethTransmit port desc d.buf d.len) s = .next { s with fabric := { s.fabric with
      outbound := s.fabric.outbound ++ [.frame port frame (if d.stamp = true then some s.dtime else none)] } }) ∧
  (∀ s port desc buf len d, d = Config.txDescriptor (s.bytesAt .pool desc 64) → buf ≠ d.buf ∨ len ≠ d.len →
    exec (.ethTransmit port desc buf len) s = .next s) ∧
  (∀ (d : Config.TxDescriptor) (frame : List Byte) v, d.checksums = false → 12 ≤ frame.length →
    (d.vlan = none → Ethernet.sent d frame = frame) ∧
    (d.vlan = some v → (Ethernet.sent d frame).take 12 = frame.take 12 ∧ ((Ethernet.sent d frame).drop 12).take 4 =
      [0x81, 0x00, v.extractLsb' 8 8, v.extractLsb' 0 8] ∧ (Ethernet.sent d frame).drop 16 = frame.drop 12)) ∧
  (∀ s port desc buf len p, p ∈ s.stores → p.space = .pool → p.off < desc + 64 → desc < p.off + p.size →
    exec (.ethTransmit port desc buf len) s = .next s) ∧
  (∀ s up off, s.host.stepped = true →
    ∃ t, exec (.dtimeExchange (.upstream up) off) s = .next t ∧ t.dtime = s.dtime ∧ t.host.lastExchange = s.dtime ∧ t.host.master = false ∧
      t.host.lead = ((up : Int) - (s.dtime : Int)) * 50000 - (s.dfrac : Int) ∧ (t.notif.getLsbD 4 = true ↔ 4 < off) ∧ MemorySame s t) ∧
  (∀ s up off, s.host.stepped = false → s.grps = [] →
    ∃ t, exec (.dtimeExchange (.upstream up) off) s = .next t ∧ t.dtime = max s.dtime up ∧ t.host.stepped = true) ∧
  (∀ s off, ∃ t, exec (.dtimeExchange .master off) s = .next t ∧ t.dtime = s.dtime ∧ t.host.master = true ∧ t.host.stepped = true ∧
    t.host.lead = 0 ∧ t.host.lastExchange = s.dtime ∧ MemorySame s t) ∧
  (∀ (s : State) (n : Nat), s.dfrac < 50000 → s.host.lead = 0 → 50000 * (s.pass n).dtime + (s.pass n).dfrac = 50000 * s.dtime + s.dfrac + 20000 * n) ∧
  (∀ (s : State) (n : Nat), s.dtime ≤ (s.pass n).dtime ∧
    50000 * (s.pass n).dtime + (s.pass n).dfrac ≤ 50000 * s.dtime + s.dfrac + 20004 * n ∧
    50000 * s.dtime + s.dfrac + 19996 * n ≤ 50000 * (s.pass n).dtime + (s.pass n).dfrac) ∧
  (∀ s, s.host.lastExchange + 100000 ≤ s.dtime → ∃ t, exec .dtimeSyncLoss s = .next t ∧ t.notif.getLsbD 4 = true ∧ MemorySame s t) ∧
  (∀ s, s.dtime < s.host.lastExchange + 100000 → exec .dtimeSyncLoss s = .next s) ∧
  (∀ s, ∃ t, exec (.packageReset []) s = .next t ∧ t.host.powered = true ∧ t.host.boot = .waiting ∧ t.mem = [] ∧ t.l2 = [] ∧ t.grps = [] ∧
    t.pkg = s.pkg ∧ t.fabric.incarnation = s.fabric.incarnation ∧ t.host.fuses = s.host.fuses ∧ t.host.lifecycle = s.host.lifecycle ∧
    t.host.m = List.replicate 8 0 ∧ t.host.flash = s.host.flash ∧ t.dtime = 0) ∧
  (∀ s (is : List BootImage), is.map (·.slot) = [0, 1, 2, 3, 4, 6] → (∀ i ∈ is, i.signed = true ∧ s.host.fuses.getD i.slot 0 ≤ i.version) →
    ∃ t, exec (.packageReset is) s = .next t ∧ t.host.boot = .running ∧
      t.host.identity = some (Config.identityKey Config.fusedSecret (t.host.m.getD 0 0)) ∧ t.host.m.length = 8 ∧
      (∀ i ∈ is, t.host.m.getD i.slot 0 = State.extendSlot 0 i.digest) ∧ t.host.m.getD 7 0 = 0 ∧
      t.host.m.getD 5 0 = State.extendSlot 0 (State.fuseDigest s.host)) ∧
  (∀ s i is, i.signed = false ∨ i.version < s.host.fuses.getD i.slot 0 ∨ i.slot ≠ 0 →
    ∃ t, exec (.packageReset (i :: is)) s = .next t ∧ t.host.boot = .halted ∧
      t.host.m = (List.replicate 8 0).set 5 (State.extendSlot 0 (State.fuseDigest s.host)) ∧
      t.host.bootStatus ≠ none ∧ t.host.identity = none) ∧
  (∀ s (is : List BootImage), is ≠ [] → (∀ i ∈ is, i.slot ≠ 6) →
    ∃ t, exec (.packageReset is) s = .next t ∧ t.host.boot = .halted ∧ t.host.bootStatus ≠ none ∧ t.host.identity = none) ∧
  (∀ s digest, s.host.boot = .running → exec (.m7Extend digest) s = .next { s with host := { s.host with
    m := s.host.m.set 7 (State.extendSlot (s.host.m.getD 7 0) digest) } }) ∧
  (∀ s nonce, s.host.identity = none → exec (.attestationRequest nonce) s = .next s) ∧
  (∀ s nonce key, s.host.identity = some key → ∃ t r, exec (.attestationRequest nonce) s = .next t ∧ t.fabric.outbound = s.fabric.outbound ++ [.report r] ∧
    (s.host.m.length = 8 → s.host.fuses.length = 8 → r.length = 0x150 + 7856 ∧ (r.drop 0x18).take 32 = leBytes 32 nonce.toNat) ∧ t.host = s.host) ∧
  (∀ s part kel w key k, s.host.identity = some key → Config.unwrapKey key w = some k →
    ∃ t, exec (.keyInstall part kel w) s = .next t ∧ (t.host.keys.find? fun x => x.part == part && x.keloma == kel) = some ⟨part, kel, k⟩ ∧
      (∀ x ∈ t.host.keys, x.part = part → x.keloma = kel → x.key = k) ∧ (kel = true → t.stale = s.stale) ∧ MemorySame s t) ∧
  (∀ s part kel w, (∀ key, s.host.identity = some key → Config.unwrapKey key w = none) → exec (.keyInstall part kel w) s = .next s) ∧
  (∀ s, s.dtime < s.host.savedAt + 600000000000 → exec .lifetimeCounterSave s = .next s) ∧
  (∀ s, s.host.savedAt + 600000000000 ≤ s.dtime → ∃ t, exec .lifetimeCounterSave s = .next t ∧ t.host.flash = t.host.life ∧
    t.host.savedAt = s.dtime ∧ t.host.life.onTime = saturated s.host.life.onTime (s.dtime - s.host.countedAt) ∧ t.host.powered = s.host.powered ∧
    MemorySame s t) ∧
  (∀ s, ∃ t, exec .orderlyPowerDown s = .next t ∧ t.host.powered = false ∧ t.host.flash = t.host.life ∧ MemorySame s t) ∧
  (∀ s n, ∃ t, exec (.thermalThrottle n) s = .next t ∧ t.host.throttle = n ∧ t.host.throttleAt = s.dtime ∧ HostOnly s t ∧
    t.host.life.throttleTime = saturated s.host.life.throttleTime (if s.host.throttle = 0 then 0 else s.dtime - s.host.throttleAt)) ∧
  (∀ s, exec .thermalShutdown s = .next { s with host := { s.host with powered := false } }) ∧
  (∀ s, exec .powerLoss s = .next { s with host := { s.host with powered := false } }) ∧
  (∀ s d, exec (.pcieLinkDown d) s = .next { s with host := { s.host with pcieDown := d } }) ∧
  (∀ s port buf (bs : List Byte), MemoryCanonical s → port < 2 → bs.length ≤ 9216 → buf + bs.length ≤ 2 ^ 52 →
    ∃ t, exec (.ethFrameReceive (.data port buf bs)) s = .next t ∧ t.g = s.g ∧ (∀ i x, bs[i]? = some x → t.byteAt .pool (buf + i) = x) ∧
      t.host.rxStamps.find? (·.1 == port) = some (port, s.dtime) ∧
      (∀ a, a < 2 ^ 64 → a < buf ∨ buf + bs.length ≤ a → t.byteAt .pool a = s.byteAt .pool a)) ∧
  (∀ s port n, port < 2 → s.host.master = true →
    exec (.ethFrameReceive (.ptp port n)) s = .next { s with host := { s.host with
      ptp := some n, lead := ((n : Int) - (s.dtime : Int)) * 50000 - (s.dfrac : Int) } }) ∧
  (∀ s die, ∃ t, exec (.droopEvent die) s = .next t ∧ HostOnly s t ∧
    ∀ k, t.host.life.droops[k]? = if k = die then (s.host.life.droops[k]?).map (saturated · 1) else s.host.life.droops[k]?)

namespace Sys2Proof.Claims

open Sys2Proof.Machine

/-! ## Encoding -/

/-- Fields in which the guard is 15, every operand is absent, and nothing else is set. -/
def plain : Fields :=
  { gpr := 15, gng := false, rsv := 0, d := 0, a := .absent, b := .absent, ty := .i8, rm := 0, sat := false
    na := false, nb := false, nc := false, aa := false, sub := 0, x := 0 }

/-- Slots written out from Tables 2-7 to 2-15, and the instructions they stand for: `vadd.i32 v5, v2, 7` under P3, `sadd.i32 s10, s10, 1`,
`bra` by 4 slots, `brp` on P1, a load, an atomic, a cross-lane fold, a queue subscription, a copy, an insertion of records, a journal token, a
return from a trap, and a CSR read. -/
def spelledWords : List (Slot × Instr) :=
  [ (0x000003FF0000471C02050300, .vadd { plain with gpr := 3, d := 5, a := .v 2, b := .int 7, ty := .i32, x := 0x3FF }),
    (0x000003FF000047054A0A0F40, .sadd { plain with d := 10, a := .s 10, b := .int 1, ty := .i32, x := 0x3FF }),
    (0x0000000400000FFFFF000F60, .bra { plain with x := 4 }),
    (0x0000000500000FFD81000F61, .brp { plain with a := .p 1, x := 5 }),
    (0x000000400200400D48080F80, .ld { plain with d := 8, a := .s 8, b := .v 3, ty := .i32, sub := 2, x := 0x40 }),
    (0x000000079200A00D48000F8D, .atom { plain with a := .s 8, b := .v 3, ty := .f32, sub := 0x92, x := 7 }),
    (0x0000018218005FFC06070FA1, .scan { plain with d := 7, a := .v 6, ty := .n32, sub := 0x18, x := 0x182 }),
    (0x0000000002000FFFFF080FC0, .qsubSub { plain with d := 8, sub := 2 }),
    (0x0000000000000FFFFF280FC2, .cpy { plain with d := 0x28 }),
    (0x0000000301000FFD820A0FD4, .slinRec { plain with d := 10, a := .p 2, sub := 1, x := 3 }),
    (0x0000000000000FFFFF080FDC, .jtok { plain with d := 8 }),
    (0x0000000000000FFFFF000FE0, .kret plain),
    (0x0000000700000FFFFF040FE1, .csrr { plain with d := 4, x := 7 }) ]

/-! ## One step -/

/-- The machine as the move of a step finds it: some clocks of 0.4 ns have passed, with up to 200 ppm more or less to make good what DTIME is short
of the time it follows, in parts of 50,000 of a nanosecond, and the schedule's head is gone (R426, log entries 3 and 4). -/
def moving (s : State) (rest : List Turn) : State :=
  let clocks := Config.elapsed s.free
  let slew : Int := max (-(4 * clocks : Int)) (min (4 * clocks : Int) s.host.lead)
  let parts := ((20000 * clocks + s.dfrac : Int) + slew).toNat
  { s with
    dtime := s.dtime + parts / 50000, dfrac := parts % 50000, host := { s.host with lead := s.host.lead - slew }, free := s.free + 1, sched := rest }

/-- The package runs and the schedule names the next move. -/
structure Moves (s : State) (t : Turn) (rest : List Turn) : Prop where
  powered : s.host.powered = true
  boot : s.host.boot = .running
  sched : s.sched = t :: rest

/-- A group that an issuer holds and that is ready, on a core whose issue strict mode does not stop (R82, R83, R392). -/
def MayMove (s : State) (gid : Nat) (g : Group) : Prop :=
  s.group? gid = some g ∧ s.held g = true ∧ s.isReady g = true ∧ s.strictStops g.core = false

/-- An instruction that did not park ends a park that it replayed (R212). -/
def afterIssue (t : State) : State := if t.g.wait = .parked then t else { t with g := { t.g with park := none } }

/-- The state after a move: the frames of what is out of its core follow it, and what the move has let go on goes on (R211, R212, R376, R380, R384,
R387, R410, R416). -/
def settled (s : State) (rest : List Turn) (t : State) : State := (State.keepFrames (moving s rest) t).settleAll

/-! ## Issue rules -/

/-- Main-stream instructions that act lane by lane (R66). -/
def laneForms : List (Fields → Instr) :=
  [.vadd, .vsub, .vmul, .vmulh, .vmad, .vmin, .vmax, .vlop3, .vshf, .vbfx, .vbfi, .vbit, .vsel, .vcmp, .vdot4, .vprm, .fadd,
    .fmul, .ffma, .fmin, .fmax, .fcmp, .fcls, .frnd, .fscl, .fsfn, .cvt, .cvtp, .qpk, .qpkAmax, .qup, .vmov, .plop3, .vaddi,
    .vmuli, .vlopi, .vshfi, .vcmpi, .vmovi, .faddi, .fmuli, .ffmai, .fcmpi, .vseli, .vmini, .vmaxi, .ld, .st, .lds, .sts,
    .ldv, .stv, .ldz, .stz, .prf, .cctl, .atom, .atoms, .atomv, .nbr, .scan, .red, .vote, .bcst]

/-- MA and XL instructions that act once for their group; their guard selects lanes as it does for the others of their class (R66). -/
def memoryForms : List (Fields → Instr) := [.sld, .sst, .dscd, .satom, .fnc, .fwt, .bar, .wtct, .rgrp, .srtk]

/-- Main-stream instructions of the SC, CT and AE classes, which act once for their group, apart from JOIN, TRL and the SY range (R66). -/
def groupForms : List (Fields → Instr) :=
  [.sadd, .ssub, .smul, .smulh, .slop3, .sshf, .smin, .smax, .sbfx, .sbit, .scmp, .ssel, .smov, .sadd64, .slea, .sdiv,
    .srds, .sfma, .scvt, .bra, .brp, .call, .ret, .loop, .nop, .exit, .trap, .sfmt, .waitt, .yld, .brx, .qsubCfgl, .qsubCfgs, .qsubSub, .qsubDrop, .qret, .cpy, .cpyt, .ewt,
    .xput, .xget, .xred, .tspn, .tsus, .tend, .slinSet, .slinRec, .slinClose, .slinFree, .slps, .sldp, .slfxRd, .slfxPin,
    .slfxUnpin, .slst, .jtok, .jrte, .jrd]

/-- The SY instructions (R65). -/
def systemForms : List (Fields → Instr) :=
  [.kret, .csrr, .csrw, .scopetabWrite, .tlbiPage, .tlbiCtx, .tlbiPart, .tlbiAll, .swcxLoad, .swcxArm, .swcxCancel, .engr,
    .fltr, .hlt, .sigt, .scpwVault, .scpwL2way, .scpwPinq, .scpwSlot, .scpwTask, .scpwFq, .scpwFqack, .scpwStrict, .scpwPeer,
    .scpwSpare, .jtrnCfg, .jtrnHost, .jtrnPart, .jtrnCkpt, .jtrnTrunc, .jtrnSync, .jtrnRply]

/-- A guard that the encoding defines (R66). -/
def GuardDefined (f : Fields) : Prop := f.gpr = 15#4 ∨ f.gpr < 12#4

/-- Cause 0x00 at the instruction (R67). -/
def illegalAt (s : State) (q : Mask) : State := s.trapHere 0x00 (some s.g.pc) (some q)

/-! ## Exceptions -/

/-- The save area of the group's slot (R373). -/
def saveArea (s : State) : DWord := (s.regsOf s.g).tvb + 0x1000 + BitVec.ofNat 64 (256 * s.g.slot)

/-- What trap entry leaves (R373). -/
structure Entered (s t : State) (cause : Nat) (tepc tval : DWord) (tl : Mask) : Prop where
  pc : t.g.pc = State.vectorPc (s.regsOf s.g).tvb cause
  status : t.g.trapState.mode = true ∧ t.g.trapState.pmode = s.g.trapState.mode ∧ t.g.trapState.tip = true ∧ t.g.fmt = 0
  tcause : t.g.trapState.tcause = BitVec.ofNat 32 (cause + if s.g.stroke.isSome then 256 else 0)
  csrs : t.g.trapState.tepc = tepc ∧ t.g.trapState.tval = tval ∧ t.g.trapState.tlane = tl
  saved : t.g.trapState.saved.em = s.g.em ∧ t.g.trapState.saved.fmt = s.g.fmt ∧ t.g.trapState.saved.depth = State.depth s.g ∧
    t.g.trapState.saved.s56 = [s.g.sget 56, s.g.sget 57, s.g.sget 58, s.g.sget 59] ∧ t.g.trapState.saved.stroke = s.g.stroke ∧
    t.g.trapState.saved.pc = s.g.pc
  area : t.g.sget 56 = (saveArea s).setWidth 32 ∧ t.g.sget 57 = (saveArea s).extractLsb' 32 32
  scalars : ∀ n, n ≠ 56 → n ≠ 57 → t.g.sget n = s.g.sget n
  group : t.g = { s.g with trapState := t.g.trapState, fmt := 0, s := t.g.s, marks := t.g.marks, stroke := none, pc := t.g.pc, wait := .ready, due := t.g.due,
                            captured := none }
  elsewhere : GroupOnly s t
  memory : MemorySame s t

/-- A double trap: the group halts where it is and a machine-check record is posted (R374, R388). -/
def Halts (s t : State) : Prop :=
  t.g.wait = .halted ∧ t.g.pc = s.g.pc ∧ t.g.trapState = s.g.trapState ∧ t.g.v = s.g.v ∧ t.g.s = s.g.s ∧ MemorySame s t ∧
    (t.dieAt s.g.core.die).mcLog.length = (s.dieAt s.g.core.die).mcLog.length + 1 ∧ t.notif.getLsbD 2 = true

end Sys2Proof.Claims

open Sys2Proof Sys2Proof.Machine Sys2Proof.Claims

/-- Decoding undoes encoding for every well-formed instruction of both streams, with every operand at every value, and a word that decodes is the
encoding of what it decodes to (R45 to R50, R63, R69, R285). -/
def Obligations.EncodeDecode : Prop :=
  (∀ i w, Instr.wf i = true → encode i = some w → decode w = .ok i) ∧
  (∀ i w, Instr.wf i = true → encodeBurin i = some w → decodeBurin w = .ok i) ∧
  (∀ w i, decode w = .ok i → Instr.wf i = true ∧ encode i = some w) ∧
  (∀ w i, decodeBurin w = .ok i → Instr.wf i = true ∧ encodeBurin i = some w)

/-- Slots written out from the encoding tables decode to the instructions they stand for (Tables 2-7 to 2-15, 9-7). -/
def Obligations.WordsDecode : Prop :=
  (∀ x ∈ spelledWords, decode x.1 = .ok x.2) ∧
  decodeBurin 0x000000015A050000 = .ok (.mma { zt := 5, zc := 0, da := 2, db := 3, mode := .bq, pri := 1 }) ∧
  decode 0xFFFFFFFFFFFFFFFE08010F66 = .ok (.trl
    { gpr := 15, gng := false, rsv := 0, n := 1, e0 := 8, e1 := 0x1FF, e2 := 0x1FF, e3 := 0x1FF, e4 := 0x1FF, e5 := 0x1FF, e6 := 0x1FF, e7 := 0x1FF })

/-- A step runs the decoded instruction: inside a stroke the slot at the position, at a stroke start the slot that the line at PC holds, for a
sequencer the slot at its PC, and an event of the schedule itself; without power only a reset moves (R31, R32, R36, R69, R82, R261, R431, R432). -/
def Obligations.StepRunsDecoded : Prop :=
  (∀ s gid rest g st i t, Moves s (.issue gid) rest → MayMove s gid g → g.stroke = some st → decode (st.slots.getD st.pos 0) = .ok i →
    State.scoreboardHolds g i = false → exec i ((moving s rest).focus gid) = .next t → step s = .next (settled s rest (afterIssue t))) ∧
  (∀ s gid rest g st i, Moves s (.issue gid) rest → MayMove s gid g → g.stroke = some st → decode (st.slots.getD st.pos 0) = .ok i →
    State.scoreboardHolds g i = true → step s = .next (settled s rest ((moving s rest).focus gid))) ∧
  (∀ s gid rest g u fs ls l line i t, Moves s (.issue gid) rest → MayMove s gid g → g.stroke = none → g.async = [] → g.signal = none → g.due = .nothing →
    u = (moving s rest).focus gid → u.fetchAt g g.trapState.mode g.pc = .ok (l, line) → decode (line.slots.getD (g.pc.toNat % 5) 0) = .ok i →
    u.gather g 24 g.pc none = .ok (fs, ls) → State.strokeFault g.launch.vregs fs = none → State.scoreboardHolds g i = false →
    exec i (({ ls.foldl (fun s x => s.useLeaf s.g.core (s.regsOf s.g) x false) u with
      g := { (ls.foldl (fun s x => s.useLeaf s.g.core (s.regsOf s.g) x false) u).g with stroke := some ⟨g.pc, fs.map (·.slot), 0, [], .none, []⟩, due := .nothing } }
        : State)) = .next t →
    step s = .next (settled s rest (afterIssue t))) ∧
  (∀ s wid rest u q l line i t, Moves s (.sequence wid) rest → u = (moving s rest).focusWg wid → u.seqRuns u.w = true → u.w.seq = some q →
    q.wait = .none → q.entered = true → SeqTarget u q.pc l line → line.wordOk = true → line.pair = 0#4 →
    decodeBurin (line.slots.getD (q.pc.toNat % 5) 0#96) = .ok i →
    exec i (((u.useLeaf u.w.first (u.ctxRegs u.w.first u.w.ctx) l false).modSeq fun q => { q with entered := true })) = .next t →
    step s = .next (settled s rest t)) ∧
  (∀ s i rest t, s.host.powered = true → s.sched = .event i :: rest → encode i = none → encodeBurin i = none → exec i (moving s rest) = .next t →
    step s = .next (settled s rest t)) ∧
  (∀ s t rest, s.host.powered = false → s.sched = t :: rest → (∀ images, t ≠ .event (.packageReset images)) → step s = .fault .poweredOff) ∧
  (∀ s images rest, s.host.powered = false → s.sched = .event (.packageReset images) :: rest → step s = exec (.packageReset images) (moving s rest))

/-- An instruction with no qualifying lane changes nothing but its own retirement, a reserved guard or a reserved field takes cause 0x00, and the
qualifying lanes are EM and the guard (R66, R67). The model's reading: TLANE of a reserved guard is EM (log entry 57), and a reserved field comes
before the mode check (log entry 54). -/
def Obligations.IssueRules : Prop :=
  (∀ (e : Fields → Instr), e ∈ laneForms ++ memoryForms ++ groupForms ++ systemForms → ∀ f s, GuardDefined f → s.g.em &&& s.g.guardMask f = 0 →
    ∃ t, exec (e f) s = .next t ∧ Advances s.g t.g ∧ GroupOnly s t ∧ MemorySame s t ∧ t.g = { s.g with pc := t.g.pc, stroke := t.g.stroke }) ∧
  (∀ (e : Fields → Instr), e ∈ laneForms ++ memoryForms ++ groupForms ++ systemForms → ∀ f s, ¬GuardDefined f → s.g.em ≠ 0 →
    exec (e f) s = .next (illegalAt s s.g.em)) ∧
  (∀ (e : Fields → Instr), e ∈ laneForms ++ memoryForms → ∀ f s, GuardDefined f → s.g.em &&& s.g.guardMask f ≠ 0 →
    (e f).legal = false ∨ (e f).legalUnder s.g.launch.vregs s.g.fmt = false → exec (e f) s = .next (illegalAt s (s.g.em &&& s.g.guardMask f))) ∧
  (∀ (e : Fields → Instr), e ∈ groupForms ++ systemForms → ∀ f s, GuardDefined f → s.g.em &&& s.g.guardMask f ≠ 0 →
    (e f).legal = false ∨ (e f).legalUnder s.g.launch.vregs s.g.fmt = false → exec (e f) s = .next (illegalAt s s.g.em))

/-- Every SY instruction is privileged: in user mode with a qualifying lane it takes cause 0x01, and a reserved opcode of the SY range takes cause 0x00
in either mode (R65). That a reserved field or guard comes before the mode check is the model's reading (log entry 54). -/
def Obligations.SystemRangeIsPrivileged : Prop :=
  (∀ (e : Fields → Instr), e ∈ systemForms → ∀ f s, GuardDefined f → s.g.em &&& s.g.guardMask f ≠ 0 → (e f).legal = true →
    (e f).legalUnder s.g.launch.vregs s.g.fmt = true → s.g.trapState.mode = false →
    exec (e f) s = .next (s.trapHere 0x01 none (some s.g.em))) ∧
  (∀ (w : Slot) s, decode w = .error .reservedOpcode → 0xE0 ≤ (w.extractLsb' 0 8).toNat → GuardDefined (Fields.ofSlot w) →
    s.g.em &&& s.g.guardMask (Fields.ofSlot w) ≠ 0 → s.reserved w = illegalAt s s.g.em) ∧
  (∀ (e : Fields → Instr), e ∈ systemForms → ∀ f w, encode (e f) = some w → 0xE0 ≤ (w.extractLsb' 0 8).toNat ∧ (w.extractLsb' 0 8).toNat ≤ 0xEA)

/-- VSEL writes A in each qualifying lane whose C value is nonzero, and B in every other qualifying lane (R128). -/
def Obligations.SelectByLane : Prop :=
  ∀ f s q, RegistersPresent s.g → Issues (.vsel f) f false false s q → ∃ t, exec (.vsel f) s = .next t ∧
    WroteLanes s t (destRun f.ty.is64 f.d.toNat) q (fun k l => wordOf (if s.g.word f.c l ≠ 0 then s.g.intA f l else s.g.intB f l) k) 0

/-- TRAP raises cause 0x0D for the whole group, with TVAL the code and TEPC at next, so that KRET to TEPC resumes after the trap (R100). -/
def Obligations.TrapInstruction : Prop :=
  (∀ f s q, Issues (.trap f) f true false s q → exec (.trap f) s = .next (awaiting s (.trap f.x))) ∧
  (∀ tr s st code, s.g.stroke = some st → st.tail = .trap code → s.stepsOpen s.g = false → State.failedStep s.g = none → s.g.em ≠ 0 →
    s.g.trapState.tip = false → VectorReady s 0x0D → (∀ d ∈ s.g.deferred, d.kind ≠ .divide) →
    ∃ t, exec (.trl tr) s = .next t ∧ t.g.pc = State.vectorPc (s.regsOf s.g).tvb 0x0D ∧ t.g.trapState.tcause = 0x0D ∧
      t.g.trapState.tval = code.setWidth 64 ∧ t.g.trapState.tepc = s.g.pc + 1 ∧ t.g.trapState.mode = true ∧ t.g.trapState.tip = true ∧
      t.g.em = s.g.em ∧ t.g.stroke = none ∧ MemorySame s t ∧ t.kretReturn.g.pc = s.g.pc + 1 ∧ t.kretReturn.g.stroke = none)

/-- Trap entry and return: what is saved, what is set, the double traps, and what KRET's trailer restores (R373 to R375). A vector whose page is
absent is entered and parks at its first fetch: the model's reading (log entry 59). -/
def Obligations.TrapAndReturn : Prop :=
  (∀ (s : State) (cause : Nat) (tepc : DWord) tval tl, RegistersPresent s.g → s.g.trapState.tip = false → VectorReady s cause → (∀ d ∈ s.g.deferred, d.kind ≠ .divide) →
    Entered s (s.trap cause tepc (some tval) (some tl)) cause tepc tval tl) ∧
  (∀ (s : State) (cause : Nat) (tepc : DWord) tval tl lv, RegistersPresent s.g → s.g.trapState.tip = false →
    s.fetchAt s.g true (State.vectorPc (s.regsOf s.g).tvb cause) = .error (0x08, lv) → (∀ d ∈ s.g.deferred, d.kind ≠ .divide) →
    Entered s (s.trap cause tepc (some tval) (some tl)) cause tepc tval tl) ∧
  (∀ (s : State) (cause : Nat) (tepc : DWord) tval tl, s.g.trapState.tip = true → Halts s (s.trap cause tepc tval tl)) ∧
  (∀ (s : State) (cause : Nat) (tepc : DWord) (tval : Option DWord) (tl : Option Mask) (c lv : Nat), s.g.trapState.tip = false → c ≠ 0x08 →
    s.fetchAt s.g true (State.vectorPc (s.regsOf s.g).tvb cause) = .error (c, lv) → (s.trap cause tepc tval tl).g.wait = .halted) ∧
  (∀ tr s st, RegistersPresent s.g → s.g.stroke = some st → st.tail = .kret → s.stepsOpen s.g = false → State.failedStep s.g = none →
    s.g.trapState.saved.em &&& s.g.live ≠ 0 → s.g.trapState.saved.depth ≤ State.depth s.g → s.g.trapState.saved.s56.length = 4 → s.g.s.length = 60 →
    ∃ t, exec (.trl tr) s = .next t ∧ MemorySame s t ∧ t.g.pc = s.g.trapState.tepc ∧ t.g.trapState.mode = s.g.trapState.pmode ∧
      t.g.trapState.tip = false ∧ t.g.em = s.g.trapState.saved.em &&& s.g.live ∧ t.g.fmt = s.g.trapState.saved.fmt ∧
      (∀ n, n < 56 → t.g.sget n = s.g.sget n) ∧
      (∀ (k : Nat) (x : Word), s.g.trapState.saved.s56[k]? = some x → t.g.sget (56 + k) = x) ∧
      State.depth t.g = s.g.trapState.saved.depth ∧ t.g.v = s.g.v ∧ t.g.p = s.g.p ∧ t.g.flags = s.g.flags ∧
      t.g.stroke = (if s.g.trapState.tcause.getLsbD 8 = true ∧ s.g.trapState.tepc = s.g.trapState.saved.pc then s.g.trapState.saved.stroke else none)) ∧
  (∀ (s : State) (cause : Nat) (tepc : DWord) tval tl, LanesLive s.g → s.g.s.length = 60 → s.g.trapState.tip = false → VectorReady s cause →
    (∀ d ∈ s.g.deferred, d.kind ≠ .divide) →
    (s.trap cause tepc (some tval) (some tl)).kretReturn.g.em = s.g.em ∧ (s.trap cause tepc (some tval) (some tl)).kretReturn.g.s = s.g.s ∧
      (s.trap cause tepc (some tval) (some tl)).kretReturn.g.fmt = s.g.fmt ∧ (s.trap cause tepc (some tval) (some tl)).kretReturn.g.pc = tepc ∧
      (s.trap cause tepc (some tval) (some tl)).kretReturn.g.trapState.mode = s.g.trapState.mode ∧
      (s.trap cause tepc (some tval) (some tl)).kretReturn.g.stack = s.g.stack)

/-- The machine after reset: the values that R14, R17, R300, R423, R426 and R427 give, and a sound state. The reset values that the
spec does not give (log entry 9) are not stated. -/
def Obligations.ResetState : Prop :=
  State.reset.dtime = 0 ∧ State.reset.notif = 0 ∧ State.reset.host.m = List.replicate 8 0 ∧ State.reset.host.boot = .waiting ∧
    State.reset.host.queues = [] ∧ State.reset.host.launches = [] ∧ State.reset.stores = [] ∧ State.reset.grps = [] ∧
    (∀ c, (State.reset.coreAt c).split = ⟨10, 16, 6⟩ ∧ (State.reset.coreAt c).tlb = [] ∧ (State.reset.coreAt c).l1 = []) ∧
    (∀ d, (State.reset.dieAt d).spares = 2) ∧ (∀ core ctx q, (State.reset.queueOf core ctx q).state = .unconfigured) ∧
    MemoryCanonical State.reset ∧ GroupsSound State.reset

/-- Every step keeps the memory in its canonical form. -/
def Obligations.StepKeepsMemory : Prop := ∀ s t, MemoryCanonical s → step s = .next t → MemoryCanonical t

/-- Every step keeps every group record sound: EM stays inside LIVE and no register disappears (R28, R79). -/
def Obligations.StepKeepsGroups : Prop := ∀ s t, GroupsSound s → step s = .next t → GroupsSound t

/-- VBFX and VBFI bit by bit: the field that position and length name, extended or inserted (R125). -/
def Obligations.BitFields : Prop :=
  (∀ f s q, RegistersPresent s.g → Issues (.vbfx f) f false false s q → ∃ t, exec (.vbfx f) s = .next t ∧
    WroteLanes s t [f.d.toNat] q (fun _ l => t.g.vget f.d.toNat l) 0 ∧
    ∀ l, l < 96 → q.getLsbD l = true →
      let a := s.g.word f.a l
      let p := ((s.g.word f.b l).extractLsb' 0 8).toNat
      let m := ((s.g.word f.b l).extractLsb' 8 8).toNat
      let top := min (p + m) 32 - 1
      (m = 0 ∨ 32 ≤ p → t.g.vget f.d.toNat l = 0) ∧
      (m ≠ 0 → p < 32 → ∀ j, j < 32 → (t.g.vget f.d.toNat l).getLsbD j =
        if p + j ≤ top then a.getLsbD (p + j) else f.ty == .i32 && a.getLsbD top)) ∧
  (∀ f s q, RegistersPresent s.g → Issues (.vbfi f) f false false s q → ∃ t, exec (.vbfi f) s = .next t ∧
    WroteLanes s t [f.d.toNat] q (fun _ l => t.g.vget f.d.toNat l) 0 ∧
    ∀ l, l < 96 → q.getLsbD l = true →
      let p := ((s.g.word f.c l).extractLsb' 0 8).toNat
      let m := ((s.g.word f.c l).extractLsb' 8 8).toNat
      let top := min (p + m) 32 - 1
      (m = 0 ∨ 32 ≤ p → t.g.vget f.d.toNat l = s.g.word f.b l) ∧
      (m ≠ 0 → p < 32 → ∀ j, j < 32 → (t.g.vget f.d.toNat l).getLsbD j =
        if p ≤ j ∧ j ≤ top then (s.g.word f.a l).getLsbD (j - p) else (s.g.word f.b l).getLsbD j))

/-- VPRM byte by byte: C selects a byte of the pair B:A for each byte of the result, copied or spread from its sign (R132). -/
def Obligations.BytePermutation : Prop :=
  ∀ f s q, RegistersPresent s.g → Issues (.vprm f) f false false s q → ∃ t, exec (.vprm f) s = .next t ∧
    WroteLanes s t [f.d.toNat] q (fun _ l => t.g.vget f.d.toNat l) 0 ∧
    ∀ l, l < 96 → q.getLsbD l = true → ∀ j, j < 4 →
      let n := ((s.g.word f.c l).extractLsb' (4 * j) 3).toNat
      let src := if n < 4 then (s.g.word f.a l).extractLsb' (8 * n) 8 else (s.g.word f.b l).extractLsb' (8 * (n - 4)) 8
      (t.g.vget f.d.toNat l).extractLsb' (8 * j) 8 =
        if (s.g.word f.c l).getLsbD (4 * j + 3) = false then src else if src.getLsbD 7 then 0xFF else 0x00
end

