-- ==== Sys2Proof/Laws/State.lean ====
section
/-! SUPPORT. What each named update of the state leaves in each field: one lemma per field and update, so that a proof never unfolds a
record update. -/

namespace Sys2Proof.Machine.State


/-! ## modG: a change of the issuing group -/

@[simp] theorem modG_g (s : State) (f : Group → Group) : (s.modG f).g = f s.g := rfl
@[simp] theorem modG_grps (s : State) (f : Group → Group) : (s.modG f).grps = s.grps := rfl
@[simp] theorem modG_w (s : State) (f : Group → Group) : (s.modG f).w = s.w := rfl
@[simp] theorem modG_wgs (s : State) (f : Group → Group) : (s.modG f).wgs = s.wgs := rfl
@[simp] theorem modG_cores (s : State) (f : Group → Group) : (s.modG f).cores = s.cores := rfl
@[simp] theorem modG_dies (s : State) (f : Group → Group) : (s.modG f).dies = s.dies := rfl
@[simp] theorem modG_engines (s : State) (f : Group → Group) : (s.modG f).engines = s.engines := rfl
@[simp] theorem modG_mem (s : State) (f : Group → Group) : (s.modG f).mem = s.mem := rfl
@[simp] theorem modG_l2 (s : State) (f : Group → Group) : (s.modG f).l2 = s.l2 := rfl
@[simp] theorem modG_stores (s : State) (f : Group → Group) : (s.modG f).stores = s.stores := rfl
@[simp] theorem modG_poison (s : State) (f : Group → Group) : (s.modG f).poison = s.poison := rfl
@[simp] theorem modG_fabric (s : State) (f : Group → Group) : (s.modG f).fabric = s.fabric := rfl
@[simp] theorem modG_tasks (s : State) (f : Group → Group) : (s.modG f).tasks = s.tasks := rfl
@[simp] theorem modG_streams (s : State) (f : Group → Group) : (s.modG f).streams = s.streams := rfl
@[simp] theorem modG_rings (s : State) (f : Group → Group) : (s.modG f).rings = s.rings := rfl
@[simp] theorem modG_fq (s : State) (f : Group → Group) : (s.modG f).fq = s.fq := rfl
@[simp] theorem modG_replies (s : State) (f : Group → Group) : (s.modG f).replies = s.replies := rfl
@[simp] theorem modG_clears (s : State) (f : Group → Group) : (s.modG f).clears = s.clears := rfl
@[simp] theorem modG_stale (s : State) (f : Group → Group) : (s.modG f).stale = s.stale := rfl
@[simp] theorem modG_owned (s : State) (f : Group → Group) : (s.modG f).owned = s.owned := rfl
@[simp] theorem modG_host (s : State) (f : Group → Group) : (s.modG f).host = s.host := rfl
@[simp] theorem modG_hash (s : State) (f : Group → Group) : (s.modG f).hash = s.hash := rfl
@[simp] theorem modG_pkg (s : State) (f : Group → Group) : (s.modG f).pkg = s.pkg := rfl
@[simp] theorem modG_vuvs (s : State) (f : Group → Group) : (s.modG f).vuvs = s.vuvs := rfl
@[simp] theorem modG_dtime (s : State) (f : Group → Group) : (s.modG f).dtime = s.dtime := rfl
@[simp] theorem modG_dfrac (s : State) (f : Group → Group) : (s.modG f).dfrac = s.dfrac := rfl
@[simp] theorem modG_notif (s : State) (f : Group → Group) : (s.modG f).notif = s.notif := rfl
@[simp] theorem modG_sched (s : State) (f : Group → Group) : (s.modG f).sched = s.sched := rfl
@[simp] theorem modG_free (s : State) (f : Group → Group) : (s.modG f).free = s.free := rfl
@[simp] theorem modG_nextId (s : State) (f : Group → Group) : (s.modG f).nextId = s.nextId := rfl

/-! ## raise -/

@[simp] theorem raise_grps (s : State) (x : FlagSet) : (s.raise x).grps = s.grps := rfl
@[simp] theorem raise_w (s : State) (x : FlagSet) : (s.raise x).w = s.w := rfl
@[simp] theorem raise_wgs (s : State) (x : FlagSet) : (s.raise x).wgs = s.wgs := rfl
@[simp] theorem raise_cores (s : State) (x : FlagSet) : (s.raise x).cores = s.cores := rfl
@[simp] theorem raise_dies (s : State) (x : FlagSet) : (s.raise x).dies = s.dies := rfl
@[simp] theorem raise_engines (s : State) (x : FlagSet) : (s.raise x).engines = s.engines := rfl
@[simp] theorem raise_mem (s : State) (x : FlagSet) : (s.raise x).mem = s.mem := rfl
@[simp] theorem raise_l2 (s : State) (x : FlagSet) : (s.raise x).l2 = s.l2 := rfl
@[simp] theorem raise_stores (s : State) (x : FlagSet) : (s.raise x).stores = s.stores := rfl
@[simp] theorem raise_poison (s : State) (x : FlagSet) : (s.raise x).poison = s.poison := rfl
@[simp] theorem raise_fabric (s : State) (x : FlagSet) : (s.raise x).fabric = s.fabric := rfl
@[simp] theorem raise_tasks (s : State) (x : FlagSet) : (s.raise x).tasks = s.tasks := rfl
@[simp] theorem raise_streams (s : State) (x : FlagSet) : (s.raise x).streams = s.streams := rfl
@[simp] theorem raise_rings (s : State) (x : FlagSet) : (s.raise x).rings = s.rings := rfl
@[simp] theorem raise_fq (s : State) (x : FlagSet) : (s.raise x).fq = s.fq := rfl
@[simp] theorem raise_replies (s : State) (x : FlagSet) : (s.raise x).replies = s.replies := rfl
@[simp] theorem raise_clears (s : State) (x : FlagSet) : (s.raise x).clears = s.clears := rfl
@[simp] theorem raise_stale (s : State) (x : FlagSet) : (s.raise x).stale = s.stale := rfl
@[simp] theorem raise_owned (s : State) (x : FlagSet) : (s.raise x).owned = s.owned := rfl
@[simp] theorem raise_host (s : State) (x : FlagSet) : (s.raise x).host = s.host := rfl
@[simp] theorem raise_hash (s : State) (x : FlagSet) : (s.raise x).hash = s.hash := rfl
@[simp] theorem raise_pkg (s : State) (x : FlagSet) : (s.raise x).pkg = s.pkg := rfl
@[simp] theorem raise_vuvs (s : State) (x : FlagSet) : (s.raise x).vuvs = s.vuvs := rfl
@[simp] theorem raise_dtime (s : State) (x : FlagSet) : (s.raise x).dtime = s.dtime := rfl
@[simp] theorem raise_dfrac (s : State) (x : FlagSet) : (s.raise x).dfrac = s.dfrac := rfl
@[simp] theorem raise_notif (s : State) (x : FlagSet) : (s.raise x).notif = s.notif := rfl
@[simp] theorem raise_sched (s : State) (x : FlagSet) : (s.raise x).sched = s.sched := rfl
@[simp] theorem raise_free (s : State) (x : FlagSet) : (s.raise x).free = s.free := rfl
@[simp] theorem raise_nextId (s : State) (x : FlagSet) : (s.raise x).nextId = s.nextId := rfl

/-! ## retire -/

@[simp] theorem retire_grps (s : State) (i : Instr) : (s.retire i).grps = s.grps := rfl
@[simp] theorem retire_w (s : State) (i : Instr) : (s.retire i).w = s.w := rfl
@[simp] theorem retire_wgs (s : State) (i : Instr) : (s.retire i).wgs = s.wgs := rfl
@[simp] theorem retire_cores (s : State) (i : Instr) : (s.retire i).cores = s.cores := rfl
@[simp] theorem retire_dies (s : State) (i : Instr) : (s.retire i).dies = s.dies := rfl
@[simp] theorem retire_engines (s : State) (i : Instr) : (s.retire i).engines = s.engines := rfl
@[simp] theorem retire_mem (s : State) (i : Instr) : (s.retire i).mem = s.mem := rfl
@[simp] theorem retire_l2 (s : State) (i : Instr) : (s.retire i).l2 = s.l2 := rfl
@[simp] theorem retire_stores (s : State) (i : Instr) : (s.retire i).stores = s.stores := rfl
@[simp] theorem retire_poison (s : State) (i : Instr) : (s.retire i).poison = s.poison := rfl
@[simp] theorem retire_fabric (s : State) (i : Instr) : (s.retire i).fabric = s.fabric := rfl
@[simp] theorem retire_tasks (s : State) (i : Instr) : (s.retire i).tasks = s.tasks := rfl
@[simp] theorem retire_streams (s : State) (i : Instr) : (s.retire i).streams = s.streams := rfl
@[simp] theorem retire_rings (s : State) (i : Instr) : (s.retire i).rings = s.rings := rfl
@[simp] theorem retire_fq (s : State) (i : Instr) : (s.retire i).fq = s.fq := rfl
@[simp] theorem retire_replies (s : State) (i : Instr) : (s.retire i).replies = s.replies := rfl
@[simp] theorem retire_clears (s : State) (i : Instr) : (s.retire i).clears = s.clears := rfl
@[simp] theorem retire_stale (s : State) (i : Instr) : (s.retire i).stale = s.stale := rfl
@[simp] theorem retire_owned (s : State) (i : Instr) : (s.retire i).owned = s.owned := rfl
@[simp] theorem retire_host (s : State) (i : Instr) : (s.retire i).host = s.host := rfl
@[simp] theorem retire_hash (s : State) (i : Instr) : (s.retire i).hash = s.hash := rfl
@[simp] theorem retire_pkg (s : State) (i : Instr) : (s.retire i).pkg = s.pkg := rfl
@[simp] theorem retire_vuvs (s : State) (i : Instr) : (s.retire i).vuvs = s.vuvs := rfl
@[simp] theorem retire_dtime (s : State) (i : Instr) : (s.retire i).dtime = s.dtime := rfl
@[simp] theorem retire_dfrac (s : State) (i : Instr) : (s.retire i).dfrac = s.dfrac := rfl
@[simp] theorem retire_notif (s : State) (i : Instr) : (s.retire i).notif = s.notif := rfl
@[simp] theorem retire_sched (s : State) (i : Instr) : (s.retire i).sched = s.sched := rfl
@[simp] theorem retire_free (s : State) (i : Instr) : (s.retire i).free = s.free := rfl
@[simp] theorem retire_nextId (s : State) (i : Instr) : (s.retire i).nextId = s.nextId := rfl

/-! ## retireTail -/

@[simp] theorem retireTail_grps (s : State) (t : Tail) : (s.retireTail t).grps = s.grps := rfl
@[simp] theorem retireTail_w (s : State) (t : Tail) : (s.retireTail t).w = s.w := rfl
@[simp] theorem retireTail_wgs (s : State) (t : Tail) : (s.retireTail t).wgs = s.wgs := rfl
@[simp] theorem retireTail_cores (s : State) (t : Tail) : (s.retireTail t).cores = s.cores := rfl
@[simp] theorem retireTail_dies (s : State) (t : Tail) : (s.retireTail t).dies = s.dies := rfl
@[simp] theorem retireTail_engines (s : State) (t : Tail) : (s.retireTail t).engines = s.engines := rfl
@[simp] theorem retireTail_mem (s : State) (t : Tail) : (s.retireTail t).mem = s.mem := rfl
@[simp] theorem retireTail_l2 (s : State) (t : Tail) : (s.retireTail t).l2 = s.l2 := rfl
@[simp] theorem retireTail_stores (s : State) (t : Tail) : (s.retireTail t).stores = s.stores := rfl
@[simp] theorem retireTail_poison (s : State) (t : Tail) : (s.retireTail t).poison = s.poison := rfl
@[simp] theorem retireTail_fabric (s : State) (t : Tail) : (s.retireTail t).fabric = s.fabric := rfl
@[simp] theorem retireTail_tasks (s : State) (t : Tail) : (s.retireTail t).tasks = s.tasks := rfl
@[simp] theorem retireTail_streams (s : State) (t : Tail) : (s.retireTail t).streams = s.streams := rfl
@[simp] theorem retireTail_rings (s : State) (t : Tail) : (s.retireTail t).rings = s.rings := rfl
@[simp] theorem retireTail_fq (s : State) (t : Tail) : (s.retireTail t).fq = s.fq := rfl
@[simp] theorem retireTail_replies (s : State) (t : Tail) : (s.retireTail t).replies = s.replies := rfl
@[simp] theorem retireTail_clears (s : State) (t : Tail) : (s.retireTail t).clears = s.clears := rfl
@[simp] theorem retireTail_stale (s : State) (t : Tail) : (s.retireTail t).stale = s.stale := rfl
@[simp] theorem retireTail_owned (s : State) (t : Tail) : (s.retireTail t).owned = s.owned := rfl
@[simp] theorem retireTail_host (s : State) (t : Tail) : (s.retireTail t).host = s.host := rfl
@[simp] theorem retireTail_hash (s : State) (t : Tail) : (s.retireTail t).hash = s.hash := rfl
@[simp] theorem retireTail_pkg (s : State) (t : Tail) : (s.retireTail t).pkg = s.pkg := rfl
@[simp] theorem retireTail_vuvs (s : State) (t : Tail) : (s.retireTail t).vuvs = s.vuvs := rfl
@[simp] theorem retireTail_dtime (s : State) (t : Tail) : (s.retireTail t).dtime = s.dtime := rfl
@[simp] theorem retireTail_dfrac (s : State) (t : Tail) : (s.retireTail t).dfrac = s.dfrac := rfl
@[simp] theorem retireTail_notif (s : State) (t : Tail) : (s.retireTail t).notif = s.notif := rfl
@[simp] theorem retireTail_sched (s : State) (t : Tail) : (s.retireTail t).sched = s.sched := rfl
@[simp] theorem retireTail_free (s : State) (t : Tail) : (s.retireTail t).free = s.free := rfl
@[simp] theorem retireTail_nextId (s : State) (t : Tail) : (s.retireTail t).nextId = s.nextId := rfl

@[simp] theorem raise_g (s : State) (x : FlagSet) : (s.raise x).g = { s.g with flags := s.g.flags ||| x } := rfl
@[simp] theorem retire_g (s : State) (i : Instr) : (s.retire i).g = s.g.retire (s.g.resultTemp i.writes) := rfl
@[simp] theorem retireTail_g (s : State) (t : Tail) : (s.retireTail t).g = s.g.retireTail t := rfl

/-! ## defer -/

@[simp] theorem defer_grps (s : State) (i : Instr) (k : DeferKind) (ws : List RegWrite) (fl : FlagSet) (wa : List Nat) (st : Option Nat)
    (m : Nat) (far : List (Nat × Mark)) :
    (s.defer i k ws fl wa st m far).grps = s.grps := rfl
@[simp] theorem defer_w (s : State) (i : Instr) (k : DeferKind) (ws : List RegWrite) (fl : FlagSet) (wa : List Nat) (st : Option Nat)
    (m : Nat) (far : List (Nat × Mark)) :
    (s.defer i k ws fl wa st m far).w = s.w := rfl
@[simp] theorem defer_wgs (s : State) (i : Instr) (k : DeferKind) (ws : List RegWrite) (fl : FlagSet) (wa : List Nat) (st : Option Nat)
    (m : Nat) (far : List (Nat × Mark)) :
    (s.defer i k ws fl wa st m far).wgs = s.wgs := rfl
@[simp] theorem defer_cores (s : State) (i : Instr) (k : DeferKind) (ws : List RegWrite) (fl : FlagSet) (wa : List Nat) (st : Option Nat)
    (m : Nat) (far : List (Nat × Mark)) :
    (s.defer i k ws fl wa st m far).cores = s.cores := rfl
@[simp] theorem defer_dies (s : State) (i : Instr) (k : DeferKind) (ws : List RegWrite) (fl : FlagSet) (wa : List Nat) (st : Option Nat)
    (m : Nat) (far : List (Nat × Mark)) :
    (s.defer i k ws fl wa st m far).dies = s.dies := rfl
@[simp] theorem defer_engines (s : State) (i : Instr) (k : DeferKind) (ws : List RegWrite) (fl : FlagSet) (wa : List Nat) (st : Option Nat)
    (m : Nat) (far : List (Nat × Mark)) :
    (s.defer i k ws fl wa st m far).engines = s.engines := rfl
@[simp] theorem defer_mem (s : State) (i : Instr) (k : DeferKind) (ws : List RegWrite) (fl : FlagSet) (wa : List Nat) (st : Option Nat)
    (m : Nat) (far : List (Nat × Mark)) :
    (s.defer i k ws fl wa st m far).mem = s.mem := rfl
@[simp] theorem defer_l2 (s : State) (i : Instr) (k : DeferKind) (ws : List RegWrite) (fl : FlagSet) (wa : List Nat) (st : Option Nat)
    (m : Nat) (far : List (Nat × Mark)) :
    (s.defer i k ws fl wa st m far).l2 = s.l2 := rfl
@[simp] theorem defer_stores (s : State) (i : Instr) (k : DeferKind) (ws : List RegWrite) (fl : FlagSet) (wa : List Nat) (st : Option Nat)
    (m : Nat) (far : List (Nat × Mark)) :
    (s.defer i k ws fl wa st m far).stores = s.stores := rfl
@[simp] theorem defer_poison (s : State) (i : Instr) (k : DeferKind) (ws : List RegWrite) (fl : FlagSet) (wa : List Nat) (st : Option Nat)
    (m : Nat) (far : List (Nat × Mark)) :
    (s.defer i k ws fl wa st m far).poison = s.poison := rfl
@[simp] theorem defer_fabric (s : State) (i : Instr) (k : DeferKind) (ws : List RegWrite) (fl : FlagSet) (wa : List Nat) (st : Option Nat)
    (m : Nat) (far : List (Nat × Mark)) :
    (s.defer i k ws fl wa st m far).fabric = s.fabric := rfl
@[simp] theorem defer_tasks (s : State) (i : Instr) (k : DeferKind) (ws : List RegWrite) (fl : FlagSet) (wa : List Nat) (st : Option Nat)
    (m : Nat) (far : List (Nat × Mark)) :
    (s.defer i k ws fl wa st m far).tasks = s.tasks := rfl
@[simp] theorem defer_streams (s : State) (i : Instr) (k : DeferKind) (ws : List RegWrite) (fl : FlagSet) (wa : List Nat) (st : Option Nat)
    (m : Nat) (far : List (Nat × Mark)) :
    (s.defer i k ws fl wa st m far).streams = s.streams := rfl
@[simp] theorem defer_rings (s : State) (i : Instr) (k : DeferKind) (ws : List RegWrite) (fl : FlagSet) (wa : List Nat) (st : Option Nat)
    (m : Nat) (far : List (Nat × Mark)) :
    (s.defer i k ws fl wa st m far).rings = s.rings := rfl
@[simp] theorem defer_fq (s : State) (i : Instr) (k : DeferKind) (ws : List RegWrite) (fl : FlagSet) (wa : List Nat) (st : Option Nat)
    (m : Nat) (far : List (Nat × Mark)) :
    (s.defer i k ws fl wa st m far).fq = s.fq := rfl
@[simp] theorem defer_replies (s : State) (i : Instr) (k : DeferKind) (ws : List RegWrite) (fl : FlagSet) (wa : List Nat) (st : Option Nat)
    (m : Nat) (far : List (Nat × Mark)) :
    (s.defer i k ws fl wa st m far).replies = s.replies := rfl
@[simp] theorem defer_clears (s : State) (i : Instr) (k : DeferKind) (ws : List RegWrite) (fl : FlagSet) (wa : List Nat) (st : Option Nat)
    (m : Nat) (far : List (Nat × Mark)) :
    (s.defer i k ws fl wa st m far).clears = s.clears := rfl
@[simp] theorem defer_stale (s : State) (i : Instr) (k : DeferKind) (ws : List RegWrite) (fl : FlagSet) (wa : List Nat) (st : Option Nat)
    (m : Nat) (far : List (Nat × Mark)) :
    (s.defer i k ws fl wa st m far).stale = s.stale := rfl
@[simp] theorem defer_owned (s : State) (i : Instr) (k : DeferKind) (ws : List RegWrite) (fl : FlagSet) (wa : List Nat) (st : Option Nat)
    (m : Nat) (far : List (Nat × Mark)) :
    (s.defer i k ws fl wa st m far).owned = s.owned := rfl
@[simp] theorem defer_host (s : State) (i : Instr) (k : DeferKind) (ws : List RegWrite) (fl : FlagSet) (wa : List Nat) (st : Option Nat)
    (m : Nat) (far : List (Nat × Mark)) :
    (s.defer i k ws fl wa st m far).host = s.host := rfl
@[simp] theorem defer_hash (s : State) (i : Instr) (k : DeferKind) (ws : List RegWrite) (fl : FlagSet) (wa : List Nat) (st : Option Nat)
    (m : Nat) (far : List (Nat × Mark)) :
    (s.defer i k ws fl wa st m far).hash = s.hash := rfl
@[simp] theorem defer_pkg (s : State) (i : Instr) (k : DeferKind) (ws : List RegWrite) (fl : FlagSet) (wa : List Nat) (st : Option Nat)
    (m : Nat) (far : List (Nat × Mark)) :
    (s.defer i k ws fl wa st m far).pkg = s.pkg := rfl
@[simp] theorem defer_vuvs (s : State) (i : Instr) (k : DeferKind) (ws : List RegWrite) (fl : FlagSet) (wa : List Nat) (st : Option Nat)
    (m : Nat) (far : List (Nat × Mark)) :
    (s.defer i k ws fl wa st m far).vuvs = s.vuvs := rfl
@[simp] theorem defer_dtime (s : State) (i : Instr) (k : DeferKind) (ws : List RegWrite) (fl : FlagSet) (wa : List Nat) (st : Option Nat)
    (m : Nat) (far : List (Nat × Mark)) :
    (s.defer i k ws fl wa st m far).dtime = s.dtime := rfl
@[simp] theorem defer_dfrac (s : State) (i : Instr) (k : DeferKind) (ws : List RegWrite) (fl : FlagSet) (wa : List Nat) (st : Option Nat)
    (m : Nat) (far : List (Nat × Mark)) :
    (s.defer i k ws fl wa st m far).dfrac = s.dfrac := rfl
@[simp] theorem defer_notif (s : State) (i : Instr) (k : DeferKind) (ws : List RegWrite) (fl : FlagSet) (wa : List Nat) (st : Option Nat)
    (m : Nat) (far : List (Nat × Mark)) :
    (s.defer i k ws fl wa st m far).notif = s.notif := rfl
@[simp] theorem defer_sched (s : State) (i : Instr) (k : DeferKind) (ws : List RegWrite) (fl : FlagSet) (wa : List Nat) (st : Option Nat)
    (m : Nat) (far : List (Nat × Mark)) :
    (s.defer i k ws fl wa st m far).sched = s.sched := rfl
@[simp] theorem defer_free (s : State) (i : Instr) (k : DeferKind) (ws : List RegWrite) (fl : FlagSet) (wa : List Nat) (st : Option Nat)
    (m : Nat) (far : List (Nat × Mark)) :
    (s.defer i k ws fl wa st m far).free = s.free := rfl
@[simp] theorem defer_nextId (s : State) (i : Instr) (k : DeferKind) (ws : List RegWrite) (fl : FlagSet) (wa : List Nat) (st : Option Nat)
    (m : Nat) (far : List (Nat × Mark)) :
    (s.defer i k ws fl wa st m far).nextId = s.nextId + 1 := rfl
@[simp] theorem defer_g (s : State) (i : Instr) (k : DeferKind) (ws : List RegWrite) (fl : FlagSet) (wa : List Nat) (st : Option Nat)
    (m : Nat) (far : List (Nat × Mark)) :
    (s.defer i k ws fl wa st m far).g = { s.g with deferred := s.g.deferred ++ [⟨s.nextId, k, i.writes, ws, fl, wa, st, m, far⟩] } := rfl

/-! ## setCore, setDie: records of cores and dies -/

@[simp] theorem setCore_g (s : State) (c : Core) : (s.setCore c).g = s.g := by
  unfold State.setCore; split <;> rfl
@[simp] theorem setCore_grps (s : State) (c : Core) : (s.setCore c).grps = s.grps := by
  unfold State.setCore; split <;> rfl
@[simp] theorem setCore_w (s : State) (c : Core) : (s.setCore c).w = s.w := by
  unfold State.setCore; split <;> rfl
@[simp] theorem setCore_wgs (s : State) (c : Core) : (s.setCore c).wgs = s.wgs := by
  unfold State.setCore; split <;> rfl
@[simp] theorem setCore_dies (s : State) (c : Core) : (s.setCore c).dies = s.dies := by
  unfold State.setCore; split <;> rfl
@[simp] theorem setCore_engines (s : State) (c : Core) : (s.setCore c).engines = s.engines := by
  unfold State.setCore; split <;> rfl
@[simp] theorem setCore_mem (s : State) (c : Core) : (s.setCore c).mem = s.mem := by
  unfold State.setCore; split <;> rfl
@[simp] theorem setCore_l2 (s : State) (c : Core) : (s.setCore c).l2 = s.l2 := by
  unfold State.setCore; split <;> rfl
@[simp] theorem setCore_stores (s : State) (c : Core) : (s.setCore c).stores = s.stores := by
  unfold State.setCore; split <;> rfl
@[simp] theorem setCore_poison (s : State) (c : Core) : (s.setCore c).poison = s.poison := by
  unfold State.setCore; split <;> rfl
@[simp] theorem setCore_fabric (s : State) (c : Core) : (s.setCore c).fabric = s.fabric := by
  unfold State.setCore; split <;> rfl
@[simp] theorem setCore_tasks (s : State) (c : Core) : (s.setCore c).tasks = s.tasks := by
  unfold State.setCore; split <;> rfl
@[simp] theorem setCore_streams (s : State) (c : Core) : (s.setCore c).streams = s.streams := by
  unfold State.setCore; split <;> rfl
@[simp] theorem setCore_rings (s : State) (c : Core) : (s.setCore c).rings = s.rings := by
  unfold State.setCore; split <;> rfl
@[simp] theorem setCore_fq (s : State) (c : Core) : (s.setCore c).fq = s.fq := by
  unfold State.setCore; split <;> rfl
@[simp] theorem setCore_replies (s : State) (c : Core) : (s.setCore c).replies = s.replies := by
  unfold State.setCore; split <;> rfl
@[simp] theorem setCore_clears (s : State) (c : Core) : (s.setCore c).clears = s.clears := by
  unfold State.setCore; split <;> rfl
@[simp] theorem setCore_stale (s : State) (c : Core) : (s.setCore c).stale = s.stale := by
  unfold State.setCore; split <;> rfl
@[simp] theorem setCore_owned (s : State) (c : Core) : (s.setCore c).owned = s.owned := by
  unfold State.setCore; split <;> rfl
@[simp] theorem setCore_host (s : State) (c : Core) : (s.setCore c).host = s.host := by
  unfold State.setCore; split <;> rfl
@[simp] theorem setCore_hash (s : State) (c : Core) : (s.setCore c).hash = s.hash := by
  unfold State.setCore; split <;> rfl
@[simp] theorem setCore_pkg (s : State) (c : Core) : (s.setCore c).pkg = s.pkg := by
  unfold State.setCore; split <;> rfl
@[simp] theorem setCore_vuvs (s : State) (c : Core) : (s.setCore c).vuvs = s.vuvs := by
  unfold State.setCore; split <;> rfl
@[simp] theorem setCore_dtime (s : State) (c : Core) : (s.setCore c).dtime = s.dtime := by
  unfold State.setCore; split <;> rfl
@[simp] theorem setCore_dfrac (s : State) (c : Core) : (s.setCore c).dfrac = s.dfrac := by
  unfold State.setCore; split <;> rfl
@[simp] theorem setCore_notif (s : State) (c : Core) : (s.setCore c).notif = s.notif := by
  unfold State.setCore; split <;> rfl
@[simp] theorem setCore_sched (s : State) (c : Core) : (s.setCore c).sched = s.sched := by
  unfold State.setCore; split <;> rfl
@[simp] theorem setCore_free (s : State) (c : Core) : (s.setCore c).free = s.free := by
  unfold State.setCore; split <;> rfl
@[simp] theorem setCore_nextId (s : State) (c : Core) : (s.setCore c).nextId = s.nextId := by
  unfold State.setCore; split <;> rfl
@[simp] theorem setDie_g (s : State) (c : Die) : (s.setDie c).g = s.g := by
  unfold State.setDie; split <;> rfl
@[simp] theorem setDie_grps (s : State) (c : Die) : (s.setDie c).grps = s.grps := by
  unfold State.setDie; split <;> rfl
@[simp] theorem setDie_w (s : State) (c : Die) : (s.setDie c).w = s.w := by
  unfold State.setDie; split <;> rfl
@[simp] theorem setDie_wgs (s : State) (c : Die) : (s.setDie c).wgs = s.wgs := by
  unfold State.setDie; split <;> rfl
@[simp] theorem setDie_cores (s : State) (c : Die) : (s.setDie c).cores = s.cores := by
  unfold State.setDie; split <;> rfl
@[simp] theorem setDie_engines (s : State) (c : Die) : (s.setDie c).engines = s.engines := by
  unfold State.setDie; split <;> rfl
@[simp] theorem setDie_mem (s : State) (c : Die) : (s.setDie c).mem = s.mem := by
  unfold State.setDie; split <;> rfl
@[simp] theorem setDie_l2 (s : State) (c : Die) : (s.setDie c).l2 = s.l2 := by
  unfold State.setDie; split <;> rfl
@[simp] theorem setDie_stores (s : State) (c : Die) : (s.setDie c).stores = s.stores := by
  unfold State.setDie; split <;> rfl
@[simp] theorem setDie_poison (s : State) (c : Die) : (s.setDie c).poison = s.poison := by
  unfold State.setDie; split <;> rfl
@[simp] theorem setDie_fabric (s : State) (c : Die) : (s.setDie c).fabric = s.fabric := by
  unfold State.setDie; split <;> rfl
@[simp] theorem setDie_tasks (s : State) (c : Die) : (s.setDie c).tasks = s.tasks := by
  unfold State.setDie; split <;> rfl
@[simp] theorem setDie_streams (s : State) (c : Die) : (s.setDie c).streams = s.streams := by
  unfold State.setDie; split <;> rfl
@[simp] theorem setDie_rings (s : State) (c : Die) : (s.setDie c).rings = s.rings := by
  unfold State.setDie; split <;> rfl
@[simp] theorem setDie_fq (s : State) (c : Die) : (s.setDie c).fq = s.fq := by
  unfold State.setDie; split <;> rfl
@[simp] theorem setDie_replies (s : State) (c : Die) : (s.setDie c).replies = s.replies := by
  unfold State.setDie; split <;> rfl
@[simp] theorem setDie_clears (s : State) (c : Die) : (s.setDie c).clears = s.clears := by
  unfold State.setDie; split <;> rfl
@[simp] theorem setDie_stale (s : State) (c : Die) : (s.setDie c).stale = s.stale := by
  unfold State.setDie; split <;> rfl
@[simp] theorem setDie_owned (s : State) (c : Die) : (s.setDie c).owned = s.owned := by
  unfold State.setDie; split <;> rfl
@[simp] theorem setDie_host (s : State) (c : Die) : (s.setDie c).host = s.host := by
  unfold State.setDie; split <;> rfl
@[simp] theorem setDie_hash (s : State) (c : Die) : (s.setDie c).hash = s.hash := by
  unfold State.setDie; split <;> rfl
@[simp] theorem setDie_pkg (s : State) (c : Die) : (s.setDie c).pkg = s.pkg := by
  unfold State.setDie; split <;> rfl
@[simp] theorem setDie_vuvs (s : State) (c : Die) : (s.setDie c).vuvs = s.vuvs := by
  unfold State.setDie; split <;> rfl
@[simp] theorem setDie_dtime (s : State) (c : Die) : (s.setDie c).dtime = s.dtime := by
  unfold State.setDie; split <;> rfl
@[simp] theorem setDie_dfrac (s : State) (c : Die) : (s.setDie c).dfrac = s.dfrac := by
  unfold State.setDie; split <;> rfl
@[simp] theorem setDie_notif (s : State) (c : Die) : (s.setDie c).notif = s.notif := by
  unfold State.setDie; split <;> rfl
@[simp] theorem setDie_sched (s : State) (c : Die) : (s.setDie c).sched = s.sched := by
  unfold State.setDie; split <;> rfl
@[simp] theorem setDie_free (s : State) (c : Die) : (s.setDie c).free = s.free := by
  unfold State.setDie; split <;> rfl
@[simp] theorem setDie_nextId (s : State) (c : Die) : (s.setDie c).nextId = s.nextId := by
  unfold State.setDie; split <;> rfl
@[simp] theorem modCore_g (s : State) (id : CoreId) (f : Core → Core) : (s.modCore id f).g = s.g := by
  unfold State.modCore; simp
@[simp] theorem modCore_grps (s : State) (id : CoreId) (f : Core → Core) : (s.modCore id f).grps = s.grps := by
  unfold State.modCore; simp
@[simp] theorem modCore_w (s : State) (id : CoreId) (f : Core → Core) : (s.modCore id f).w = s.w := by
  unfold State.modCore; simp
@[simp] theorem modCore_wgs (s : State) (id : CoreId) (f : Core → Core) : (s.modCore id f).wgs = s.wgs := by
  unfold State.modCore; simp
@[simp] theorem modCore_dies (s : State) (id : CoreId) (f : Core → Core) : (s.modCore id f).dies = s.dies := by
  unfold State.modCore; simp
@[simp] theorem modCore_engines (s : State) (id : CoreId) (f : Core → Core) : (s.modCore id f).engines = s.engines := by
  unfold State.modCore; simp
@[simp] theorem modCore_mem (s : State) (id : CoreId) (f : Core → Core) : (s.modCore id f).mem = s.mem := by
  unfold State.modCore; simp
@[simp] theorem modCore_l2 (s : State) (id : CoreId) (f : Core → Core) : (s.modCore id f).l2 = s.l2 := by
  unfold State.modCore; simp
@[simp] theorem modCore_stores (s : State) (id : CoreId) (f : Core → Core) : (s.modCore id f).stores = s.stores := by
  unfold State.modCore; simp
@[simp] theorem modCore_poison (s : State) (id : CoreId) (f : Core → Core) : (s.modCore id f).poison = s.poison := by
  unfold State.modCore; simp
@[simp] theorem modCore_fabric (s : State) (id : CoreId) (f : Core → Core) : (s.modCore id f).fabric = s.fabric := by
  unfold State.modCore; simp
@[simp] theorem modCore_tasks (s : State) (id : CoreId) (f : Core → Core) : (s.modCore id f).tasks = s.tasks := by
  unfold State.modCore; simp
@[simp] theorem modCore_streams (s : State) (id : CoreId) (f : Core → Core) : (s.modCore id f).streams = s.streams := by
  unfold State.modCore; simp
@[simp] theorem modCore_rings (s : State) (id : CoreId) (f : Core → Core) : (s.modCore id f).rings = s.rings := by
  unfold State.modCore; simp
@[simp] theorem modCore_fq (s : State) (id : CoreId) (f : Core → Core) : (s.modCore id f).fq = s.fq := by
  unfold State.modCore; simp
@[simp] theorem modCore_replies (s : State) (id : CoreId) (f : Core → Core) : (s.modCore id f).replies = s.replies := by
  unfold State.modCore; simp
@[simp] theorem modCore_clears (s : State) (id : CoreId) (f : Core → Core) : (s.modCore id f).clears = s.clears := by
  unfold State.modCore; simp
@[simp] theorem modCore_stale (s : State) (id : CoreId) (f : Core → Core) : (s.modCore id f).stale = s.stale := by
  unfold State.modCore; simp
@[simp] theorem modCore_owned (s : State) (id : CoreId) (f : Core → Core) : (s.modCore id f).owned = s.owned := by
  unfold State.modCore; simp
@[simp] theorem modCore_host (s : State) (id : CoreId) (f : Core → Core) : (s.modCore id f).host = s.host := by
  unfold State.modCore; simp
@[simp] theorem modCore_hash (s : State) (id : CoreId) (f : Core → Core) : (s.modCore id f).hash = s.hash := by
  unfold State.modCore; simp
@[simp] theorem modCore_pkg (s : State) (id : CoreId) (f : Core → Core) : (s.modCore id f).pkg = s.pkg := by
  unfold State.modCore; simp
@[simp] theorem modCore_vuvs (s : State) (id : CoreId) (f : Core → Core) : (s.modCore id f).vuvs = s.vuvs := by
  unfold State.modCore; simp
@[simp] theorem modCore_dtime (s : State) (id : CoreId) (f : Core → Core) : (s.modCore id f).dtime = s.dtime := by
  unfold State.modCore; simp
@[simp] theorem modCore_dfrac (s : State) (id : CoreId) (f : Core → Core) : (s.modCore id f).dfrac = s.dfrac := by
  unfold State.modCore; simp
@[simp] theorem modCore_notif (s : State) (id : CoreId) (f : Core → Core) : (s.modCore id f).notif = s.notif := by
  unfold State.modCore; simp
@[simp] theorem modCore_sched (s : State) (id : CoreId) (f : Core → Core) : (s.modCore id f).sched = s.sched := by
  unfold State.modCore; simp
@[simp] theorem modCore_free (s : State) (id : CoreId) (f : Core → Core) : (s.modCore id f).free = s.free := by
  unfold State.modCore; simp
@[simp] theorem modCore_nextId (s : State) (id : CoreId) (f : Core → Core) : (s.modCore id f).nextId = s.nextId := by
  unfold State.modCore; simp
@[simp] theorem modDie_g (s : State) (n : Nat) (f : Die → Die) : (s.modDie n f).g = s.g := by
  unfold State.modDie; simp
@[simp] theorem modDie_grps (s : State) (n : Nat) (f : Die → Die) : (s.modDie n f).grps = s.grps := by
  unfold State.modDie; simp
@[simp] theorem modDie_w (s : State) (n : Nat) (f : Die → Die) : (s.modDie n f).w = s.w := by
  unfold State.modDie; simp
@[simp] theorem modDie_wgs (s : State) (n : Nat) (f : Die → Die) : (s.modDie n f).wgs = s.wgs := by
  unfold State.modDie; simp
@[simp] theorem modDie_cores (s : State) (n : Nat) (f : Die → Die) : (s.modDie n f).cores = s.cores := by
  unfold State.modDie; simp
@[simp] theorem modDie_engines (s : State) (n : Nat) (f : Die → Die) : (s.modDie n f).engines = s.engines := by
  unfold State.modDie; simp
@[simp] theorem modDie_mem (s : State) (n : Nat) (f : Die → Die) : (s.modDie n f).mem = s.mem := by
  unfold State.modDie; simp
@[simp] theorem modDie_l2 (s : State) (n : Nat) (f : Die → Die) : (s.modDie n f).l2 = s.l2 := by
  unfold State.modDie; simp
@[simp] theorem modDie_stores (s : State) (n : Nat) (f : Die → Die) : (s.modDie n f).stores = s.stores := by
  unfold State.modDie; simp
@[simp] theorem modDie_poison (s : State) (n : Nat) (f : Die → Die) : (s.modDie n f).poison = s.poison := by
  unfold State.modDie; simp
@[simp] theorem modDie_fabric (s : State) (n : Nat) (f : Die → Die) : (s.modDie n f).fabric = s.fabric := by
  unfold State.modDie; simp
@[simp] theorem modDie_tasks (s : State) (n : Nat) (f : Die → Die) : (s.modDie n f).tasks = s.tasks := by
  unfold State.modDie; simp
@[simp] theorem modDie_streams (s : State) (n : Nat) (f : Die → Die) : (s.modDie n f).streams = s.streams := by
  unfold State.modDie; simp
@[simp] theorem modDie_rings (s : State) (n : Nat) (f : Die → Die) : (s.modDie n f).rings = s.rings := by
  unfold State.modDie; simp
@[simp] theorem modDie_fq (s : State) (n : Nat) (f : Die → Die) : (s.modDie n f).fq = s.fq := by
  unfold State.modDie; simp
@[simp] theorem modDie_replies (s : State) (n : Nat) (f : Die → Die) : (s.modDie n f).replies = s.replies := by
  unfold State.modDie; simp
@[simp] theorem modDie_clears (s : State) (n : Nat) (f : Die → Die) : (s.modDie n f).clears = s.clears := by
  unfold State.modDie; simp
@[simp] theorem modDie_stale (s : State) (n : Nat) (f : Die → Die) : (s.modDie n f).stale = s.stale := by
  unfold State.modDie; simp
@[simp] theorem modDie_owned (s : State) (n : Nat) (f : Die → Die) : (s.modDie n f).owned = s.owned := by
  unfold State.modDie; simp
@[simp] theorem modDie_host (s : State) (n : Nat) (f : Die → Die) : (s.modDie n f).host = s.host := by
  unfold State.modDie; simp
@[simp] theorem modDie_hash (s : State) (n : Nat) (f : Die → Die) : (s.modDie n f).hash = s.hash := by
  unfold State.modDie; simp
@[simp] theorem modDie_pkg (s : State) (n : Nat) (f : Die → Die) : (s.modDie n f).pkg = s.pkg := by
  unfold State.modDie; simp
@[simp] theorem modDie_vuvs (s : State) (n : Nat) (f : Die → Die) : (s.modDie n f).vuvs = s.vuvs := by
  unfold State.modDie; simp
@[simp] theorem modDie_dtime (s : State) (n : Nat) (f : Die → Die) : (s.modDie n f).dtime = s.dtime := by
  unfold State.modDie; simp
@[simp] theorem modDie_dfrac (s : State) (n : Nat) (f : Die → Die) : (s.modDie n f).dfrac = s.dfrac := by
  unfold State.modDie; simp
@[simp] theorem modDie_notif (s : State) (n : Nat) (f : Die → Die) : (s.modDie n f).notif = s.notif := by
  unfold State.modDie; simp
@[simp] theorem modDie_sched (s : State) (n : Nat) (f : Die → Die) : (s.modDie n f).sched = s.sched := by
  unfold State.modDie; simp
@[simp] theorem modDie_free (s : State) (n : Nat) (f : Die → Die) : (s.modDie n f).free = s.free := by
  unfold State.modDie; simp
@[simp] theorem modDie_nextId (s : State) (n : Nat) (f : Die → Die) : (s.modDie n f).nextId = s.nextId := by
  unfold State.modDie; simp

/-! ## L1 maintenance -/

@[simp] theorem l1Drop_g (s : State) (c : CoreId) (p : Nat → Bool) : (s.l1Drop c p).g = s.g := by
  simp [State.l1Drop]
@[simp] theorem l1Drop_grps (s : State) (c : CoreId) (p : Nat → Bool) : (s.l1Drop c p).grps = s.grps := by
  simp [State.l1Drop]
@[simp] theorem l1Drop_w (s : State) (c : CoreId) (p : Nat → Bool) : (s.l1Drop c p).w = s.w := by
  simp [State.l1Drop]
@[simp] theorem l1Drop_wgs (s : State) (c : CoreId) (p : Nat → Bool) : (s.l1Drop c p).wgs = s.wgs := by
  simp [State.l1Drop]
@[simp] theorem l1Drop_dies (s : State) (c : CoreId) (p : Nat → Bool) : (s.l1Drop c p).dies = s.dies := by
  simp [State.l1Drop]
@[simp] theorem l1Drop_engines (s : State) (c : CoreId) (p : Nat → Bool) : (s.l1Drop c p).engines = s.engines := by
  simp [State.l1Drop]
@[simp] theorem l1Drop_mem (s : State) (c : CoreId) (p : Nat → Bool) : (s.l1Drop c p).mem = s.mem := by
  simp [State.l1Drop]
@[simp] theorem l1Drop_l2 (s : State) (c : CoreId) (p : Nat → Bool) : (s.l1Drop c p).l2 = s.l2 := by
  simp [State.l1Drop]
@[simp] theorem l1Drop_stores (s : State) (c : CoreId) (p : Nat → Bool) : (s.l1Drop c p).stores = s.stores := by
  simp [State.l1Drop]
@[simp] theorem l1Drop_poison (s : State) (c : CoreId) (p : Nat → Bool) : (s.l1Drop c p).poison = s.poison := by
  simp [State.l1Drop]
@[simp] theorem l1Drop_fabric (s : State) (c : CoreId) (p : Nat → Bool) : (s.l1Drop c p).fabric = s.fabric := by
  simp [State.l1Drop]
@[simp] theorem l1Drop_tasks (s : State) (c : CoreId) (p : Nat → Bool) : (s.l1Drop c p).tasks = s.tasks := by
  simp [State.l1Drop]
@[simp] theorem l1Drop_streams (s : State) (c : CoreId) (p : Nat → Bool) : (s.l1Drop c p).streams = s.streams := by
  simp [State.l1Drop]
@[simp] theorem l1Drop_rings (s : State) (c : CoreId) (p : Nat → Bool) : (s.l1Drop c p).rings = s.rings := by
  simp [State.l1Drop]
@[simp] theorem l1Drop_fq (s : State) (c : CoreId) (p : Nat → Bool) : (s.l1Drop c p).fq = s.fq := by
  simp [State.l1Drop]
@[simp] theorem l1Drop_replies (s : State) (c : CoreId) (p : Nat → Bool) : (s.l1Drop c p).replies = s.replies := by
  simp [State.l1Drop]
@[simp] theorem l1Drop_clears (s : State) (c : CoreId) (p : Nat → Bool) : (s.l1Drop c p).clears = s.clears := by
  simp [State.l1Drop]
@[simp] theorem l1Drop_stale (s : State) (c : CoreId) (p : Nat → Bool) : (s.l1Drop c p).stale = s.stale := by
  simp [State.l1Drop]
@[simp] theorem l1Drop_owned (s : State) (c : CoreId) (p : Nat → Bool) : (s.l1Drop c p).owned = s.owned := by
  simp [State.l1Drop]
@[simp] theorem l1Drop_host (s : State) (c : CoreId) (p : Nat → Bool) : (s.l1Drop c p).host = s.host := by
  simp [State.l1Drop]
@[simp] theorem l1Drop_hash (s : State) (c : CoreId) (p : Nat → Bool) : (s.l1Drop c p).hash = s.hash := by
  simp [State.l1Drop]
@[simp] theorem l1Drop_pkg (s : State) (c : CoreId) (p : Nat → Bool) : (s.l1Drop c p).pkg = s.pkg := by
  simp [State.l1Drop]
@[simp] theorem l1Drop_vuvs (s : State) (c : CoreId) (p : Nat → Bool) : (s.l1Drop c p).vuvs = s.vuvs := by
  simp [State.l1Drop]
@[simp] theorem l1Drop_dtime (s : State) (c : CoreId) (p : Nat → Bool) : (s.l1Drop c p).dtime = s.dtime := by
  simp [State.l1Drop]
@[simp] theorem l1Drop_dfrac (s : State) (c : CoreId) (p : Nat → Bool) : (s.l1Drop c p).dfrac = s.dfrac := by
  simp [State.l1Drop]
@[simp] theorem l1Drop_notif (s : State) (c : CoreId) (p : Nat → Bool) : (s.l1Drop c p).notif = s.notif := by
  simp [State.l1Drop]
@[simp] theorem l1Drop_sched (s : State) (c : CoreId) (p : Nat → Bool) : (s.l1Drop c p).sched = s.sched := by
  simp [State.l1Drop]
@[simp] theorem l1Drop_free (s : State) (c : CoreId) (p : Nat → Bool) : (s.l1Drop c p).free = s.free := by
  simp [State.l1Drop]
@[simp] theorem l1Drop_nextId (s : State) (c : CoreId) (p : Nat → Bool) : (s.l1Drop c p).nextId = s.nextId := by
  simp [State.l1Drop]
@[simp] theorem l1Clear_g (s : State) (c : CoreId) : (s.l1Clear c).g = s.g := by
  simp [State.l1Clear]
@[simp] theorem l1Clear_grps (s : State) (c : CoreId) : (s.l1Clear c).grps = s.grps := by
  simp [State.l1Clear]
@[simp] theorem l1Clear_w (s : State) (c : CoreId) : (s.l1Clear c).w = s.w := by
  simp [State.l1Clear]
@[simp] theorem l1Clear_wgs (s : State) (c : CoreId) : (s.l1Clear c).wgs = s.wgs := by
  simp [State.l1Clear]
@[simp] theorem l1Clear_dies (s : State) (c : CoreId) : (s.l1Clear c).dies = s.dies := by
  simp [State.l1Clear]
@[simp] theorem l1Clear_engines (s : State) (c : CoreId) : (s.l1Clear c).engines = s.engines := by
  simp [State.l1Clear]
@[simp] theorem l1Clear_mem (s : State) (c : CoreId) : (s.l1Clear c).mem = s.mem := by
  simp [State.l1Clear]
@[simp] theorem l1Clear_l2 (s : State) (c : CoreId) : (s.l1Clear c).l2 = s.l2 := by
  simp [State.l1Clear]
@[simp] theorem l1Clear_stores (s : State) (c : CoreId) : (s.l1Clear c).stores = s.stores := by
  simp [State.l1Clear]
@[simp] theorem l1Clear_poison (s : State) (c : CoreId) : (s.l1Clear c).poison = s.poison := by
  simp [State.l1Clear]
@[simp] theorem l1Clear_fabric (s : State) (c : CoreId) : (s.l1Clear c).fabric = s.fabric := by
  simp [State.l1Clear]
@[simp] theorem l1Clear_tasks (s : State) (c : CoreId) : (s.l1Clear c).tasks = s.tasks := by
  simp [State.l1Clear]
@[simp] theorem l1Clear_streams (s : State) (c : CoreId) : (s.l1Clear c).streams = s.streams := by
  simp [State.l1Clear]
@[simp] theorem l1Clear_rings (s : State) (c : CoreId) : (s.l1Clear c).rings = s.rings := by
  simp [State.l1Clear]
@[simp] theorem l1Clear_fq (s : State) (c : CoreId) : (s.l1Clear c).fq = s.fq := by
  simp [State.l1Clear]
@[simp] theorem l1Clear_replies (s : State) (c : CoreId) : (s.l1Clear c).replies = s.replies := by
  simp [State.l1Clear]
@[simp] theorem l1Clear_clears (s : State) (c : CoreId) : (s.l1Clear c).clears = s.clears := by
  simp [State.l1Clear]
@[simp] theorem l1Clear_stale (s : State) (c : CoreId) : (s.l1Clear c).stale = s.stale := by
  simp [State.l1Clear]
@[simp] theorem l1Clear_owned (s : State) (c : CoreId) : (s.l1Clear c).owned = s.owned := by
  simp [State.l1Clear]
@[simp] theorem l1Clear_host (s : State) (c : CoreId) : (s.l1Clear c).host = s.host := by
  simp [State.l1Clear]
@[simp] theorem l1Clear_hash (s : State) (c : CoreId) : (s.l1Clear c).hash = s.hash := by
  simp [State.l1Clear]
@[simp] theorem l1Clear_pkg (s : State) (c : CoreId) : (s.l1Clear c).pkg = s.pkg := by
  simp [State.l1Clear]
@[simp] theorem l1Clear_vuvs (s : State) (c : CoreId) : (s.l1Clear c).vuvs = s.vuvs := by
  simp [State.l1Clear]
@[simp] theorem l1Clear_dtime (s : State) (c : CoreId) : (s.l1Clear c).dtime = s.dtime := by
  simp [State.l1Clear]
@[simp] theorem l1Clear_dfrac (s : State) (c : CoreId) : (s.l1Clear c).dfrac = s.dfrac := by
  simp [State.l1Clear]
@[simp] theorem l1Clear_notif (s : State) (c : CoreId) : (s.l1Clear c).notif = s.notif := by
  simp [State.l1Clear]
@[simp] theorem l1Clear_sched (s : State) (c : CoreId) : (s.l1Clear c).sched = s.sched := by
  simp [State.l1Clear]
@[simp] theorem l1Clear_free (s : State) (c : CoreId) : (s.l1Clear c).free = s.free := by
  simp [State.l1Clear]
@[simp] theorem l1Clear_nextId (s : State) (c : CoreId) : (s.l1Clear c).nextId = s.nextId := by
  simp [State.l1Clear]
@[simp] theorem l1Update_g (s : State) (c : CoreId) (o : Nat) (d : List Byte) : (s.l1Update c o d).g = s.g := by
  simp [State.l1Update]
@[simp] theorem l1Update_grps (s : State) (c : CoreId) (o : Nat) (d : List Byte) : (s.l1Update c o d).grps = s.grps := by
  simp [State.l1Update]
@[simp] theorem l1Update_w (s : State) (c : CoreId) (o : Nat) (d : List Byte) : (s.l1Update c o d).w = s.w := by
  simp [State.l1Update]
@[simp] theorem l1Update_wgs (s : State) (c : CoreId) (o : Nat) (d : List Byte) : (s.l1Update c o d).wgs = s.wgs := by
  simp [State.l1Update]
@[simp] theorem l1Update_dies (s : State) (c : CoreId) (o : Nat) (d : List Byte) : (s.l1Update c o d).dies = s.dies := by
  simp [State.l1Update]
@[simp] theorem l1Update_engines (s : State) (c : CoreId) (o : Nat) (d : List Byte) : (s.l1Update c o d).engines = s.engines := by
  simp [State.l1Update]
@[simp] theorem l1Update_mem (s : State) (c : CoreId) (o : Nat) (d : List Byte) : (s.l1Update c o d).mem = s.mem := by
  simp [State.l1Update]
@[simp] theorem l1Update_l2 (s : State) (c : CoreId) (o : Nat) (d : List Byte) : (s.l1Update c o d).l2 = s.l2 := by
  simp [State.l1Update]
@[simp] theorem l1Update_stores (s : State) (c : CoreId) (o : Nat) (d : List Byte) : (s.l1Update c o d).stores = s.stores := by
  simp [State.l1Update]
@[simp] theorem l1Update_poison (s : State) (c : CoreId) (o : Nat) (d : List Byte) : (s.l1Update c o d).poison = s.poison := by
  simp [State.l1Update]
@[simp] theorem l1Update_fabric (s : State) (c : CoreId) (o : Nat) (d : List Byte) : (s.l1Update c o d).fabric = s.fabric := by
  simp [State.l1Update]
@[simp] theorem l1Update_tasks (s : State) (c : CoreId) (o : Nat) (d : List Byte) : (s.l1Update c o d).tasks = s.tasks := by
  simp [State.l1Update]
@[simp] theorem l1Update_streams (s : State) (c : CoreId) (o : Nat) (d : List Byte) : (s.l1Update c o d).streams = s.streams := by
  simp [State.l1Update]
@[simp] theorem l1Update_rings (s : State) (c : CoreId) (o : Nat) (d : List Byte) : (s.l1Update c o d).rings = s.rings := by
  simp [State.l1Update]
@[simp] theorem l1Update_fq (s : State) (c : CoreId) (o : Nat) (d : List Byte) : (s.l1Update c o d).fq = s.fq := by
  simp [State.l1Update]
@[simp] theorem l1Update_replies (s : State) (c : CoreId) (o : Nat) (d : List Byte) : (s.l1Update c o d).replies = s.replies := by
  simp [State.l1Update]
@[simp] theorem l1Update_clears (s : State) (c : CoreId) (o : Nat) (d : List Byte) : (s.l1Update c o d).clears = s.clears := by
  simp [State.l1Update]
@[simp] theorem l1Update_stale (s : State) (c : CoreId) (o : Nat) (d : List Byte) : (s.l1Update c o d).stale = s.stale := by
  simp [State.l1Update]
@[simp] theorem l1Update_owned (s : State) (c : CoreId) (o : Nat) (d : List Byte) : (s.l1Update c o d).owned = s.owned := by
  simp [State.l1Update]
@[simp] theorem l1Update_host (s : State) (c : CoreId) (o : Nat) (d : List Byte) : (s.l1Update c o d).host = s.host := by
  simp [State.l1Update]
@[simp] theorem l1Update_hash (s : State) (c : CoreId) (o : Nat) (d : List Byte) : (s.l1Update c o d).hash = s.hash := by
  simp [State.l1Update]
@[simp] theorem l1Update_pkg (s : State) (c : CoreId) (o : Nat) (d : List Byte) : (s.l1Update c o d).pkg = s.pkg := by
  simp [State.l1Update]
@[simp] theorem l1Update_vuvs (s : State) (c : CoreId) (o : Nat) (d : List Byte) : (s.l1Update c o d).vuvs = s.vuvs := by
  simp [State.l1Update]
@[simp] theorem l1Update_dtime (s : State) (c : CoreId) (o : Nat) (d : List Byte) : (s.l1Update c o d).dtime = s.dtime := by
  simp [State.l1Update]
@[simp] theorem l1Update_dfrac (s : State) (c : CoreId) (o : Nat) (d : List Byte) : (s.l1Update c o d).dfrac = s.dfrac := by
  simp [State.l1Update]
@[simp] theorem l1Update_notif (s : State) (c : CoreId) (o : Nat) (d : List Byte) : (s.l1Update c o d).notif = s.notif := by
  simp [State.l1Update]
@[simp] theorem l1Update_sched (s : State) (c : CoreId) (o : Nat) (d : List Byte) : (s.l1Update c o d).sched = s.sched := by
  simp [State.l1Update]
@[simp] theorem l1Update_free (s : State) (c : CoreId) (o : Nat) (d : List Byte) : (s.l1Update c o d).free = s.free := by
  simp [State.l1Update]
@[simp] theorem l1Update_nextId (s : State) (c : CoreId) (o : Nat) (d : List Byte) : (s.l1Update c o d).nextId = s.nextId := by
  simp [State.l1Update]
@[simp] theorem l1Fill_g (s : State) (c : CoreId) (x : Nat) : (s.l1Fill c x).g = s.g := by
  simp [State.l1Fill]
@[simp] theorem l1Fill_grps (s : State) (c : CoreId) (x : Nat) : (s.l1Fill c x).grps = s.grps := by
  simp [State.l1Fill]
@[simp] theorem l1Fill_w (s : State) (c : CoreId) (x : Nat) : (s.l1Fill c x).w = s.w := by
  simp [State.l1Fill]
@[simp] theorem l1Fill_wgs (s : State) (c : CoreId) (x : Nat) : (s.l1Fill c x).wgs = s.wgs := by
  simp [State.l1Fill]
@[simp] theorem l1Fill_dies (s : State) (c : CoreId) (x : Nat) : (s.l1Fill c x).dies = s.dies := by
  simp [State.l1Fill]
@[simp] theorem l1Fill_engines (s : State) (c : CoreId) (x : Nat) : (s.l1Fill c x).engines = s.engines := by
  simp [State.l1Fill]
@[simp] theorem l1Fill_mem (s : State) (c : CoreId) (x : Nat) : (s.l1Fill c x).mem = s.mem := by
  simp [State.l1Fill]
@[simp] theorem l1Fill_l2 (s : State) (c : CoreId) (x : Nat) : (s.l1Fill c x).l2 = s.l2 := by
  simp [State.l1Fill]
@[simp] theorem l1Fill_stores (s : State) (c : CoreId) (x : Nat) : (s.l1Fill c x).stores = s.stores := by
  simp [State.l1Fill]
@[simp] theorem l1Fill_poison (s : State) (c : CoreId) (x : Nat) : (s.l1Fill c x).poison = s.poison := by
  simp [State.l1Fill]
@[simp] theorem l1Fill_fabric (s : State) (c : CoreId) (x : Nat) : (s.l1Fill c x).fabric = s.fabric := by
  simp [State.l1Fill]
@[simp] theorem l1Fill_tasks (s : State) (c : CoreId) (x : Nat) : (s.l1Fill c x).tasks = s.tasks := by
  simp [State.l1Fill]
@[simp] theorem l1Fill_streams (s : State) (c : CoreId) (x : Nat) : (s.l1Fill c x).streams = s.streams := by
  simp [State.l1Fill]
@[simp] theorem l1Fill_rings (s : State) (c : CoreId) (x : Nat) : (s.l1Fill c x).rings = s.rings := by
  simp [State.l1Fill]
@[simp] theorem l1Fill_fq (s : State) (c : CoreId) (x : Nat) : (s.l1Fill c x).fq = s.fq := by
  simp [State.l1Fill]
@[simp] theorem l1Fill_replies (s : State) (c : CoreId) (x : Nat) : (s.l1Fill c x).replies = s.replies := by
  simp [State.l1Fill]
@[simp] theorem l1Fill_clears (s : State) (c : CoreId) (x : Nat) : (s.l1Fill c x).clears = s.clears := by
  simp [State.l1Fill]
@[simp] theorem l1Fill_stale (s : State) (c : CoreId) (x : Nat) : (s.l1Fill c x).stale = s.stale := by
  simp [State.l1Fill]
@[simp] theorem l1Fill_owned (s : State) (c : CoreId) (x : Nat) : (s.l1Fill c x).owned = s.owned := by
  simp [State.l1Fill]
@[simp] theorem l1Fill_host (s : State) (c : CoreId) (x : Nat) : (s.l1Fill c x).host = s.host := by
  simp [State.l1Fill]
@[simp] theorem l1Fill_hash (s : State) (c : CoreId) (x : Nat) : (s.l1Fill c x).hash = s.hash := by
  simp [State.l1Fill]
@[simp] theorem l1Fill_pkg (s : State) (c : CoreId) (x : Nat) : (s.l1Fill c x).pkg = s.pkg := by
  simp [State.l1Fill]
@[simp] theorem l1Fill_vuvs (s : State) (c : CoreId) (x : Nat) : (s.l1Fill c x).vuvs = s.vuvs := by
  simp [State.l1Fill]
@[simp] theorem l1Fill_dtime (s : State) (c : CoreId) (x : Nat) : (s.l1Fill c x).dtime = s.dtime := by
  simp [State.l1Fill]
@[simp] theorem l1Fill_dfrac (s : State) (c : CoreId) (x : Nat) : (s.l1Fill c x).dfrac = s.dfrac := by
  simp [State.l1Fill]
@[simp] theorem l1Fill_notif (s : State) (c : CoreId) (x : Nat) : (s.l1Fill c x).notif = s.notif := by
  simp [State.l1Fill]
@[simp] theorem l1Fill_sched (s : State) (c : CoreId) (x : Nat) : (s.l1Fill c x).sched = s.sched := by
  simp [State.l1Fill]
@[simp] theorem l1Fill_free (s : State) (c : CoreId) (x : Nat) : (s.l1Fill c x).free = s.free := by
  simp [State.l1Fill]
@[simp] theorem l1Fill_nextId (s : State) (c : CoreId) (x : Nat) : (s.l1Fill c x).nextId = s.nextId := by
  simp [State.l1Fill]

/-! ## notify, unnotify -/

@[simp] theorem notify_g (s : State) (b : Nat) : (s.notify b).g = s.g := by
  unfold State.notify; split <;> rfl
@[simp] theorem unnotify_g (s : State) (b : Nat) : (s.unnotify b).g = s.g := rfl
@[simp] theorem notify_grps (s : State) (b : Nat) : (s.notify b).grps = s.grps := by
  unfold State.notify; split <;> rfl
@[simp] theorem unnotify_grps (s : State) (b : Nat) : (s.unnotify b).grps = s.grps := rfl
@[simp] theorem notify_w (s : State) (b : Nat) : (s.notify b).w = s.w := by
  unfold State.notify; split <;> rfl
@[simp] theorem unnotify_w (s : State) (b : Nat) : (s.unnotify b).w = s.w := rfl
@[simp] theorem notify_wgs (s : State) (b : Nat) : (s.notify b).wgs = s.wgs := by
  unfold State.notify; split <;> rfl
@[simp] theorem unnotify_wgs (s : State) (b : Nat) : (s.unnotify b).wgs = s.wgs := rfl
@[simp] theorem notify_cores (s : State) (b : Nat) : (s.notify b).cores = s.cores := by
  unfold State.notify; split <;> rfl
@[simp] theorem unnotify_cores (s : State) (b : Nat) : (s.unnotify b).cores = s.cores := rfl
@[simp] theorem notify_dies (s : State) (b : Nat) : (s.notify b).dies = s.dies := by
  unfold State.notify; split <;> rfl
@[simp] theorem unnotify_dies (s : State) (b : Nat) : (s.unnotify b).dies = s.dies := rfl
@[simp] theorem notify_engines (s : State) (b : Nat) : (s.notify b).engines = s.engines := by
  unfold State.notify; split <;> rfl
@[simp] theorem unnotify_engines (s : State) (b : Nat) : (s.unnotify b).engines = s.engines := rfl
@[simp] theorem notify_mem (s : State) (b : Nat) : (s.notify b).mem = s.mem := by
  unfold State.notify; split <;> rfl
@[simp] theorem unnotify_mem (s : State) (b : Nat) : (s.unnotify b).mem = s.mem := rfl
@[simp] theorem notify_l2 (s : State) (b : Nat) : (s.notify b).l2 = s.l2 := by
  unfold State.notify; split <;> rfl
@[simp] theorem unnotify_l2 (s : State) (b : Nat) : (s.unnotify b).l2 = s.l2 := rfl
@[simp] theorem notify_stores (s : State) (b : Nat) : (s.notify b).stores = s.stores := by
  unfold State.notify; split <;> rfl
@[simp] theorem unnotify_stores (s : State) (b : Nat) : (s.unnotify b).stores = s.stores := rfl
@[simp] theorem notify_poison (s : State) (b : Nat) : (s.notify b).poison = s.poison := by
  unfold State.notify; split <;> rfl
@[simp] theorem unnotify_poison (s : State) (b : Nat) : (s.unnotify b).poison = s.poison := rfl
@[simp] theorem unnotify_fabric (s : State) (b : Nat) : (s.unnotify b).fabric = s.fabric := rfl
@[simp] theorem notify_tasks (s : State) (b : Nat) : (s.notify b).tasks = s.tasks := by
  unfold State.notify; split <;> rfl
@[simp] theorem unnotify_tasks (s : State) (b : Nat) : (s.unnotify b).tasks = s.tasks := rfl
@[simp] theorem notify_streams (s : State) (b : Nat) : (s.notify b).streams = s.streams := by
  unfold State.notify; split <;> rfl
@[simp] theorem unnotify_streams (s : State) (b : Nat) : (s.unnotify b).streams = s.streams := rfl
@[simp] theorem notify_rings (s : State) (b : Nat) : (s.notify b).rings = s.rings := by
  unfold State.notify; split <;> rfl
@[simp] theorem unnotify_rings (s : State) (b : Nat) : (s.unnotify b).rings = s.rings := rfl
@[simp] theorem notify_fq (s : State) (b : Nat) : (s.notify b).fq = s.fq := by
  unfold State.notify; split <;> rfl
@[simp] theorem unnotify_fq (s : State) (b : Nat) : (s.unnotify b).fq = s.fq := rfl
@[simp] theorem notify_replies (s : State) (b : Nat) : (s.notify b).replies = s.replies := by
  unfold State.notify; split <;> rfl
@[simp] theorem unnotify_replies (s : State) (b : Nat) : (s.unnotify b).replies = s.replies := rfl
@[simp] theorem notify_clears (s : State) (b : Nat) : (s.notify b).clears = s.clears := by
  unfold State.notify; split <;> rfl
@[simp] theorem unnotify_clears (s : State) (b : Nat) : (s.unnotify b).clears = s.clears := rfl
@[simp] theorem notify_stale (s : State) (b : Nat) : (s.notify b).stale = s.stale := by
  unfold State.notify; split <;> rfl
@[simp] theorem notify_owned (s : State) (b : Nat) : (s.notify b).owned = s.owned := by
  unfold State.notify; split <;> rfl
@[simp] theorem unnotify_stale (s : State) (b : Nat) : (s.unnotify b).stale = s.stale := rfl
@[simp] theorem unnotify_owned (s : State) (b : Nat) : (s.unnotify b).owned = s.owned := rfl
@[simp] theorem notify_host (s : State) (b : Nat) : (s.notify b).host = s.host := by
  unfold State.notify; split <;> rfl
@[simp] theorem unnotify_host (s : State) (b : Nat) : (s.unnotify b).host = s.host := rfl
@[simp] theorem notify_hash (s : State) (b : Nat) : (s.notify b).hash = s.hash := by
  unfold State.notify; split <;> rfl
@[simp] theorem notify_pkg (s : State) (b : Nat) : (s.notify b).pkg = s.pkg := by
  unfold State.notify; split <;> rfl
@[simp] theorem unnotify_hash (s : State) (b : Nat) : (s.unnotify b).hash = s.hash := rfl
@[simp] theorem unnotify_pkg (s : State) (b : Nat) : (s.unnotify b).pkg = s.pkg := rfl
@[simp] theorem notify_vuvs (s : State) (b : Nat) : (s.notify b).vuvs = s.vuvs := by
  unfold State.notify; split <;> rfl
@[simp] theorem unnotify_vuvs (s : State) (b : Nat) : (s.unnotify b).vuvs = s.vuvs := rfl
@[simp] theorem notify_dtime (s : State) (b : Nat) : (s.notify b).dtime = s.dtime := by
  unfold State.notify; split <;> rfl
@[simp] theorem notify_dfrac (s : State) (b : Nat) : (s.notify b).dfrac = s.dfrac := by
  unfold State.notify; split <;> rfl
@[simp] theorem unnotify_dtime (s : State) (b : Nat) : (s.unnotify b).dtime = s.dtime := rfl
@[simp] theorem unnotify_dfrac (s : State) (b : Nat) : (s.unnotify b).dfrac = s.dfrac := rfl
@[simp] theorem notify_sched (s : State) (b : Nat) : (s.notify b).sched = s.sched := by
  unfold State.notify; split <;> rfl
@[simp] theorem unnotify_sched (s : State) (b : Nat) : (s.unnotify b).sched = s.sched := rfl
@[simp] theorem notify_free (s : State) (b : Nat) : (s.notify b).free = s.free := by
  unfold State.notify; split <;> rfl
@[simp] theorem unnotify_free (s : State) (b : Nat) : (s.unnotify b).free = s.free := rfl
@[simp] theorem notify_nextId (s : State) (b : Nat) : (s.notify b).nextId = s.nextId := by
  unfold State.notify; split <;> rfl
@[simp] theorem unnotify_nextId (s : State) (b : Nat) : (s.unnotify b).nextId = s.nextId := rfl

/-! ## putByte, putBytes, putWord: stores performed at their home -/

@[simp] theorem putByte_g (s : State) (sp : Space) (o : Nat) (b : Byte) : (s.putByte sp o b).g = s.g := by
  cases sp <;> rfl
@[simp] theorem putBytes_g (bs : List Byte) : ∀ (s : State) (sp : Space) (o : Nat), (s.putBytes sp o bs).g = s.g := by
  induction bs with
  | nil => intros; rfl
  | cons b bs ih => intro s sp o; rw [State.putBytes, ih]; simp
@[simp] theorem putWord_g (s : State) (sp : Space) (o n x : Nat) : (s.putWord sp o n x).g = s.g := by
  simp [State.putWord]
@[simp] theorem putByte_grps (s : State) (sp : Space) (o : Nat) (b : Byte) : (s.putByte sp o b).grps = s.grps := by
  cases sp <;> rfl
@[simp] theorem putBytes_grps (bs : List Byte) : ∀ (s : State) (sp : Space) (o : Nat), (s.putBytes sp o bs).grps = s.grps := by
  induction bs with
  | nil => intros; rfl
  | cons b bs ih => intro s sp o; rw [State.putBytes, ih]; simp
@[simp] theorem putWord_grps (s : State) (sp : Space) (o n x : Nat) : (s.putWord sp o n x).grps = s.grps := by
  simp [State.putWord]
@[simp] theorem putByte_w (s : State) (sp : Space) (o : Nat) (b : Byte) : (s.putByte sp o b).w = s.w := by
  cases sp <;> rfl
@[simp] theorem putBytes_w (bs : List Byte) : ∀ (s : State) (sp : Space) (o : Nat), (s.putBytes sp o bs).w = s.w := by
  induction bs with
  | nil => intros; rfl
  | cons b bs ih => intro s sp o; rw [State.putBytes, ih]; simp
@[simp] theorem putWord_w (s : State) (sp : Space) (o n x : Nat) : (s.putWord sp o n x).w = s.w := by
  simp [State.putWord]
@[simp] theorem putByte_wgs (s : State) (sp : Space) (o : Nat) (b : Byte) : (s.putByte sp o b).wgs = s.wgs := by
  cases sp <;> rfl
@[simp] theorem putBytes_wgs (bs : List Byte) : ∀ (s : State) (sp : Space) (o : Nat), (s.putBytes sp o bs).wgs = s.wgs := by
  induction bs with
  | nil => intros; rfl
  | cons b bs ih => intro s sp o; rw [State.putBytes, ih]; simp
@[simp] theorem putWord_wgs (s : State) (sp : Space) (o n x : Nat) : (s.putWord sp o n x).wgs = s.wgs := by
  simp [State.putWord]
@[simp] theorem putByte_cores (s : State) (sp : Space) (o : Nat) (b : Byte) : (s.putByte sp o b).cores = s.cores := by
  cases sp <;> rfl
@[simp] theorem putBytes_cores (bs : List Byte) : ∀ (s : State) (sp : Space) (o : Nat), (s.putBytes sp o bs).cores = s.cores := by
  induction bs with
  | nil => intros; rfl
  | cons b bs ih => intro s sp o; rw [State.putBytes, ih]; simp
@[simp] theorem putWord_cores (s : State) (sp : Space) (o n x : Nat) : (s.putWord sp o n x).cores = s.cores := by
  simp [State.putWord]
@[simp] theorem putByte_dies (s : State) (sp : Space) (o : Nat) (b : Byte) : (s.putByte sp o b).dies = s.dies := by
  cases sp <;> rfl
@[simp] theorem putBytes_dies (bs : List Byte) : ∀ (s : State) (sp : Space) (o : Nat), (s.putBytes sp o bs).dies = s.dies := by
  induction bs with
  | nil => intros; rfl
  | cons b bs ih => intro s sp o; rw [State.putBytes, ih]; simp
@[simp] theorem putWord_dies (s : State) (sp : Space) (o n x : Nat) : (s.putWord sp o n x).dies = s.dies := by
  simp [State.putWord]
@[simp] theorem putByte_engines (s : State) (sp : Space) (o : Nat) (b : Byte) : (s.putByte sp o b).engines = s.engines := by
  cases sp <;> rfl
@[simp] theorem putBytes_engines (bs : List Byte) : ∀ (s : State) (sp : Space) (o : Nat), (s.putBytes sp o bs).engines = s.engines := by
  induction bs with
  | nil => intros; rfl
  | cons b bs ih => intro s sp o; rw [State.putBytes, ih]; simp
@[simp] theorem putWord_engines (s : State) (sp : Space) (o n x : Nat) : (s.putWord sp o n x).engines = s.engines := by
  simp [State.putWord]
@[simp] theorem putByte_stores (s : State) (sp : Space) (o : Nat) (b : Byte) : (s.putByte sp o b).stores = s.stores := by
  cases sp <;> rfl
@[simp] theorem putBytes_stores (bs : List Byte) : ∀ (s : State) (sp : Space) (o : Nat), (s.putBytes sp o bs).stores = s.stores := by
  induction bs with
  | nil => intros; rfl
  | cons b bs ih => intro s sp o; rw [State.putBytes, ih]; simp
@[simp] theorem putWord_stores (s : State) (sp : Space) (o n x : Nat) : (s.putWord sp o n x).stores = s.stores := by
  simp [State.putWord]
@[simp] theorem putByte_fabric (s : State) (sp : Space) (o : Nat) (b : Byte) : (s.putByte sp o b).fabric = s.fabric := by
  cases sp <;> rfl
@[simp] theorem putBytes_fabric (bs : List Byte) : ∀ (s : State) (sp : Space) (o : Nat), (s.putBytes sp o bs).fabric = s.fabric := by
  induction bs with
  | nil => intros; rfl
  | cons b bs ih => intro s sp o; rw [State.putBytes, ih]; simp
@[simp] theorem putWord_fabric (s : State) (sp : Space) (o n x : Nat) : (s.putWord sp o n x).fabric = s.fabric := by
  simp [State.putWord]
@[simp] theorem putByte_tasks (s : State) (sp : Space) (o : Nat) (b : Byte) : (s.putByte sp o b).tasks = s.tasks := by
  cases sp <;> rfl
@[simp] theorem putBytes_tasks (bs : List Byte) : ∀ (s : State) (sp : Space) (o : Nat), (s.putBytes sp o bs).tasks = s.tasks := by
  induction bs with
  | nil => intros; rfl
  | cons b bs ih => intro s sp o; rw [State.putBytes, ih]; simp
@[simp] theorem putWord_tasks (s : State) (sp : Space) (o n x : Nat) : (s.putWord sp o n x).tasks = s.tasks := by
  simp [State.putWord]
@[simp] theorem putByte_streams (s : State) (sp : Space) (o : Nat) (b : Byte) : (s.putByte sp o b).streams = s.streams := by
  cases sp <;> rfl
@[simp] theorem putBytes_streams (bs : List Byte) : ∀ (s : State) (sp : Space) (o : Nat), (s.putBytes sp o bs).streams = s.streams := by
  induction bs with
  | nil => intros; rfl
  | cons b bs ih => intro s sp o; rw [State.putBytes, ih]; simp
@[simp] theorem putWord_streams (s : State) (sp : Space) (o n x : Nat) : (s.putWord sp o n x).streams = s.streams := by
  simp [State.putWord]
@[simp] theorem putByte_rings (s : State) (sp : Space) (o : Nat) (b : Byte) : (s.putByte sp o b).rings = s.rings := by
  cases sp <;> rfl
@[simp] theorem putBytes_rings (bs : List Byte) : ∀ (s : State) (sp : Space) (o : Nat), (s.putBytes sp o bs).rings = s.rings := by
  induction bs with
  | nil => intros; rfl
  | cons b bs ih => intro s sp o; rw [State.putBytes, ih]; simp
@[simp] theorem putWord_rings (s : State) (sp : Space) (o n x : Nat) : (s.putWord sp o n x).rings = s.rings := by
  simp [State.putWord]
@[simp] theorem putByte_fq (s : State) (sp : Space) (o : Nat) (b : Byte) : (s.putByte sp o b).fq = s.fq := by
  cases sp <;> rfl
@[simp] theorem putBytes_fq (bs : List Byte) : ∀ (s : State) (sp : Space) (o : Nat), (s.putBytes sp o bs).fq = s.fq := by
  induction bs with
  | nil => intros; rfl
  | cons b bs ih => intro s sp o; rw [State.putBytes, ih]; simp
@[simp] theorem putWord_fq (s : State) (sp : Space) (o n x : Nat) : (s.putWord sp o n x).fq = s.fq := by
  simp [State.putWord]
@[simp] theorem putByte_replies (s : State) (sp : Space) (o : Nat) (b : Byte) : (s.putByte sp o b).replies = s.replies := by
  cases sp <;> rfl
@[simp] theorem putBytes_replies (bs : List Byte) : ∀ (s : State) (sp : Space) (o : Nat), (s.putBytes sp o bs).replies = s.replies := by
  induction bs with
  | nil => intros; rfl
  | cons b bs ih => intro s sp o; rw [State.putBytes, ih]; simp
@[simp] theorem putWord_replies (s : State) (sp : Space) (o n x : Nat) : (s.putWord sp o n x).replies = s.replies := by
  simp [State.putWord]
@[simp] theorem putByte_clears (s : State) (sp : Space) (o : Nat) (b : Byte) : (s.putByte sp o b).clears = s.clears := by
  cases sp <;> rfl
@[simp] theorem putBytes_clears (bs : List Byte) : ∀ (s : State) (sp : Space) (o : Nat), (s.putBytes sp o bs).clears = s.clears := by
  induction bs with
  | nil => intros; rfl
  | cons b bs ih => intro s sp o; rw [State.putBytes, ih]; simp
@[simp] theorem putWord_clears (s : State) (sp : Space) (o n x : Nat) : (s.putWord sp o n x).clears = s.clears := by
  simp [State.putWord]
@[simp] theorem putByte_host (s : State) (sp : Space) (o : Nat) (b : Byte) : (s.putByte sp o b).host = s.host := by
  cases sp <;> rfl
@[simp] theorem putBytes_host (bs : List Byte) : ∀ (s : State) (sp : Space) (o : Nat), (s.putBytes sp o bs).host = s.host := by
  induction bs with
  | nil => intros; rfl
  | cons b bs ih => intro s sp o; rw [State.putBytes, ih]; simp
@[simp] theorem putWord_host (s : State) (sp : Space) (o n x : Nat) : (s.putWord sp o n x).host = s.host := by
  simp [State.putWord]
@[simp] theorem putByte_hash (s : State) (sp : Space) (o : Nat) (b : Byte) : (s.putByte sp o b).hash = s.hash := by
  cases sp <;> rfl
@[simp] theorem putByte_pkg (s : State) (sp : Space) (o : Nat) (b : Byte) : (s.putByte sp o b).pkg = s.pkg := by
  cases sp <;> rfl
@[simp] theorem putBytes_hash (bs : List Byte) : ∀ (s : State) (sp : Space) (o : Nat), (s.putBytes sp o bs).hash = s.hash := by
  induction bs with
  | nil => intros; rfl
  | cons b bs ih => intro s sp o; rw [State.putBytes, ih]; simp
@[simp] theorem putBytes_pkg (bs : List Byte) : ∀ (s : State) (sp : Space) (o : Nat), (s.putBytes sp o bs).pkg = s.pkg := by
  induction bs with
  | nil => intros; rfl
  | cons b bs ih => intro s sp o; rw [State.putBytes, ih]; simp
@[simp] theorem putWord_hash (s : State) (sp : Space) (o n x : Nat) : (s.putWord sp o n x).hash = s.hash := by
  simp [State.putWord]
@[simp] theorem putWord_pkg (s : State) (sp : Space) (o n x : Nat) : (s.putWord sp o n x).pkg = s.pkg := by
  simp [State.putWord]
@[simp] theorem putByte_vuvs (s : State) (sp : Space) (o : Nat) (b : Byte) : (s.putByte sp o b).vuvs = s.vuvs := by
  cases sp <;> rfl
@[simp] theorem putBytes_vuvs (bs : List Byte) : ∀ (s : State) (sp : Space) (o : Nat), (s.putBytes sp o bs).vuvs = s.vuvs := by
  induction bs with
  | nil => intros; rfl
  | cons b bs ih => intro s sp o; rw [State.putBytes, ih]; simp
@[simp] theorem putWord_vuvs (s : State) (sp : Space) (o n x : Nat) : (s.putWord sp o n x).vuvs = s.vuvs := by
  simp [State.putWord]
@[simp] theorem putByte_dtime (s : State) (sp : Space) (o : Nat) (b : Byte) : (s.putByte sp o b).dtime = s.dtime := by
  cases sp <;> rfl
@[simp] theorem putByte_dfrac (s : State) (sp : Space) (o : Nat) (b : Byte) : (s.putByte sp o b).dfrac = s.dfrac := by
  cases sp <;> rfl
@[simp] theorem putBytes_dtime (bs : List Byte) : ∀ (s : State) (sp : Space) (o : Nat), (s.putBytes sp o bs).dtime = s.dtime := by
  induction bs with
  | nil => intros; rfl
  | cons b bs ih => intro s sp o; rw [State.putBytes, ih]; simp
@[simp] theorem putBytes_dfrac (bs : List Byte) : ∀ (s : State) (sp : Space) (o : Nat), (s.putBytes sp o bs).dfrac = s.dfrac := by
  induction bs with
  | nil => intros; rfl
  | cons b bs ih => intro s sp o; rw [State.putBytes, ih]; simp
@[simp] theorem putWord_dtime (s : State) (sp : Space) (o n x : Nat) : (s.putWord sp o n x).dtime = s.dtime := by
  simp [State.putWord]
@[simp] theorem putWord_dfrac (s : State) (sp : Space) (o n x : Nat) : (s.putWord sp o n x).dfrac = s.dfrac := by
  simp [State.putWord]
@[simp] theorem putByte_notif (s : State) (sp : Space) (o : Nat) (b : Byte) : (s.putByte sp o b).notif = s.notif := by
  cases sp <;> rfl
@[simp] theorem putBytes_notif (bs : List Byte) : ∀ (s : State) (sp : Space) (o : Nat), (s.putBytes sp o bs).notif = s.notif := by
  induction bs with
  | nil => intros; rfl
  | cons b bs ih => intro s sp o; rw [State.putBytes, ih]; simp
@[simp] theorem putWord_notif (s : State) (sp : Space) (o n x : Nat) : (s.putWord sp o n x).notif = s.notif := by
  simp [State.putWord]
@[simp] theorem putByte_sched (s : State) (sp : Space) (o : Nat) (b : Byte) : (s.putByte sp o b).sched = s.sched := by
  cases sp <;> rfl
@[simp] theorem putBytes_sched (bs : List Byte) : ∀ (s : State) (sp : Space) (o : Nat), (s.putBytes sp o bs).sched = s.sched := by
  induction bs with
  | nil => intros; rfl
  | cons b bs ih => intro s sp o; rw [State.putBytes, ih]; simp
@[simp] theorem putWord_sched (s : State) (sp : Space) (o n x : Nat) : (s.putWord sp o n x).sched = s.sched := by
  simp [State.putWord]
@[simp] theorem putByte_free (s : State) (sp : Space) (o : Nat) (b : Byte) : (s.putByte sp o b).free = s.free := by
  cases sp <;> rfl
@[simp] theorem putBytes_free (bs : List Byte) : ∀ (s : State) (sp : Space) (o : Nat), (s.putBytes sp o bs).free = s.free := by
  induction bs with
  | nil => intros; rfl
  | cons b bs ih => intro s sp o; rw [State.putBytes, ih]; simp
@[simp] theorem putWord_free (s : State) (sp : Space) (o n x : Nat) : (s.putWord sp o n x).free = s.free := by
  simp [State.putWord]
@[simp] theorem putByte_nextId (s : State) (sp : Space) (o : Nat) (b : Byte) : (s.putByte sp o b).nextId = s.nextId := by
  cases sp <;> rfl
@[simp] theorem putBytes_nextId (bs : List Byte) : ∀ (s : State) (sp : Space) (o : Nat), (s.putBytes sp o bs).nextId = s.nextId := by
  induction bs with
  | nil => intros; rfl
  | cons b bs ih => intro s sp o; rw [State.putBytes, ih]; simp
@[simp] theorem putWord_nextId (s : State) (sp : Space) (o n x : Nat) : (s.putWord sp o n x).nextId = s.nextId := by
  simp [State.putWord]

/-! ## pass, tick -/

/-- Time passing changes of the host die only what is still to be slewed. -/
theorem pass_host (s : State) (n : Nat) : (s.pass n).host = { s.host with lead := (s.pass n).host.lead } := rfl
/-- DTIME never steps backward (R426). -/
theorem pass_dtime_le (s : State) (n : Nat) : s.dtime ≤ (s.pass n).dtime := Nat.le_add_right ..

@[simp] theorem tick_g (s : State) : s.tick.g = s.g := rfl
@[simp] theorem tick_grps (s : State) : s.tick.grps = s.grps := rfl
@[simp] theorem tick_w (s : State) : s.tick.w = s.w := rfl
@[simp] theorem tick_wgs (s : State) : s.tick.wgs = s.wgs := rfl
@[simp] theorem tick_cores (s : State) : s.tick.cores = s.cores := rfl
@[simp] theorem tick_dies (s : State) : s.tick.dies = s.dies := rfl
@[simp] theorem tick_engines (s : State) : s.tick.engines = s.engines := rfl
@[simp] theorem tick_mem (s : State) : s.tick.mem = s.mem := rfl
@[simp] theorem tick_l2 (s : State) : s.tick.l2 = s.l2 := rfl
@[simp] theorem tick_stores (s : State) : s.tick.stores = s.stores := rfl
@[simp] theorem tick_poison (s : State) : s.tick.poison = s.poison := rfl
@[simp] theorem tick_fabric (s : State) : s.tick.fabric = s.fabric := rfl
@[simp] theorem tick_tasks (s : State) : s.tick.tasks = s.tasks := rfl
@[simp] theorem tick_streams (s : State) : s.tick.streams = s.streams := rfl
@[simp] theorem tick_rings (s : State) : s.tick.rings = s.rings := rfl
@[simp] theorem tick_fq (s : State) : s.tick.fq = s.fq := rfl
@[simp] theorem tick_replies (s : State) : s.tick.replies = s.replies := rfl
@[simp] theorem tick_clears (s : State) : s.tick.clears = s.clears := rfl
@[simp] theorem tick_stale (s : State) : s.tick.stale = s.stale := rfl
@[simp] theorem tick_owned (s : State) : s.tick.owned = s.owned := rfl
@[simp] theorem tick_host (s : State) : s.tick.host = (s.pass (Config.elapsed s.free)).host := rfl
@[simp] theorem tick_hash (s : State) : s.tick.hash = s.hash := rfl
@[simp] theorem tick_pkg (s : State) : s.tick.pkg = s.pkg := rfl
@[simp] theorem tick_vuvs (s : State) : s.tick.vuvs = s.vuvs := rfl
@[simp] theorem tick_dtime (s : State) : s.tick.dtime = (s.pass (Config.elapsed s.free)).dtime := rfl
@[simp] theorem tick_dfrac (s : State) : s.tick.dfrac = (s.pass (Config.elapsed s.free)).dfrac := rfl
@[simp] theorem tick_notif (s : State) : s.tick.notif = s.notif := rfl
@[simp] theorem tick_sched (s : State) : s.tick.sched = s.sched := rfl
@[simp] theorem tick_free (s : State) : s.tick.free = s.free + 1 := rfl
@[simp] theorem tick_nextId (s : State) : s.tick.nextId = s.nextId := rfl

end Sys2Proof.Machine.State
end

