-- ==== Sys2Proof/Laws/Registers.lean ====
section
/-! SUPPORT. What the register operations do: reading back a write, and everything a write leaves alone. -/

namespace Sys2Proof.Machine

/-- The bits of a mask built from a test, over any list of lanes without repeats below 96 in rising order. -/
theorem maskOf_getLsbD (p : Nat → Bool) (l : Nat) : (maskOf p).getLsbD l = (decide (l < 96) && p l) := by
  have key : ∀ (n lo : Nat), lo + n = 96 →
      ∀ k, (((List.range' lo n).foldr (fun l (m : Mask) => m <<< 1 ||| (if p l then 1 else 0)) 0).getLsbD k)
        = (decide (k < n) && p (lo + k)) := by
    intro n
    induction n with
    | zero => intro lo _ k; simp
    | succ n ih =>
      intro lo h k
      rw [List.range'_succ, List.foldr_cons, BitVec.getLsbD_or, BitVec.getLsbD_shiftLeft]
      cases k with
      | zero => by_cases hp : p lo <;> simp [hp]
      | succ k =>
        rw [show k + 1 - 1 = k from rfl, ih (lo + 1) (by omega) k]
        have : (if p lo = true then (1 : Mask) else 0).getLsbD (k + 1) = false := by
          by_cases hp : p lo <;> simp [hp]
        rw [this]
        have e : lo + 1 + k = lo + (k + 1) := by omega
        rw [e]
        by_cases hk : k < n
        · have : k + 1 < 96 := by omega
          simp [hk, this]
        · simp [hk]
  have := key 96 0 rfl l
  simpa [maskOf, lanes, List.range_eq_range'] using this

namespace Group

theorem lanes_map_getD (f : Nat → Word) (l : Nat) (h : l < 96) : (lanes.map f).getD l 0 = f l := by
  simp [lanes, List.getD, h]

/-- Reading the register just written: the new value in the lanes of the mask, the old one elsewhere. -/
theorem vset_vget_same (g : Group) (r : Nat) (m : Mask) (f : Nat → Word) (l : Nat) (hr : r < g.v.length) (hl : l < 96) :
    (g.vset r m f).vget r l = if m.getLsbD l then f l else g.vget r l := by
  simp only [vset, vget, List.getD_eq_getElem?_getD, List.getElem?_set_self hr, Option.getD_some]
  rw [← List.getD_eq_getElem?_getD]
  exact lanes_map_getD _ l hl

theorem vset_vget_other (g : Group) (r x : Nat) (m : Mask) (f : Nat → Word) (l : Nat) (h : x ≠ r) :
    (g.vset r m f).vget x l = g.vget x l := by
  simp [vset, vget, List.getElem?_set_ne (Ne.symm h)]

theorem vset_keep (g : Group) (r x : Nat) (m : Mask) (f : Nat → Word) (l : Nat) (hl : l < 96) (h : m.getLsbD l = false) :
    (g.vset r m f).vget x l = g.vget x l := by
  by_cases hx : x = r
  · subst hx
    by_cases hr : x < g.v.length
    · simp [vset_vget_same g x m f l hr hl, h]
    · simp [vset, vget, hr]
  · exact vset_vget_other g r x m f l hx

@[simp] theorem vset_length (g : Group) (r : Nat) (m : Mask) (f : Nat → Word) : (g.vset r m f).v.length = g.v.length := by
  simp [vset]

/-- Everything a write of a V register leaves alone. -/
theorem vset_eq (g : Group) (r : Nat) (m : Mask) (f : Nat → Word) :
    g.vset r m f = { g with v := (g.vset r m f).v, marks := g.marks.filter fun k => !(k.reg == r && m.getLsbD k.lane) } := rfl

theorem vput_eq (g : Group) (w : Bool) (r : Nat) (m : Mask) (f : Nat → DWord) :
    g.vput w r m f = { g with v := (g.vput w r m f).v, marks := (g.vput w r m f).marks } := by
  cases w <;> rfl

theorem pset_pget_same (g : Group) (n : Nat) (m : Mask) (f : Nat → Bool) (h : n < g.p.length) :
    (g.pset n m f).pget n = (g.pget n &&& ~~~m) ||| (maskOf f &&& m) := by
  simp [pset, pget, h]

theorem pset_pget_other (g : Group) (n k : Nat) (m : Mask) (f : Nat → Bool) (h : k ≠ n) :
    (g.pset n m f).pget k = g.pget k := by
  simp [pset, pget, List.getElem?_set_ne (Ne.symm h)]

@[simp] theorem pset_length (g : Group) (n : Nat) (m : Mask) (f : Nat → Bool) : (g.pset n m f).p.length = g.p.length := by
  simp [pset]

/-- Retirement moves the PC on by one slot. -/
@[simp] theorem retire_pc (g : Group) (t : Temp) : (g.retire t).pc = g.pc + 1 := rfl

theorem retire_advances (g : Group) (t : Temp) : Advances g (g.retire t) := by
  unfold Advances retire
  cases g.stroke <;> simp

theorem retire_eq (g : Group) (t : Temp) : g.retire t = { g with pc := g.pc + 1, stroke := (g.retire t).stroke } := rfl

@[simp] theorem retire_vget (g : Group) (t : Temp) (r l : Nat) : (g.retire t).vget r l = g.vget r l := rfl
@[simp] theorem retire_pget (g : Group) (t : Temp) (n : Nat) : (g.retire t).pget n = g.pget n := rfl
@[simp] theorem retire_sget (g : Group) (t : Temp) (n : Nat) : (g.retire t).sget n = g.sget n := rfl
@[simp] theorem retire_marks (g : Group) (t : Temp) : (g.retire t).marks = g.marks := rfl
@[simp] theorem retire_flags (g : Group) (t : Temp) : (g.retire t).flags = g.flags := rfl
@[simp] theorem retire_v (g : Group) (t : Temp) : (g.retire t).v = g.v := rfl
@[simp] theorem retire_s (g : Group) (t : Temp) : (g.retire t).s = g.s := rfl
@[simp] theorem retire_p (g : Group) (t : Temp) : (g.retire t).p = g.p := rfl
@[simp] theorem retire_em (g : Group) (t : Temp) : (g.retire t).em = g.em := rfl
@[simp] theorem retire_live (g : Group) (t : Temp) : (g.retire t).live = g.live := rfl

end Group
end Sys2Proof.Machine
end

