-- ==== Sys2Proof/Laws/Issue.lean ====
section
/-! SUPPORT. The shared issue of an instruction: what it does when the instruction issues normally, when no lane qualifies, and when a
check refuses it; and the results of the lane, predicate and scalar forms built on it. -/

namespace Sys2Proof.Machine

/-- A guard that the encoding defines passes the reserved-guard check (R66, R67). -/
theorem guard_defined {g : BitVec 4} (h : g = 15#4 ∨ g < 12#4) (em : Mask) : (em != 0 && g != 15#4 && decide (12#4 ≤ g)) = false := by
  rcases h with e | e
  · simp [e]
  · have : ¬ (12#4 ≤ g) := by bv_omega
    simp [this]

namespace State

/-- An instruction that issues normally has its own effect (R65 to R67, R213). -/
theorem issue_normal {i : Instr} {f : Fields} {once priv : Bool} {s : State} {q : Mask} (h : Issues i f once priv s q)
    (body : State → Mask → State) : s.issue i f once priv body = body s q := by
  have hm : (priv && !s.g.trapState.mode) = false := by
    cases hp : priv
    · rfl
    · simp [h.mode hp]
  unfold issue
  simp only [guard_defined h.guard, h.lanes, h.some, h.legal, h.fits, hm, h.clean, Bool.not_true, Bool.or_false, Bool.false_eq_true,
    if_false]

/-- With no qualifying lane and no reserved guard an instruction only retires (R66). -/
theorem issue_idle {i : Instr} {f : Fields} {once : Bool} (priv : Bool) {s : State} (hg : f.gpr = 15#4 ∨ f.gpr < 12#4)
    (hq : s.g.qual f once = 0) (body : State → Mask → State) : s.issue i f once priv body = s.retire i := by
  unfold issue
  simp only [guard_defined hg, hq, Bool.false_eq_true, if_false, if_true]

/-- A reserved value in an instruction with a qualifying lane takes cause 0x00 (R67). -/
theorem issue_illegal {i : Instr} {f : Fields} {once : Bool} (priv : Bool) {s : State} {q : Mask} (hg : f.gpr = 15#4 ∨ f.gpr < 12#4)
    (hq : s.g.qual f once = q) (hs : q ≠ 0) (hl : i.legal = false ∨ i.legalUnder s.g.launch.vregs s.g.fmt = false)
    (body : State → Mask → State) : s.issue i f once priv body = s.illegal q := by
  have hl : (!i.legal || !i.legalUnder s.g.launch.vregs s.g.fmt) = true := by
    rcases hl with e | e <;> simp [e]
  unfold issue
  simp only [guard_defined hg, hq, hs, hl, Bool.false_eq_true, if_false, if_true]

/-- A system instruction in user mode takes cause 0x01 (R371). -/
theorem issue_privilege {i : Instr} {f : Fields} {once : Bool} {s : State} {q : Mask} (hg : f.gpr = 15#4 ∨ f.gpr < 12#4)
    (hq : s.g.qual f once = q) (hs : q ≠ 0) (hl : i.legal = true) (hf : i.legalUnder s.g.launch.vregs s.g.fmt = true)
    (hm : s.g.trapState.mode = false) (body : State → Mask → State) :
    s.issue i f once true body = s.trapHere 0x01 none (some q) := by
  unfold issue
  simp only [guard_defined hg, hq, hs, hl, hf, hm, Bool.not_true, Bool.not_false, Bool.or_false, Bool.and_true, Bool.false_eq_true,
    if_false, if_true]

end State

namespace Group

/-- Writes of consecutive V registers in the lanes of a mask. -/
def vsetRun (g : Group) (d : Nat) (q : Mask) (val : Nat → Nat → Word) : Nat → Group
  | 0 => g
  | n + 1 => (g.vsetRun d q val n).vset (d + n) q (val n)

variable (g : Group) (d : Nat) (q : Mask) (val : Nat → Nat → Word)

@[simp] theorem vsetRun_length (n : Nat) : (g.vsetRun d q val n).v.length = g.v.length := by
  induction n with
  | zero => rfl
  | succ n ih => simp [vsetRun, ih]

theorem vsetRun_other (n r l : Nat) (h : r < d ∨ d + n ≤ r) : (g.vsetRun d q val n).vget r l = g.vget r l := by
  induction n with
  | zero => rfl
  | succ n ih => rw [vsetRun, vset_vget_other _ _ _ _ _ _ (by omega), ih (by omega)]

theorem vsetRun_keep (n r l : Nat) (hl : l < 96) (h : q.getLsbD l = false) : (g.vsetRun d q val n).vget r l = g.vget r l := by
  induction n with
  | zero => rfl
  | succ n ih => rw [vsetRun, vset_keep _ _ _ _ _ _ hl h, ih]

theorem vsetRun_written (n k l : Nat) (hk : k < n) (hd : d + n ≤ g.v.length) (hl : l < 96) (h : q.getLsbD l = true) :
    (g.vsetRun d q val n).vget (d + k) l = val k l := by
  induction n with
  | zero => omega
  | succ n ih =>
    by_cases e : k = n
    · subst e
      rw [vsetRun, vset_vget_same _ _ _ _ _ (by simp; omega) hl, if_pos h]
    · rw [vsetRun, vset_vget_other _ _ _ _ _ _ (by omega), ih (by omega) (by omega)]

theorem vsetRun_marks (n : Nat) : (g.vsetRun d q val n).marks =
    g.marks.filter fun m => !(((List.range n).map (d + ·)).contains m.reg && q.getLsbD m.lane) := by
  induction n with
  | zero => exact (List.filter_eq_self.2 (by simp)).symm
  | succ n ih =>
    show List.filter _ (g.vsetRun d q val n).marks = _
    rw [ih, List.filter_filter]
    congr 1
    funext m
    rw [List.range_succ, List.map_append, List.contains_append]
    cases h1 : q.getLsbD m.lane <;> simp [Bool.and_comm, Bool.beq_eq_decide_eq]

/-- A run of writes changes V registers and marks, and nothing else. -/
theorem vsetRun_frame (n : Nat) : ∃ v ms, g.vsetRun d q val n = { g with v := v, marks := ms } := by
  induction n with
  | zero => exact ⟨g.v, g.marks, rfl⟩
  | succ n ih =>
    obtain ⟨v, ms, h⟩ := ih
    exact ⟨_, _, by rw [vsetRun, h]; rfl⟩

theorem vput_run (wide : Bool) (f : Nat → DWord) :
    g.vput wide d q f = g.vsetRun d q (fun k l => (f l).extractLsb' (32 * k) 32) (if wide then 2 else 1) := by
  have e : ∀ x : DWord, x.setWidth 32 = x.extractLsb' 0 32 := by intro x; ext i hi; simp
  cases wide <;> simp [vput, vsetRun, e]

end Group

/-- The result of a form that writes consecutive V registers of the qualifying lanes (R118). -/
theorem wroteLanes_run (s : State) (i : Instr) (n d : Nat) (q : Mask) (val : Nat → Nat → Word) (fl : FlagSet)
    (hd : d + n ≤ s.g.v.length) :
    WroteLanes s (((s.modG fun g => g.vsetRun d q val n).raise fl).retire i) ((List.range n).map (d + ·)) q val fl where
  written := by
    intro k r hk l hl hq
    have : k < n := by
      have := List.getElem?_eq_some_iff.1 hk
      obtain ⟨h, -⟩ := this
      simpa using h
    simp [this] at hk
    subst hk
    exact Group.vsetRun_written s.g d q val n k l this hd hl hq
  lanes := fun r l hl hq => Group.vsetRun_keep s.g d q val n r l hl hq
  others := by
    intro r hr l
    refine Group.vsetRun_other s.g d q val n r l ?_
    by_cases h : r < d
    · exact .inl h
    · right
      by_cases h2 : d + n ≤ r
      · exact h2
      · exact absurd (List.mem_map.2 ⟨r - d, by simp; omega, by omega⟩) hr
  marks := Group.vsetRun_marks s.g d q val n
  flags := by
    obtain ⟨v, ms, h⟩ := Group.vsetRun_frame s.g d q val n
    simp [h]
  control := by
    obtain ⟨v, ms, h⟩ := Group.vsetRun_frame s.g d q val n
    have := Group.retire_advances { s.g with v := v, marks := ms, flags := s.g.flags ||| fl }
      (Group.resultTemp { s.g with v := v, marks := ms, flags := s.g.flags ||| fl } i.writes)
    simpa [h, Advances] using this
  group := by
    obtain ⟨v, ms, h⟩ := Group.vsetRun_frame s.g d q val n
    simp only [State.retire_g, State.raise_g, State.modG_g, h]
    rfl
  elsewhere := rfl
  memory := fun _ _ => rfl

/-- The result of a form that writes one V register or a pair of the qualifying lanes (R118). -/
theorem wroteLanes_vput (s : State) (i : Instr) (wide : Bool) (d : Nat) (q : Mask) (val : Nat → DWord) (fl : FlagSet)
    (hd : d + (if wide then 2 else 1) ≤ s.g.v.length) :
    WroteLanes s (((s.modG fun g => g.vput wide d q val).raise fl).retire i) (if wide then [d, d + 1] else [d]) q
      (fun k l => (val l).extractLsb' (32 * k) 32) fl := by
  have h := wroteLanes_run s i (if wide then 2 else 1) d q (fun k l => (val l).extractLsb' (32 * k) 32) fl hd
  have e : (List.range (if wide then 2 else 1)).map (d + ·) = if wide then [d, d + 1] else [d] := by
    cases wide <;> rfl
  simp only [Group.vput_run]
  rw [e] at h
  exact h

/-- The result of a form that writes one predicate of the qualifying lanes (R127). -/
theorem wrotePred_pset (s : State) (i : Instr) (d : Nat) (q : Mask) (val : Nat → Bool) (fl : FlagSet) (hd : d < s.g.p.length) :
    WrotePred s (((s.modG fun g => g.pset d q val).raise fl).retire i) d q val fl where
  written := by
    intro l hl hq
    show (Group.pget (Group.pset s.g d q val) d).getLsbD l = _
    rw [Group.pset_pget_same _ _ _ _ hd, BitVec.getLsbD_or, BitVec.getLsbD_and, BitVec.getLsbD_and, BitVec.getLsbD_not, hq,
      maskOf_getLsbD]
    simp [hl]
  lanes := by
    intro l hq
    show (Group.pget (Group.pset s.g d q val) d).getLsbD l = _
    rw [Group.pset_pget_same _ _ _ _ hd, BitVec.getLsbD_or, BitVec.getLsbD_and, BitVec.getLsbD_and, BitVec.getLsbD_not, hq]
    by_cases hl : l < 96
    · simp [hl]
    · rw [BitVec.getLsbD_of_ge _ _ (Nat.le_of_not_lt hl)]
      simp
  others := fun n h => Group.pset_pget_other s.g d n q val h
  flags := rfl
  control := Group.retire_advances _ _
  group := rfl
  elsewhere := rfl
  memory := fun _ _ => rfl

namespace Group

/-- The live lanes bound the execution mask in each of its words. -/
theorem em_live {g : Group} (h : LanesLive g) : g.em &&& g.live = g.em := by
  unfold LanesLive at h
  ext i hi
  have := congrArg (fun m : Mask => m.getLsbD i) h
  simp [hi] at this
  cases e : g.em[i] <;> simp [e]
  simpa [e] using this

theorem sset_frame (g : Group) (n : Nat) (x : Word) :
    ∃ ss em ms, g.sset n x = { g with s := ss, em := em, marks := ms } := by
  unfold sset
  split
  · exact ⟨_, _, _, rfl⟩
  · split
    · exact ⟨_, _, _, rfl⟩
    · exact ⟨_, _, _, rfl⟩

@[simp] theorem sset_length (g : Group) (n : Nat) (x : Word) : (g.sset n x).s.length = g.s.length := by
  unfold sset
  split
  · simp
  · split <;> rfl

@[simp] theorem sset_live (g : Group) (n : Nat) (x : Word) : (g.sset n x).live = g.live := by
  obtain ⟨_, _, _, h⟩ := sset_frame g n x
  rw [h]

theorem sset_lanesLive (g : Group) (n : Nat) (x : Word) (h : LanesLive g) : LanesLive (g.sset n x) := by
  unfold sset
  split
  · exact h
  · split
    · unfold LanesLive
      ext i hi
      simp [unmark]
    · exact h

theorem sset_sget_low (g : Group) (n : Nat) (x : Word) (h : n < 60) (hl : 60 ≤ g.s.length) : (g.sset n x).sget n = x := by
  have : n < g.s.length := by omega
  simp [sset, sget, h, this]

/-- The bits of EM that a write of one of its words keeps. -/
theorem keep_getLsbD (sh j : Nat) (hj : j < 96) :
    (~~~((0xFFFFFFFF : Mask) <<< sh)).getLsbD j = !(decide (sh ≤ j) && decide (j - sh < 32)) := by
  have e : (0xFFFFFFFF : Mask) = (BitVec.allOnes 32).setWidth 96 := rfl
  rw [BitVec.getLsbD_not, BitVec.getLsbD_shiftLeft, e, BitVec.getLsbD_setWidth, BitVec.getLsbD_allOnes]
  have : j - sh < 96 := by omega
  by_cases h : sh ≤ j
  · simp [hj, this, h, Nat.not_lt.2 h]
  · simp [hj, h, Nat.lt_of_not_le h]

/-- EM after a write of one of its words. -/
theorem em_sset_getLsbD (g : Group) (n j : Nat) (x : Word) (h : 60 ≤ n) (h3 : n < 63) (hj : j < 96) :
    (g.sset n x).em.getLsbD j = ((if 32 * (n - 60) ≤ j ∧ j < 32 * (n - 60) + 32 then x.getLsbD (j - 32 * (n - 60))
      else g.em.getLsbD j) && g.live.getLsbD j) := by
  have a : ¬ n < 60 := by omega
  simp only [sset, a, h3, if_true, if_false]
  rw [BitVec.getLsbD_and, BitVec.getLsbD_or, BitVec.getLsbD_and, keep_getLsbD _ _ hj, BitVec.getLsbD_shiftLeft,
    BitVec.getLsbD_setWidth]
  by_cases h1 : 32 * (n - 60) ≤ j
  · by_cases h2 : j - 32 * (n - 60) < 32
    · have : j < 32 * (n - 60) + 32 := by omega
      have h5 : j - 32 * (n - 60) < 96 := by omega
      simp [h1, h2, hj, this, Nat.not_lt.2 h1, h5]
    · have h4 : ¬ j < 32 * (n - 60) + 32 := by omega
      simp [h1, h2, h4, hj, Nat.not_lt.2 h1, BitVec.getLsbD_of_ge x _ (Nat.le_of_not_lt h2)]
  · simp [h1, Nat.lt_of_not_le h1]

theorem sset_sget_mask (g : Group) (n : Nat) (x : Word) (h : 60 ≤ n) (h3 : n < 63) :
    (g.sset n x).sget n = x &&& g.live.extractLsb' (32 * (n - 60)) 32 := by
  have a : ¬ n < 60 := by omega
  simp only [sget, a, h3, if_true, if_false]
  ext i hi
  rw [BitVec.getElem_extractLsb', em_sset_getLsbD _ _ _ _ h h3 (by omega), BitVec.getElem_and, BitVec.getElem_extractLsb',
    if_pos ⟨by omega, by omega⟩, Nat.add_sub_cancel_left]
  simp [hi]

theorem sset_sget_other (g : Group) (n k : Nat) (x : Word) (h : LanesLive g) (hk : k ≠ n) : (g.sset n x).sget k = g.sget k := by
  by_cases h1 : n < 60
  · simp [sset, h1, sget, List.getElem?_set_ne (Ne.symm hk), unmark]
  · by_cases h3 : n < 63
    · by_cases k60 : k < 60
      · simp [sset, h1, h3, sget, k60, unmark]
      · by_cases k63 : k < 63
        · simp only [sget, k60, k63, if_true, if_false]
          ext i hi
          rw [BitVec.getElem_extractLsb', em_sset_getLsbD _ _ _ _ (by omega) h3 (by omega), if_neg (by omega),
            BitVec.getElem_extractLsb', ← BitVec.getLsbD_and, em_live h]
        · simp [sget, k60, k63]
    · simp [sset, h1, h3]

end Group

/-- The words that a scalar result of one register or a pair holds. -/
theorem wroteScalar_sput (s : State) (i : Instr) (wide : Bool) (d : Nat) (x : DWord) (fl : FlagSet) (hs : 60 ≤ s.g.s.length)
    (hl : LanesLive s.g) :
    WroteScalar s (((s.modG fun g => g.sput wide d x).raise fl).retire i) d
      (if wide then [x.extractLsb' 0 32, x.extractLsb' 32 32] else [x.extractLsb' 0 32]) fl := by
  have e : x.setWidth 32 = x.extractLsb' 0 32 := by ext i hi; simp
  have fr : ∃ ss em ms, s.g.sput wide d x = { s.g with s := ss, em := em, marks := ms } := by
    obtain ⟨a, b, c, h⟩ := Group.sset_frame s.g d (x.setWidth 32)
    cases wide with
    | false => exact ⟨a, b, c, h⟩
    | true =>
      obtain ⟨a', b', c', h'⟩ := Group.sset_frame (s.g.sset d (x.setWidth 32)) (d + 1) (x.extractLsb' 32 32)
      exact ⟨a', b', c', by simp only [Group.sput, if_true]; rw [h', h]⟩
  have rd : ∀ n, (((s.modG fun g => g.sput wide d x).raise fl).retire i).g.sget n = (s.g.sput wide d x).sget n := fun _ => rfl
  have low : ∀ k w, (if wide then [x.extractLsb' 0 32, x.extractLsb' 32 32] else [x.extractLsb' 0 32])[k]? = some w →
      (s.g.sput wide d x).sget (d + k) = (if d + k < 60 then w else if d + k < 63 then w &&& s.g.live.extractLsb' (32 * (d + k - 60)) 32
        else 0) := by
    intro k w hk
    have one : ∀ (g : Group) (n : Nat) (y : Word), 60 ≤ g.s.length → (g.sset n y).sget n =
        (if n < 60 then y else if n < 63 then y &&& g.live.extractLsb' (32 * (n - 60)) 32 else 0) := by
      intro g n y hg
      by_cases h1 : n < 60
      · simp [h1, Group.sset_sget_low g n y h1 hg]
      · by_cases h2 : n < 63
        · simp [h1, h2, Group.sset_sget_mask g n y (by omega) h2]
        · simp [h1, h2, Group.sget]
    cases wide with
    | false =>
      cases k with
      | zero =>
        simp at hk; subst hk
        simp only [Group.sput, Bool.false_eq_true, if_false, e]
        exact one _ _ _ hs
      | succ k => simp at hk
    | true =>
      cases k with
      | zero =>
        simp at hk; subst hk
        simp only [Group.sput, if_true, e]
        rw [Group.sset_sget_other _ _ _ _ (Group.sset_lanesLive _ _ _ hl) (by omega)]
        exact one _ _ _ hs
      | succ k =>
        cases k with
        | zero =>
          simp at hk; subst hk
          simp only [Group.sput, if_true]
          rw [one _ _ _ (by simpa using hs)]
          simp
        | succ k => simp at hk
  refine ⟨?_, ?_, ?_, ?_, ?_, ?_, ?_, rfl, fun _ _ => rfl⟩
  · intro k w hk h
    rw [rd, low k w hk, if_pos h]
  · intro k w hk h h3
    rw [rd, low k w hk, if_neg (by omega), if_pos h3]
  · simp [Group.sget]
  · intro n hn
    rw [rd]
    cases wide with
    | false =>
      simp at hn
      exact Group.sset_sget_other _ _ _ _ hl (by omega)
    | true =>
      simp at hn
      simp only [Group.sput, if_true]
      rw [Group.sset_sget_other _ _ _ _ (Group.sset_lanesLive _ _ _ hl) (by omega), Group.sset_sget_other _ _ _ _ hl (by omega)]
  · obtain ⟨a, b, c, h⟩ := fr
    simp [h]
  · obtain ⟨a, b, c, h⟩ := fr
    have := Group.retire_advances { s.g with s := a, em := b, marks := c, flags := s.g.flags ||| fl }
      (Group.resultTemp { s.g with s := a, em := b, marks := c, flags := s.g.flags ||| fl } i.writes)
    simpa [h, Advances] using this
  · obtain ⟨a, b, c, h⟩ := fr
    simp only [State.retire_g, State.raise_g, State.modG_g, h]
    rfl

end Sys2Proof.Machine
end

