-- ==== Sys2Proof/Laws/Ops.lean ====
section
/-! SUPPORT. The shared operations of the machine, each with one lemma that says everything it can do: issuers, waiting, notifications, exception
entry and return, stack pushes. -/

namespace Sys2Proof.Machine.State

/-- A change of some core records. -/
theorem modCore_frame (s : State) (id : CoreId) (f : Core → Core) : ∃ cs, s.modCore id f = { s with cores := cs } := by
  unfold modCore setCore
  split <;> exact ⟨_, rfl⟩

theorem modDie_frame (s : State) (n : Nat) (f : Die → Die) : ∃ ds, s.modDie n f = { s with dies := ds } := by
  unfold modDie setDie
  split <;> exact ⟨_, rfl⟩

/-- A group without what issuer selection keeps of its turns: whom it stands behind after YLD, and how often it has been passed. -/
def unturned (g : Group) : Group := { g with behind := [], passed := [] }

/-- What issuer selection may change: core records, which groups stand behind others after YLD, and how often groups have been passed
(R83, R84, R103). -/
def Reselected (s t : State) : Prop :=
  ∃ cs b n gs, t = { s with cores := cs, g := { s.g with behind := b, passed := n }, grps := gs } ∧ gs.map unturned = s.grps.map unturned

theorem Reselected.refl (s : State) : Reselected s s := ⟨s.cores, s.g.behind, s.g.passed, s.grps, rfl, rfl⟩

theorem Reselected.trans {s t u : State} (h : Reselected s t) (k : Reselected t u) : Reselected s u := by
  obtain ⟨cs, b, n, gs, rfl, h1⟩ := h
  obtain ⟨cs', b', n', gs', rfl, h2⟩ := k
  exact ⟨cs', b', n', gs', rfl, h2.trans h1⟩

/-- A change of the groups' turns. -/
theorem reselected_modGroups (s : State) (p : Group → Bool) (f : Group → Group)
    (h : ∀ x, ∃ b n, f x = { x with behind := b, passed := n }) : Reselected s (s.modGroups p f) := by
  obtain ⟨b, n, hg⟩ := h s.g
  have e : (s.grps.map fun x => if p x then f x else x).map unturned = s.grps.map unturned := by
    rw [List.map_map]
    refine List.map_congr_left fun x _ => ?_
    obtain ⟨b, n, hx⟩ := h x
    simp only [Function.comp]
    split
    · rw [hx]; rfl
    · rfl
  unfold modGroups
  split
  · exact ⟨s.cores, b, n, _, by rw [hg], e⟩
  · exact ⟨s.cores, s.g.behind, s.g.passed, _, rfl, e⟩

theorem reselected_modGroup (s : State) (gid : Nat) (f : Group → Group) (h : ∀ x, ∃ b n, f x = { x with behind := b, passed := n }) :
    Reselected s (s.modGroup gid f) := by
  obtain ⟨b, n, hg⟩ := h s.g
  unfold modGroup
  split
  · exact ⟨s.cores, b, n, s.grps, by rw [hg], rfl⟩
  · refine ⟨s.cores, s.g.behind, s.g.passed, _, rfl, ?_⟩
    rw [List.map_map]
    refine List.map_congr_left fun x _ => ?_
    obtain ⟨b, n, hx⟩ := h x
    simp only [Function.comp]
    split
    · rw [hx]; rfl
    · rfl

theorem reselected_modCore (s : State) (id : CoreId) (f : Core → Core) : Reselected s (s.modCore id f) := by
  obtain ⟨cs, h⟩ := modCore_frame s id f
  exact ⟨cs, s.g.behind, s.g.passed, s.grps, by rw [h], rfl⟩

theorem reselected_issuerFill (c : CoreId) (s : State) (i : Nat) : Reselected s (issuerFill c s i) := by
  unfold issuerFill
  split
  · exact .refl s
  · split
    · exact .refl s
    · dsimp only
      split
      · exact ((reselected_modCore s _ _).trans (reselected_modGroups _ _ _ fun x => ⟨_, _, rfl⟩)).trans
          (reselected_modGroup _ _ _ fun x => ⟨_, _, rfl⟩)
      · exact .refl s

/-- Both issuers of a core take groups (R82, R83). -/
theorem reselected_issuerSelect (s : State) (c : CoreId) : Reselected s (s.issuerSelect c) :=
  ((reselected_modGroups s _ _ fun x => ⟨_, x.passed, rfl⟩).trans (reselected_issuerFill _ _ _)).trans (reselected_issuerFill _ _ _)

/-- A group leaves its issuer. -/
theorem reselected_release (s : State) (g : Group) : Reselected s (s.release g) := reselected_modCore _ _ _

/-- Waiting: the group takes the wait and its issuer goes on. -/
theorem reselected_waitOn (s : State) (w : Wait) : Reselected { s with g := { s.g with wait := w } } (s.waitOn w) :=
  (reselected_release _ _).trans (reselected_issuerSelect _ _)

/-- What a reselection keeps of the issuing group. -/
theorem Reselected.group {s t : State} (h : Reselected s t) : t.g = { s.g with behind := t.g.behind, passed := t.g.passed } := by
  obtain ⟨cs, b, n, gs, rfl, -⟩ := h
  rfl

theorem Reselected.memory {s t : State} (h : Reselected s t) : MemorySame s t := by
  obtain ⟨cs, b, n, gs, rfl, -⟩ := h
  exact fun _ _ => rfl

theorem Reselected.rest {s t : State} (h : Reselected s t) : t = { s with cores := t.cores, g := t.g, grps := t.grps } := by
  obtain ⟨cs, b, n, gs, rfl, -⟩ := h
  rfl

/-! ## Tail instructions -/

/-- A tail instruction has issued: the PC stands at the trailer, and the stroke holds what the trailer will do (R38). -/
theorem retireTail_eq (s : State) (t : Tail) : s.retireTail t = { s with g := { s.g with
    pc := s.g.pc + 1
    stroke := s.g.stroke.map fun st => { st with pos := st.pos + 1, temps := (Temp.none :: st.temps).take 8, tail := t } } } := by
  unfold retireTail modG Group.retireTail Group.retire
  simp only [Option.map_map]
  rfl

/-- A transfer whose target passes goes on (R35, R98). -/
theorem withTarget_pass {s : State} {target : DWord} (h : s.targetCheck target = none) (k : State → State) :
    s.withTarget target k = k s := by
  unfold withTarget
  rw [h]

/-! ## The stack -/

/-- A push that finds room in the core (R86). -/
theorem push_room (s : State) (e : StackEntry) (h : s.g.stack.length < 16) : s.push e = s.modG fun g => { g with stack := e :: g.stack } := by
  unfold push
  have : ¬ 16 ≤ s.g.stack.length := by omega
  simp only [this, if_false]

/-- Nothing is read back while the core holds an entry (R86). -/
theorem refill_held (s : State) (h : s.g.stack ≠ []) : s.refill = s := by
  unfold refill
  have : s.g.stack.isEmpty = false := by simpa using h
  simp [this]

/-! ## Exceptions -/

/-- Taking an exception while no trap is in progress, when the vector may be entered (R373). -/
theorem trap_taken {s : State} (cause : Nat) (tepc : DWord) (tval : Option DWord) (tl : Option Mask) (h : s.g.trapState.tip = false)
    (leaf : Leaf) (line : Line)
    (hv : ((s.enterTrap cause tepc tval tl).modG fun g => { g with wait := .ready }).fetchAt
      ((s.enterTrap cause tepc tval tl).modG fun g => { g with wait := .ready }).g true (vectorPc (s.regsOf s.g).tvb cause) = .ok (leaf, line))
    (ht : line.tgt ((vectorPc (s.regsOf s.g).tvb cause).toNat % 5) = true) :
    s.trap cause tepc tval tl = (s.enterTrap cause tepc tval tl).modG fun g => { g with wait := .ready } := by
  have hp : ((s.enterTrap cause tepc tval tl).modG fun g => { g with wait := .ready }).g.pc = vectorPc (s.regsOf s.g).tvb cause := by
    unfold enterTrap
    simp only [modG_g]
  unfold trap
  simp only [h, Bool.false_eq_true, if_false, hp, hv, ht, if_true]

/-- A trap condition while TIP is set is a double trap (R374). -/
theorem trap_double {s : State} (cause : Nat) (tepc : DWord) (tval : Option DWord) (tl : Option Mask) (h : s.g.trapState.tip = true) :
    s.trap cause tepc tval tl = s.doubleTrap 0x01 cause tepc := by
  unfold trap
  simp only [h, if_true]

end Sys2Proof.Machine.State
end

