-- ==== Sys2Proof/Laws/Memory.lean ====
section
/-! SUPPORT. Memory: reading back a write, the canonical form, and that every memory operation keeps it. -/

namespace Sys2Proof.Machine

/-! ## The list of bytes -/

theorem Mem.wfFrom_mono {m : List Host.Cell} {lo hi : Nat} (h : lo ≤ hi) (w : Mem.wfFrom hi m = true) : Mem.wfFrom lo m = true := by
  cases m with
  | nil => rfl
  | cons c m =>
    simp [Mem.wfFrom] at w ⊢
    exact ⟨⟨by omega, w.1.2⟩, w.2⟩

/-- A key below every listed one reads as an unlisted byte. -/
theorem Mem.get_below {m : List Host.Cell} {lo k : Nat} (w : Mem.wfFrom lo m = true) (h : k < lo) : Mem.get m k = 0 := by
  cases m with
  | nil => rfl
  | cons c m =>
    simp [Mem.wfFrom] at w
    simp [Mem.get]
    omega

theorem Mem.wfFrom_cons {lo a : Nat} {x : Byte} {m : List Host.Cell} :
    Mem.wfFrom lo ((a, x) :: m) = true ↔ lo ≤ a ∧ x ≠ 0 ∧ Mem.wfFrom (a + 1) m = true := by
  simp [Mem.wfFrom, and_assoc]

theorem Mem.set_wfFrom {m : List Host.Cell} {lo k : Nat} (b : Byte) (w : Mem.wfFrom lo m = true) (h : lo ≤ k) :
    Mem.wfFrom lo (Mem.set m k b) = true := by
  induction m generalizing lo with
  | nil =>
    simp only [Mem.set]
    split
    · rfl
    · exact Mem.wfFrom_cons.2 ⟨h, ‹_›, rfl⟩
  | cons c m ih =>
    obtain ⟨a, x⟩ := c
    obtain ⟨w1, w2, w3⟩ := Mem.wfFrom_cons.1 w
    simp only [Mem.set]
    split
    · split
      · exact w
      · exact Mem.wfFrom_cons.2 ⟨h, ‹_›, Mem.wfFrom_cons.2 ⟨by omega, w2, w3⟩⟩
    · split
      · split
        · exact Mem.wfFrom_mono (by omega) w3
        · exact Mem.wfFrom_cons.2 ⟨h, ‹_›, by subst_vars; exact w3⟩
      · exact Mem.wfFrom_cons.2 ⟨w1, w2, ih w3 (by omega)⟩

theorem Mem.get_set_same (m : List Host.Cell) (k : Nat) (b : Byte) {lo : Nat} (w : Mem.wfFrom lo m = true) :
    Mem.get (Mem.set m k b) k = b := by
  induction m generalizing lo with
  | nil =>
    simp only [Mem.set]
    split
    · simp [Mem.get, *]
    · simp [Mem.get]
  | cons c m ih =>
    obtain ⟨a, x⟩ := c
    simp [Mem.wfFrom] at w
    simp only [Mem.set]
    split
    · split
      · simp [Mem.get, *]
      · simp [Mem.get]
    · split
      · split
        · subst_vars
          rw [Mem.get_below w.2 (by omega)]
        · simp [Mem.get]
      · have : ¬ k < a := by omega
        have : ¬ k = a := by omega
        simp [Mem.get, *, ih w.2]

theorem Mem.get_set_other (m : List Host.Cell) (k j : Nat) (b : Byte) (h : j ≠ k) {lo : Nat} (w : Mem.wfFrom lo m = true) :
    Mem.get (Mem.set m k b) j = Mem.get m j := by
  induction m generalizing lo with
  | nil =>
    simp only [Mem.set]
    split
    · rfl
    · simp [Mem.get, h]
  | cons c m ih =>
    obtain ⟨a, x⟩ := c
    simp [Mem.wfFrom] at w
    simp only [Mem.set]
    split
    · split
      · rfl
      · simp only [Mem.get]
        by_cases h1 : j < k
        · have : j < a := by omega
          simp [h1, this]
        · simp [h1, h]
    · split
      · subst_vars
        split
        · simp only [Mem.get]
          by_cases h1 : j < a
          · simp [h1, Mem.get_below w.2 (by omega : j < a + 1)]
          · simp [h1, h]
        · simp only [Mem.get]
          by_cases h1 : j < a
          · simp [h1]
          · simp [h1, h]
      · simp only [Mem.get, ih w.2]

/-! ## The dirty bytes of L2 -/

theorem L2.get_set_same (m : List (Nat × Byte)) (k : Nat) (b : Byte) : L2.get (L2.set m k b) k = some b := by
  induction m with
  | nil => simp [L2.set, L2.get]
  | cons c m ih =>
    obtain ⟨a, x⟩ := c
    simp only [L2.set]
    split
    · simp [L2.get]
    · split
      · simp [L2.get]
      · simp [L2.get, *]

theorem L2.get_set_other (m : List (Nat × Byte)) (k j : Nat) (b : Byte) (h : j ≠ k) : L2.get (L2.set m k b) j = L2.get m j := by
  induction m with
  | nil => simp [L2.set, L2.get, h]
  | cons c m ih =>
    obtain ⟨a, x⟩ := c
    simp only [L2.set]
    split
    · simp only [L2.get]
      by_cases h1 : j < k
      · have : j < a := by omega
        simp [h1, this]
      · simp [h1, h]
    · split
      · subst_vars
        simp [L2.get, h]
      · simp only [L2.get, ih]

/-- The keys of L2 after a write are the old ones and the written one. -/
theorem L2.mem_set (m : List (Nat × Byte)) (k : Nat) (b : Byte) (j : Nat) (h : j ∈ (L2.set m k b).map (·.1)) : j = k ∨ j ∈ m.map (·.1) := by
  induction m with
  | nil => simpa [L2.set] using h
  | cons c m ih =>
    obtain ⟨a, x⟩ := c
    simp only [L2.set] at h
    split at h
    · simpa using h
    · split at h
      · simp at h ⊢
        rcases h with h | h
        · exact .inl h
        · exact .inr (.inr h)
      · simp only [List.map_cons, List.mem_cons] at h ⊢
        rcases h with h | h
        · exact .inr (.inl h)
        · rcases ih h with h | h
          · exact .inl h
          · exact .inr (.inr h)

theorem L2.set_rising (m : List (Nat × Byte)) (k : Nat) (b : Byte) (h : (m.map (·.1)).Pairwise (· < ·)) :
    ((L2.set m k b).map (·.1)).Pairwise (· < ·) := by
  induction m with
  | nil => simp [L2.set]
  | cons c m ih =>
    obtain ⟨a, x⟩ := c
    simp only [List.map_cons, List.pairwise_cons] at h
    simp only [L2.set]
    split
    · simp only [List.map_cons, List.pairwise_cons, List.mem_cons]
      refine ⟨?_, h⟩
      rintro j (rfl | hj)
      · assumption
      · have := h.1 j hj
        omega
    · split
      · subst_vars
        simpa using h
      · simp only [List.map_cons, List.pairwise_cons]
        refine ⟨?_, ih h.2⟩
        intro j hj
        rcases L2.mem_set m k b j hj with rfl | hj
        · omega
        · exact h.1 j hj

theorem L2.drop_rising (m : List (Nat × Byte)) (lo n : Nat) (h : (m.map (·.1)).Pairwise (· < ·)) :
    ((L2.drop m lo n).map (·.1)).Pairwise (· < ·) :=
  h.sublist ((List.filter_sublist).map _)

namespace State

/-! ## Bytes at their home -/

/-- Two bytes of the machine are one cell only if they are the same byte of the same space. -/
theorem key_ne {sp sp' : Space} {o o' : Nat} (ho : o < 2 ^ 64) (ho' : o' < 2 ^ 64) (h : sp.base ≠ sp'.base ∨ o ≠ o') :
    sp.key o ≠ sp'.key o' := by
  unfold Space.key
  intro e
  rcases h with h | h
  · have : sp.base = sp'.base := by omega
    exact h this
  · omega

theorem byteAt_pool (s : State) (o : Nat) : s.byteAt .pool o = (L2.get s.l2 o).getD (Mem.get s.mem o) := by
  simp [byteAt, Space.key, Space.base]

theorem byteAt_home (s : State) (sp : Space) (o : Nat) (h : sp ≠ .pool) : s.byteAt sp o = Mem.get s.mem (sp.key o) := by
  cases sp <;> first | rfl | exact absurd rfl h

theorem putByte_pool_mem (s : State) (o : Nat) (b : Byte) : (s.putByte .pool o b).mem = s.mem := rfl
theorem putByte_pool_l2 (s : State) (o : Nat) (b : Byte) : (s.putByte .pool o b).l2 = L2.set s.l2 o b := rfl
theorem putByte_home_mem (s : State) (sp : Space) (o : Nat) (b : Byte) (h : sp ≠ .pool) : (s.putByte sp o b).mem = Mem.set s.mem (sp.key o) b := by
  cases sp <;> first | rfl | exact absurd rfl h
theorem putByte_home_l2 (s : State) (sp : Space) (o : Nat) (b : Byte) (h : sp ≠ .pool) : (s.putByte sp o b).l2 = s.l2 := by
  cases sp <;> first | rfl | exact absurd rfl h

theorem base_pos {sp : Space} (h : sp ≠ .pool) : 1 ≤ sp.base := by
  cases sp <;> simp [Space.base] at * <;> omega

/-- A write performed at its home keeps the canonical form. -/
theorem putByte_canonical {s : State} (h : MemoryCanonical s) (sp : Space) (o : Nat) (b : Byte) : MemoryCanonical (s.putByte sp o b) := by
  by_cases e : sp = .pool
  · subst e
    exact ⟨h.1, L2.set_rising _ _ _ h.2⟩
  · refine ⟨?_, ?_⟩
    · rw [putByte_home_mem _ _ _ _ e]
      exact Mem.set_wfFrom b h.1 (Nat.zero_le _)
    · rw [putByte_home_l2 _ _ _ _ e]
      exact h.2

theorem putBytes_canonical (bs : List Byte) : ∀ {s : State}, MemoryCanonical s → ∀ (sp : Space) (o : Nat), MemoryCanonical (s.putBytes sp o bs) := by
  induction bs with
  | nil => exact fun h _ _ => h
  | cons b bs ih => exact fun h sp o => ih (putByte_canonical h sp o b) sp (o + 1)

theorem putWord_canonical {s : State} (h : MemoryCanonical s) (sp : Space) (o n x : Nat) : MemoryCanonical (s.putWord sp o n x) :=
  putBytes_canonical _ h sp o

/-- Reading the byte just written. -/
theorem byteAt_putByte_same {s : State} (h : MemoryCanonical s) (sp : Space) (o : Nat) (b : Byte) : (s.putByte sp o b).byteAt sp o = b := by
  by_cases e : sp = .pool
  · subst e
    rw [byteAt_pool, putByte_pool_l2, L2.get_set_same]
    rfl
  · rw [byteAt_home _ _ _ e, putByte_home_mem _ _ _ _ e]
    exact Mem.get_set_same _ _ _ h.1

/-- Every other byte reads as before. -/
theorem byteAt_putByte_other {s : State} (h : MemoryCanonical s) (sp sp' : Space) (o o' : Nat) (b : Byte) (ho : o < 2 ^ 64)
    (ho' : o' < 2 ^ 64) (hn : sp'.base ≠ sp.base ∨ o' ≠ o) : (s.putByte sp o b).byteAt sp' o' = s.byteAt sp' o' := by
  by_cases e : sp = .pool
  · subst e
    by_cases e' : sp' = .pool
    · subst e'
      rw [byteAt_pool, byteAt_pool, putByte_pool_l2, putByte_pool_mem, L2.get_set_other _ _ _ _ (by simpa using hn)]
    · rw [byteAt_home _ _ _ e', byteAt_home _ _ _ e', putByte_pool_mem]
  · have key := key_ne ho' ho hn
    by_cases e' : sp' = .pool
    · subst e'
      rw [byteAt_pool, byteAt_pool, putByte_home_l2 _ _ _ _ e, putByte_home_mem _ _ _ _ e]
      have : o' ≠ sp.key o := by simpa [Space.key, Space.base] using key
      rw [Mem.get_set_other _ _ _ _ this h.1]
    · rw [byteAt_home _ _ _ e', byteAt_home _ _ _ e', putByte_home_mem _ _ _ _ e, Mem.get_set_other _ _ _ _ key h.1]

/-- A pool write leaves every other byte of every space. -/
theorem byteAt_putByte_pool (s : State) (sp : Space) (o o' : Nat) (b : Byte) (hn : sp = .pool → o' ≠ o) :
    (s.putByte .pool o b).byteAt sp o' = s.byteAt sp o' := by
  by_cases e : sp = .pool
  · subst e
    rw [byteAt_pool, byteAt_pool, putByte_pool_l2, putByte_pool_mem, L2.get_set_other _ _ _ _ (hn rfl)]
  · rw [byteAt_home _ _ _ e, byteAt_home _ _ _ e, putByte_pool_mem]

/-- Bytes written one after another: each reads back, and every other byte reads as before. -/
theorem byteAt_putBytes (bs : List Byte) : ∀ {s : State}, MemoryCanonical s → ∀ (sp sp' : Space) (o o' : Nat), o + bs.length ≤ 2 ^ 64 →
    o' < 2 ^ 64 → (s.putBytes sp o bs).byteAt sp' o' =
      if sp'.base = sp.base ∧ o ≤ o' ∧ o' < o + bs.length then bs.getD (o' - o) 0 else s.byteAt sp' o' := by
  induction bs with
  | nil =>
    intro s h sp sp' o o' _ _
    have : ¬ (sp'.base = sp.base ∧ o ≤ o' ∧ o' < o + 0) := by omega
    simp only [List.length_nil, this, if_false]
    rfl
  | cons b bs ih =>
    intro s h sp sp' o o' hb ho'
    simp only [List.length_cons] at hb
    rw [putBytes, ih (putByte_canonical h sp o b) sp sp' (o + 1) o' (by omega) ho']
    by_cases hbase : sp'.base = sp.base
    · by_cases he : o' = o
      · subst he
        have : ¬ (sp'.base = sp.base ∧ o' + 1 ≤ o' ∧ o' < o' + 1 + bs.length) := by omega
        rw [if_neg this]
        have : sp'.base = sp.base ∧ o' ≤ o' ∧ o' < o' + (b :: bs).length := ⟨hbase, Nat.le_refl _, by simp⟩
        rw [if_pos this]
        have hsame : (s.putByte sp o' b).byteAt sp' o' = (s.putByte sp o' b).byteAt sp o' := by
          by_cases e : sp = .pool
          · subst e
            have : sp' = .pool := by
              apply Classical.byContradiction
              intro hn
              have := base_pos hn
              have h0 : Space.pool.base = 0 := rfl
              omega
            rw [this]
          · have e' : sp' ≠ .pool := by
              rintro rfl
              have := base_pos e
              have h0 : Space.pool.base = 0 := rfl
              omega
            rw [byteAt_home _ _ _ e, byteAt_home _ _ _ e']
            simp [Space.key, hbase]
        rw [hsame, byteAt_putByte_same h]
        simp
      · by_cases hr : o + 1 ≤ o' ∧ o' < o + 1 + bs.length
        · rw [if_pos ⟨hbase, hr⟩, if_pos ⟨hbase, by omega, by simp; omega⟩]
          obtain ⟨k, hk⟩ : ∃ k, o' - o = k + 1 := ⟨o' - o - 1, by omega⟩
          have : o' - (o + 1) = k := by omega
          rw [hk, this]
          simp
        · rw [if_neg (fun h => hr h.2), if_neg (fun h => hr (by have := h.2; simp at this; omega))]
          exact byteAt_putByte_other h sp sp' o o' b (by omega) ho' (.inr he)
    · rw [if_neg (fun h => hbase h.1), if_neg (fun h => hbase h.1)]
      exact byteAt_putByte_other h sp sp' o o' b (by omega) ho' (.inl hbase)

end State
end Sys2Proof.Machine
end

