-- ==== Sys2Proof/Laws/Slots.lean ====
section
/-! SUPPORT. What the encoders write, the decoders read: fields of slots, operands and type codes. -/

namespace Sys2Proof.Laws

/-- A slice that lies in the low part of two joined vectors. -/
theorem slice_low {n m : Nat} (a : BitVec n) (b : BitVec m) (lo len : Nat) (h : lo + len ≤ m) :
    (a ++ b).extractLsb' lo len = b.extractLsb' lo len := by
  ext i hi
  have : lo + i < m := by omega
  simp [BitVec.getElem_extractLsb', BitVec.getLsbD_append, this]

/-- A slice that lies in the high part of two joined vectors. -/
theorem slice_high {n m : Nat} (a : BitVec n) (b : BitVec m) (lo len : Nat) (h : m ≤ lo) :
    (a ++ b).extractLsb' lo len = a.extractLsb' (lo - m) len := by
  ext i hi
  have : ¬lo + i < m := by omega
  have e : lo + i - m = lo - m + i := by omega
  simp [BitVec.getElem_extractLsb', BitVec.getLsbD_append, this, e]

/-- The slice of all of a vector. -/
theorem slice_all {n : Nat} (a : BitVec n) (k : Nat) (h : k = 0) : a.extractLsb' k n = a := h ▸ BitVec.extractLsb'_eq_self

theorem slice_zero (n lo len : Nat) : (0#n).extractLsb' lo len = 0#len := by simp

/-- One bit as a slice of one bit. -/
theorem bit_slice {n : Nat} (a : BitVec n) (k : Nat) : a.getLsbD k = (a.extractLsb' k 1).getLsbD 0 := by simp

@[simp] theorem bit_ofBool (b : Bool) : (BitVec.ofBool b).getLsbD 0 = b := by cases b <;> rfl

@[simp] theorem ty_bits (t : Ty) : Ty.ofBits t.toBits = t := by cases t <;> rfl

@[simp] theorem mode_bits (m : MatMode) : MatMode.ofBits m.toBits = m := by cases m <;> rfl

@[simp] theorem tadvField_bits (m : TadvField) : TadvField.ofBits m.toBits = m := by cases m <;> rfl

theorem operand_bits (o : Operand) (h : o.proper = true) : Operand.ofBits o.toBits = o := by
  cases o with
  | v n => revert n; decide
  | t n => revert n; decide
  | s n => revert n; decide
  | p n => revert n; decide
  | int n => revert n; decide
  | fp n => revert n; decide
  | reserved r => simpa [Operand.proper, Operand.toBits] using h
  | _ => rfl

/-- A bit field that holds a truth value. -/
theorem bit_field {n : Nat} (a : BitVec n) (k : Nat) (b : Bool) (h : a.extractLsb' k 1 = BitVec.ofBool b) : a.getLsbD k = b := by
  rw [bit_slice, h, bit_ofBool]

/-- A slot, seen as its joined fields. -/
theorem slot_slice (opc : BitVec 8) (f : Fields) (lo len : Nat) (r : BitVec len)
    (h : BitVec.extractLsb' lo len (f.x ++ f.sub ++ BitVec.ofBool f.aa ++ BitVec.ofBool f.nc ++ BitVec.ofBool f.nb ++ BitVec.ofBool f.na
      ++ BitVec.ofBool f.sat ++ f.rm ++ f.ty.toBits ++ f.b.toBits ++ f.a.toBits ++ f.d ++ f.rsv ++ BitVec.ofBool f.gng ++ f.gpr ++ opc) = r) :
    (Fields.toSlot opc f).extractLsb' lo len = r := h

theorem slot_opcode (opc : BitVec 8) (f : Fields) : (Fields.toSlot opc f).extractLsb' 0 8 = opc := by
  apply slot_slice
  simp (disch := omega) only [slice_low, slice_all]

theorem slot_fields (opc : BitVec 8) (f : Fields) (h : f.wf = true) : Fields.ofSlot (Fields.toSlot opc f) = f := by
  obtain ⟨ha, hb⟩ : f.a.proper = true ∧ f.b.proper = true := by simpa [Fields.wf] using h
  have h_gpr : (Fields.toSlot opc f).extractLsb' 8 4 = f.gpr := by apply slot_slice; simp (disch := omega) only [slice_low, slice_high, slice_all]
  have h_gng := bit_field (Fields.toSlot opc f) 12 f.gng (by apply slot_slice; simp (disch := omega) only [slice_low, slice_high, slice_all])
  have h_rsv : (Fields.toSlot opc f).extractLsb' 13 3 = f.rsv := by apply slot_slice; simp (disch := omega) only [slice_low, slice_high, slice_all]
  have h_d : (Fields.toSlot opc f).extractLsb' 16 8 = f.d := by apply slot_slice; simp (disch := omega) only [slice_low, slice_high, slice_all]
  have h_a : (Fields.toSlot opc f).extractLsb' 24 10 = f.a.toBits := by apply slot_slice; simp (disch := omega) only [slice_low, slice_high, slice_all]
  have h_b : (Fields.toSlot opc f).extractLsb' 34 10 = f.b.toBits := by apply slot_slice; simp (disch := omega) only [slice_low, slice_high, slice_all]
  have h_ty : (Fields.toSlot opc f).extractLsb' 44 4 = f.ty.toBits := by apply slot_slice; simp (disch := omega) only [slice_low, slice_high, slice_all]
  have h_rm : (Fields.toSlot opc f).extractLsb' 48 3 = f.rm := by apply slot_slice; simp (disch := omega) only [slice_low, slice_high, slice_all]
  have h_sat := bit_field (Fields.toSlot opc f) 51 f.sat (by apply slot_slice; simp (disch := omega) only [slice_low, slice_high, slice_all])
  have h_na := bit_field (Fields.toSlot opc f) 52 f.na (by apply slot_slice; simp (disch := omega) only [slice_low, slice_high, slice_all])
  have h_nb := bit_field (Fields.toSlot opc f) 53 f.nb (by apply slot_slice; simp (disch := omega) only [slice_low, slice_high, slice_all])
  have h_nc := bit_field (Fields.toSlot opc f) 54 f.nc (by apply slot_slice; simp (disch := omega) only [slice_low, slice_high, slice_all])
  have h_aa := bit_field (Fields.toSlot opc f) 55 f.aa (by apply slot_slice; simp (disch := omega) only [slice_low, slice_high, slice_all])
  have h_sub : (Fields.toSlot opc f).extractLsb' 56 8 = f.sub := by apply slot_slice; simp (disch := omega) only [slice_low, slice_high, slice_all]
  have h_x : (Fields.toSlot opc f).extractLsb' 64 32 = f.x := by apply slot_slice; simp (disch := omega) only [slice_high, slice_all]
  simp only [Fields.ofSlot, ty_bits, operand_bits, ha, hb, h_gpr, h_gng, h_rsv, h_d, h_a, h_b, h_ty, h_rm, h_sat, h_na, h_nb, h_nc, h_aa, h_sub, h_x]

/-- A trailer's slot, seen as its joined fields. -/
theorem trailer_slice (t : Trailer) (lo len : Nat) (r : BitVec len)
    (h : BitVec.extractLsb' lo len (t.e7 ++ t.e6 ++ t.e5 ++ t.e4 ++ t.e3 ++ t.e2 ++ t.e1 ++ t.e0 ++ t.n ++ t.rsv ++ BitVec.ofBool t.gng ++ t.gpr
      ++ 0x66#8) = r) : t.toSlot.extractLsb' lo len = r := h

theorem trailer_opcode (t : Trailer) : t.toSlot.extractLsb' 0 8 = 0x66#8 := by
  apply trailer_slice
  simp (disch := omega) only [slice_low, slice_all]

theorem trailer_fields (t : Trailer) : Trailer.ofSlot t.toSlot = t := by
  have h_gpr : t.toSlot.extractLsb' 8 4 = t.gpr := by apply trailer_slice; simp (disch := omega) only [slice_low, slice_high, slice_all]
  have h_gng := bit_field t.toSlot 12 t.gng (by apply trailer_slice; simp (disch := omega) only [slice_low, slice_high, slice_all])
  have h_rsv : t.toSlot.extractLsb' 13 3 = t.rsv := by apply trailer_slice; simp (disch := omega) only [slice_low, slice_high, slice_all]
  have h_n : t.toSlot.extractLsb' 16 8 = t.n := by apply trailer_slice; simp (disch := omega) only [slice_low, slice_high, slice_all]
  have h_e0 : t.toSlot.extractLsb' 24 9 = t.e0 := by apply trailer_slice; simp (disch := omega) only [slice_low, slice_high, slice_all]
  have h_e1 : t.toSlot.extractLsb' 33 9 = t.e1 := by apply trailer_slice; simp (disch := omega) only [slice_low, slice_high, slice_all]
  have h_e2 : t.toSlot.extractLsb' 42 9 = t.e2 := by apply trailer_slice; simp (disch := omega) only [slice_low, slice_high, slice_all]
  have h_e3 : t.toSlot.extractLsb' 51 9 = t.e3 := by apply trailer_slice; simp (disch := omega) only [slice_low, slice_high, slice_all]
  have h_e4 : t.toSlot.extractLsb' 60 9 = t.e4 := by apply trailer_slice; simp (disch := omega) only [slice_low, slice_high, slice_all]
  have h_e5 : t.toSlot.extractLsb' 69 9 = t.e5 := by apply trailer_slice; simp (disch := omega) only [slice_low, slice_high, slice_all]
  have h_e6 : t.toSlot.extractLsb' 78 9 = t.e6 := by apply trailer_slice; simp (disch := omega) only [slice_low, slice_high, slice_all]
  have h_e7 : t.toSlot.extractLsb' 87 9 = t.e7 := by apply trailer_slice; simp (disch := omega) only [slice_high, slice_all]
  simp only [Trailer.ofSlot, h_gpr, h_gng, h_rsv, h_n, h_e0, h_e1, h_e2, h_e3, h_e4, h_e5, h_e6, h_e7]

/-- Decoding a slot of the main stream that fields and an opcode make. -/
theorem decode_slot (opc : BitVec 8) (f : Fields) (h : f.wf = true) : decode (Fields.toSlot opc f) =
    if opc.toNat < 0x40 then decodeVector opc.toNat f
    else if opc.toNat < 0xC0 then decodeMiddle opc.toNat f (Trailer.ofSlot (Fields.toSlot opc f))
    else decodeEngine opc.toNat f := by
  simp only [decode, slot_opcode, slot_fields opc f h]

theorem decode_trailer (t : Trailer) : decode t.toSlot = .ok (.trl t) := by
  simp only [decode, trailer_opcode, trailer_fields]
  rfl

/-- The bits of a Burin slot from a place up are zero. -/
theorem zero_from (w : Slot) (lo len : Nat) (hl : 96 ≤ lo + len) (h : w.extractLsb' lo len = 0#len) : zeroFrom w lo = true := by
  have : w >>> lo = 0#96 := by
    ext i hi
    by_cases c : i < len
    · have := congrArg (fun x => x.getLsbD i) h
      simpa [c] using this
    · have : 96 ≤ lo + i := by omega
      simp [BitVec.getLsbD_of_ge _ _ this]
  simp [zeroFrom, this]

end Sys2Proof.Laws
end

