-- ==== Sys2Proof/Laws/PerInstr.lean ====
section
/-! SUPPORT. The family Encoding: for each instruction, decoding undoes encoding, with every operand at every value. -/

namespace Sys2Proof.Laws.Encoding

set_option Elab.async false

/-- A well-formed instruction comes back from the word that encodes it, in either stream. -/
def Statement (i : Instr) : Prop :=
  i.wf = true → (∀ w, encode i = some w → decode w = .ok i) ∧ (∀ w, encodeBurin i = some w → decodeBurin w = .ok i)

/-- An instruction of the main stream with fields. -/
theorem of_fields (i : Instr) (opc : BitVec 8) (f : Fields) (hv : i.mainView = some (opc, f))
    (he : encode i = some (Fields.toSlot opc f)) (hb : encodeBurin i = none)
    (hd : i.rowOk = true → ∀ t, (if opc.toNat < 0x40 then decodeVector opc.toNat f
      else if opc.toNat < 0xC0 then decodeMiddle opc.toNat f t else decodeEngine opc.toNat f) = .ok i) : Statement i := by
  intro h
  have h : (f.wf && i.rowOk) = true := by simpa only [Instr.wf, hv] using h
  simp only [Bool.and_eq_true] at h
  refine ⟨fun w hw => ?_, fun w hw => by simp [hb] at hw⟩
  obtain rfl : Fields.toSlot opc f = w := by simpa [he] using hw
  rw [decode_slot opc f h.1]
  exact hd h.2 _

/-- An instruction of neither stream has no word. -/
theorem of_event (i : Instr) (he : encode i = none) (hb : encodeBurin i = none) : Statement i :=
  fun _ => ⟨fun w hw => by simp [he] at hw, fun w hw => by simp [hb] at hw⟩

/-- A Burin instruction. -/
theorem of_burin (i : Instr) (v : Slot) (hv : i.mainView = none) (he : encode i = none) (hs : encodeBurin i = some v) (hd : i.burinOk = true → decodeBurin v = .ok i) :
    Statement i := by
  intro h
  have h : i.burinOk = true := by simpa only [Instr.wf, hv] using h
  refine ⟨fun w hw => by simp [he] at hw, fun w hw => ?_⟩
  obtain rfl : v = w := by simpa [hs] using hw
  exact hd h

theorem vadd (f : Fields) : Statement (.vadd f) := of_fields _ 0x00 f rfl rfl rfl fun _ _ => rfl
theorem vsub (f : Fields) : Statement (.vsub f) := of_fields _ 0x01 f rfl rfl rfl fun _ _ => rfl
theorem vmul (f : Fields) : Statement (.vmul f) := of_fields _ 0x02 f rfl rfl rfl fun _ _ => rfl
theorem vmulh (f : Fields) : Statement (.vmulh f) := of_fields _ 0x03 f rfl rfl rfl fun _ _ => rfl
theorem vmad (f : Fields) : Statement (.vmad f) := of_fields _ 0x04 f rfl rfl rfl fun _ _ => rfl
theorem vmin (f : Fields) : Statement (.vmin f) := of_fields _ 0x05 f rfl rfl rfl fun _ _ => rfl
theorem vmax (f : Fields) : Statement (.vmax f) := of_fields _ 0x06 f rfl rfl rfl fun _ _ => rfl
theorem vlop3 (f : Fields) : Statement (.vlop3 f) := of_fields _ 0x07 f rfl rfl rfl fun _ _ => rfl
theorem vshf (f : Fields) : Statement (.vshf f) := of_fields _ 0x08 f rfl rfl rfl fun _ _ => rfl
theorem vbfx (f : Fields) : Statement (.vbfx f) := of_fields _ 0x09 f rfl rfl rfl fun _ _ => rfl
theorem vbfi (f : Fields) : Statement (.vbfi f) := of_fields _ 0x0A f rfl rfl rfl fun _ _ => rfl
theorem vbit (f : Fields) : Statement (.vbit f) := of_fields _ 0x0B f rfl rfl rfl fun _ _ => rfl
theorem vsel (f : Fields) : Statement (.vsel f) := of_fields _ 0x0C f rfl rfl rfl fun _ _ => rfl
theorem vcmp (f : Fields) : Statement (.vcmp f) := of_fields _ 0x0D f rfl rfl rfl fun _ _ => rfl
theorem vdot4 (f : Fields) : Statement (.vdot4 f) := of_fields _ 0x0E f rfl rfl rfl fun _ _ => rfl
theorem vprm (f : Fields) : Statement (.vprm f) := of_fields _ 0x0F f rfl rfl rfl fun _ _ => rfl
theorem vmov (f : Fields) : Statement (.vmov f) := of_fields _ 0x1E f rfl rfl rfl fun _ _ => rfl
theorem plop3 (f : Fields) : Statement (.plop3 f) := of_fields _ 0x1F f rfl rfl rfl fun _ _ => rfl
theorem fadd (f : Fields) : Statement (.fadd f) := of_fields _ 0x10 f rfl rfl rfl fun _ _ => rfl
theorem fmul (f : Fields) : Statement (.fmul f) := of_fields _ 0x11 f rfl rfl rfl fun _ _ => rfl
theorem ffma (f : Fields) : Statement (.ffma f) := of_fields _ 0x12 f rfl rfl rfl fun _ _ => rfl
theorem fmin (f : Fields) : Statement (.fmin f) := of_fields _ 0x13 f rfl rfl rfl fun _ _ => rfl
theorem fmax (f : Fields) : Statement (.fmax f) := of_fields _ 0x14 f rfl rfl rfl fun _ _ => rfl
theorem fcmp (f : Fields) : Statement (.fcmp f) := of_fields _ 0x15 f rfl rfl rfl fun _ _ => rfl
theorem fcls (f : Fields) : Statement (.fcls f) := of_fields _ 0x16 f rfl rfl rfl fun _ _ => rfl
theorem frnd (f : Fields) : Statement (.frnd f) := of_fields _ 0x17 f rfl rfl rfl fun _ _ => rfl
theorem fscl (f : Fields) : Statement (.fscl f) := of_fields _ 0x18 f rfl rfl rfl fun _ _ => rfl
theorem fsfn (f : Fields) : Statement (.fsfn f) := of_fields _ 0x19 f rfl rfl rfl fun _ _ => rfl
theorem cvt (f : Fields) : Statement (.cvt f) := of_fields _ 0x1A f rfl rfl rfl fun _ _ => rfl
theorem cvtp (f : Fields) : Statement (.cvtp f) := of_fields _ 0x1B f rfl rfl rfl fun _ _ => rfl
theorem qpk (f : Fields) : Statement (.qpk f) := of_fields _ 0x1C f rfl rfl rfl fun h _ => by
  simp [Instr.rowOk] at h
  simp [decodeVector, h]
theorem qpkAmax (f : Fields) : Statement (.qpkAmax f) := of_fields _ 0x1C f rfl rfl rfl fun h _ => by
  simp [Instr.rowOk] at h
  simp [decodeVector, h]
theorem qup (f : Fields) : Statement (.qup f) := of_fields _ 0x1D f rfl rfl rfl fun _ _ => rfl
theorem vaddi (f : Fields) : Statement (.vaddi f) := of_fields _ 0x20 f rfl rfl rfl fun _ _ => rfl
theorem vmuli (f : Fields) : Statement (.vmuli f) := of_fields _ 0x21 f rfl rfl rfl fun _ _ => rfl
theorem vlopi (f : Fields) : Statement (.vlopi f) := of_fields _ 0x22 f rfl rfl rfl fun _ _ => rfl
theorem vshfi (f : Fields) : Statement (.vshfi f) := of_fields _ 0x23 f rfl rfl rfl fun _ _ => rfl
theorem vcmpi (f : Fields) : Statement (.vcmpi f) := of_fields _ 0x24 f rfl rfl rfl fun _ _ => rfl
theorem vmovi (f : Fields) : Statement (.vmovi f) := of_fields _ 0x25 f rfl rfl rfl fun _ _ => rfl
theorem vseli (f : Fields) : Statement (.vseli f) := of_fields _ 0x2A f rfl rfl rfl fun _ _ => rfl
theorem vmini (f : Fields) : Statement (.vmini f) := of_fields _ 0x2B f rfl rfl rfl fun _ _ => rfl
theorem vmaxi (f : Fields) : Statement (.vmaxi f) := of_fields _ 0x2C f rfl rfl rfl fun _ _ => rfl
theorem faddi (f : Fields) : Statement (.faddi f) := of_fields _ 0x26 f rfl rfl rfl fun _ _ => rfl
theorem fmuli (f : Fields) : Statement (.fmuli f) := of_fields _ 0x27 f rfl rfl rfl fun _ _ => rfl
theorem ffmai (f : Fields) : Statement (.ffmai f) := of_fields _ 0x28 f rfl rfl rfl fun _ _ => rfl
theorem fcmpi (f : Fields) : Statement (.fcmpi f) := of_fields _ 0x29 f rfl rfl rfl fun _ _ => rfl
theorem sadd (f : Fields) : Statement (.sadd f) := of_fields _ 0x40 f rfl rfl rfl fun _ _ => rfl
theorem ssub (f : Fields) : Statement (.ssub f) := of_fields _ 0x41 f rfl rfl rfl fun _ _ => rfl
theorem smul (f : Fields) : Statement (.smul f) := of_fields _ 0x42 f rfl rfl rfl fun _ _ => rfl
theorem smulh (f : Fields) : Statement (.smulh f) := of_fields _ 0x43 f rfl rfl rfl fun _ _ => rfl
theorem smin (f : Fields) : Statement (.smin f) := of_fields _ 0x46 f rfl rfl rfl fun _ _ => rfl
theorem smax (f : Fields) : Statement (.smax f) := of_fields _ 0x47 f rfl rfl rfl fun _ _ => rfl
theorem slop3 (f : Fields) : Statement (.slop3 f) := of_fields _ 0x44 f rfl rfl rfl fun _ _ => rfl
theorem sshf (f : Fields) : Statement (.sshf f) := of_fields _ 0x45 f rfl rfl rfl fun _ _ => rfl
theorem sbfx (f : Fields) : Statement (.sbfx f) := of_fields _ 0x48 f rfl rfl rfl fun _ _ => rfl
theorem sbit (f : Fields) : Statement (.sbit f) := of_fields _ 0x49 f rfl rfl rfl fun _ _ => rfl
theorem scmp (f : Fields) : Statement (.scmp f) := of_fields _ 0x4A f rfl rfl rfl fun _ _ => rfl
theorem ssel (f : Fields) : Statement (.ssel f) := of_fields _ 0x4B f rfl rfl rfl fun _ _ => rfl
theorem smov (f : Fields) : Statement (.smov f) := of_fields _ 0x4C f rfl rfl rfl fun _ _ => rfl
theorem sadd64 (f : Fields) : Statement (.sadd64 f) := of_fields _ 0x4D f rfl rfl rfl fun _ _ => rfl
theorem slea (f : Fields) : Statement (.slea f) := of_fields _ 0x4E f rfl rfl rfl fun _ _ => rfl
theorem sdiv (f : Fields) : Statement (.sdiv f) := of_fields _ 0x4F f rfl rfl rfl fun _ _ => rfl
theorem srds (f : Fields) : Statement (.srds f) := of_fields _ 0x50 f rfl rfl rfl fun _ _ => rfl
theorem sfma (f : Fields) : Statement (.sfma f) := of_fields _ 0x51 f rfl rfl rfl fun _ _ => rfl
theorem scvt (f : Fields) : Statement (.scvt f) := of_fields _ 0x52 f rfl rfl rfl fun _ _ => rfl
theorem bra (f : Fields) : Statement (.bra f) := of_fields _ 0x60 f rfl rfl rfl fun _ _ => rfl
theorem brp (f : Fields) : Statement (.brp f) := of_fields _ 0x61 f rfl rfl rfl fun _ _ => rfl
theorem join (f : Fields) : Statement (.join f) := of_fields _ 0x62 f rfl rfl rfl fun _ _ => rfl
theorem call (f : Fields) : Statement (.call f) := of_fields _ 0x63 f rfl rfl rfl fun _ _ => rfl
theorem ret (f : Fields) : Statement (.ret f) := of_fields _ 0x64 f rfl rfl rfl fun _ _ => rfl
theorem loop (f : Fields) : Statement (.loop f) := of_fields _ 0x65 f rfl rfl rfl fun _ _ => rfl
theorem trl (t : Trailer) : Statement (.trl t) := fun _ =>
  ⟨fun w hw => Option.some.inj (hw : some t.toSlot = some w) ▸ decode_trailer t, fun w hw => nomatch (hw : none = some w)⟩
theorem nop (f : Fields) : Statement (.nop f) := of_fields _ 0x67 f rfl rfl rfl fun _ _ => rfl
theorem exit (f : Fields) : Statement (.exit f) := of_fields _ 0x68 f rfl rfl rfl fun _ _ => rfl
theorem trap (f : Fields) : Statement (.trap f) := of_fields _ 0x69 f rfl rfl rfl fun _ _ => rfl
theorem sfmt (f : Fields) : Statement (.sfmt f) := of_fields _ 0x6A f rfl rfl rfl fun _ _ => rfl
theorem waitt (f : Fields) : Statement (.waitt f) := of_fields _ 0x6B f rfl rfl rfl fun _ _ => rfl
theorem yld (f : Fields) : Statement (.yld f) := of_fields _ 0x6C f rfl rfl rfl fun _ _ => rfl
theorem brx (f : Fields) : Statement (.brx f) := of_fields _ 0x6D f rfl rfl rfl fun _ _ => rfl
theorem ld (f : Fields) : Statement (.ld f) := of_fields _ 0x80 f rfl rfl rfl fun _ _ => rfl
theorem st (f : Fields) : Statement (.st f) := of_fields _ 0x81 f rfl rfl rfl fun _ _ => rfl
theorem lds (f : Fields) : Statement (.lds f) := of_fields _ 0x82 f rfl rfl rfl fun _ _ => rfl
theorem sts (f : Fields) : Statement (.sts f) := of_fields _ 0x83 f rfl rfl rfl fun _ _ => rfl
theorem ldv (f : Fields) : Statement (.ldv f) := of_fields _ 0x84 f rfl rfl rfl fun _ _ => rfl
theorem stv (f : Fields) : Statement (.stv f) := of_fields _ 0x85 f rfl rfl rfl fun _ _ => rfl
theorem sld (f : Fields) : Statement (.sld f) := of_fields _ 0x86 f rfl rfl rfl fun _ _ => rfl
theorem sst (f : Fields) : Statement (.sst f) := of_fields _ 0x87 f rfl rfl rfl fun _ _ => rfl
theorem ldz (f : Fields) : Statement (.ldz f) := of_fields _ 0x88 f rfl rfl rfl fun _ _ => rfl
theorem stz (f : Fields) : Statement (.stz f) := of_fields _ 0x89 f rfl rfl rfl fun _ _ => rfl
theorem prf (f : Fields) : Statement (.prf f) := of_fields _ 0x8A f rfl rfl rfl fun _ _ => rfl
theorem cctl (f : Fields) : Statement (.cctl f) := of_fields _ 0x8B f rfl rfl rfl fun _ _ => rfl
theorem dscd (f : Fields) : Statement (.dscd f) := of_fields _ 0x8C f rfl rfl rfl fun _ _ => rfl
theorem atom (f : Fields) : Statement (.atom f) := of_fields _ 0x8D f rfl rfl rfl fun _ _ => rfl
theorem atoms (f : Fields) : Statement (.atoms f) := of_fields _ 0x8E f rfl rfl rfl fun _ _ => rfl
theorem atomv (f : Fields) : Statement (.atomv f) := of_fields _ 0x8F f rfl rfl rfl fun _ _ => rfl
theorem satom (f : Fields) : Statement (.satom f) := of_fields _ 0x90 f rfl rfl rfl fun _ _ => rfl
theorem fnc (f : Fields) : Statement (.fnc f) := of_fields _ 0x91 f rfl rfl rfl fun _ _ => rfl
theorem fwt (f : Fields) : Statement (.fwt f) := of_fields _ 0x92 f rfl rfl rfl fun _ _ => rfl
theorem bar (f : Fields) : Statement (.bar f) := of_fields _ 0x93 f rfl rfl rfl fun _ _ => rfl
theorem wtct (f : Fields) : Statement (.wtct f) := of_fields _ 0x94 f rfl rfl rfl fun _ _ => rfl
theorem nbr (f : Fields) : Statement (.nbr f) := of_fields _ 0xA0 f rfl rfl rfl fun _ _ => rfl
theorem scan (f : Fields) : Statement (.scan f) := of_fields _ 0xA1 f rfl rfl rfl fun _ _ => rfl
theorem red (f : Fields) : Statement (.red f) := of_fields _ 0xA2 f rfl rfl rfl fun _ _ => rfl
theorem vote (f : Fields) : Statement (.vote f) := of_fields _ 0xA3 f rfl rfl rfl fun _ _ => rfl
theorem bcst (f : Fields) : Statement (.bcst f) := of_fields _ 0xA4 f rfl rfl rfl fun _ _ => rfl
theorem rgrp (f : Fields) : Statement (.rgrp f) := of_fields _ 0xA5 f rfl rfl rfl fun _ _ => rfl
theorem srtk (f : Fields) : Statement (.srtk f) := of_fields _ 0xA6 f rfl rfl rfl fun _ _ => rfl
theorem qsubCfgl (f : Fields) : Statement (.qsubCfgl f) := of_fields _ 0xC0 f rfl rfl rfl fun h _ => by
  have h : (f.sub.extractLsb' 0 3).toNat = 0 := by simpa only [Instr.rowOk, Fields.row, beq_iff_eq] using h
  simp [decodeEngine, h, pickSub]
theorem qsubCfgs (f : Fields) : Statement (.qsubCfgs f) := of_fields _ 0xC0 f rfl rfl rfl fun h _ => by
  have h : (f.sub.extractLsb' 0 3).toNat = 1 := by simpa only [Instr.rowOk, Fields.row, beq_iff_eq] using h
  simp [decodeEngine, h, pickSub]
theorem qsubSub (f : Fields) : Statement (.qsubSub f) := of_fields _ 0xC0 f rfl rfl rfl fun h _ => by
  have h : (f.sub.extractLsb' 0 3).toNat = 2 := by simpa only [Instr.rowOk, Fields.row, beq_iff_eq] using h
  simp [decodeEngine, h, pickSub]
theorem qsubDrop (f : Fields) : Statement (.qsubDrop f) := of_fields _ 0xC0 f rfl rfl rfl fun h _ => by
  have h : (f.sub.extractLsb' 0 3).toNat = 3 := by simpa only [Instr.rowOk, Fields.row, beq_iff_eq] using h
  simp [decodeEngine, h, pickSub]
theorem qret (f : Fields) : Statement (.qret f) := of_fields _ 0xC1 f rfl rfl rfl fun _ _ => rfl
theorem cpy (f : Fields) : Statement (.cpy f) := of_fields _ 0xC2 f rfl rfl rfl fun _ _ => rfl
theorem cpyt (f : Fields) : Statement (.cpyt f) := of_fields _ 0xC3 f rfl rfl rfl fun _ _ => rfl
theorem ewt (f : Fields) : Statement (.ewt f) := of_fields _ 0xC4 f rfl rfl rfl fun _ _ => rfl
theorem xput (f : Fields) : Statement (.xput f) := of_fields _ 0xC8 f rfl rfl rfl fun _ _ => rfl
theorem xget (f : Fields) : Statement (.xget f) := of_fields _ 0xC9 f rfl rfl rfl fun _ _ => rfl
theorem xred (f : Fields) : Statement (.xred f) := of_fields _ 0xCA f rfl rfl rfl fun _ _ => rfl
theorem tspn (f : Fields) : Statement (.tspn f) := of_fields _ 0xD0 f rfl rfl rfl fun _ _ => rfl
theorem tsus (f : Fields) : Statement (.tsus f) := of_fields _ 0xD1 f rfl rfl rfl fun _ _ => rfl
theorem tend (f : Fields) : Statement (.tend f) := of_fields _ 0xD2 f rfl rfl rfl fun _ _ => rfl
theorem slinSet (f : Fields) : Statement (.slinSet f) := of_fields _ 0xD4 f rfl rfl rfl fun h _ => by
  have h : (f.sub.extractLsb' 0 2).toNat = 0 := by simpa only [Instr.rowOk, Fields.row, beq_iff_eq] using h
  simp [decodeEngine, h, pickSub]
theorem slinRec (f : Fields) : Statement (.slinRec f) := of_fields _ 0xD4 f rfl rfl rfl fun h _ => by
  have h : (f.sub.extractLsb' 0 2).toNat = 1 := by simpa only [Instr.rowOk, Fields.row, beq_iff_eq] using h
  simp [decodeEngine, h, pickSub]
theorem slinClose (f : Fields) : Statement (.slinClose f) := of_fields _ 0xD4 f rfl rfl rfl fun h _ => by
  have h : (f.sub.extractLsb' 0 2).toNat = 2 := by simpa only [Instr.rowOk, Fields.row, beq_iff_eq] using h
  simp [decodeEngine, h, pickSub]
theorem slinFree (f : Fields) : Statement (.slinFree f) := of_fields _ 0xD4 f rfl rfl rfl fun h _ => by
  have h : (f.sub.extractLsb' 0 2).toNat = 3 := by simpa only [Instr.rowOk, Fields.row, beq_iff_eq] using h
  simp [decodeEngine, h, pickSub]
theorem slps (f : Fields) : Statement (.slps f) := of_fields _ 0xD5 f rfl rfl rfl fun _ _ => rfl
theorem sldp (f : Fields) : Statement (.sldp f) := of_fields _ 0xD6 f rfl rfl rfl fun _ _ => rfl
theorem slfxRd (f : Fields) : Statement (.slfxRd f) := of_fields _ 0xD7 f rfl rfl rfl fun h _ => by
  have h : (f.sub.extractLsb' 0 2).toNat = 0 := by simpa only [Instr.rowOk, Fields.row, beq_iff_eq] using h
  simp [decodeEngine, h, pickSub]
theorem slfxPin (f : Fields) : Statement (.slfxPin f) := of_fields _ 0xD7 f rfl rfl rfl fun h _ => by
  have h : (f.sub.extractLsb' 0 2).toNat = 1 := by simpa only [Instr.rowOk, Fields.row, beq_iff_eq] using h
  simp [decodeEngine, h, pickSub]
theorem slfxUnpin (f : Fields) : Statement (.slfxUnpin f) := of_fields _ 0xD7 f rfl rfl rfl fun h _ => by
  have h : (f.sub.extractLsb' 0 2).toNat = 2 := by simpa only [Instr.rowOk, Fields.row, beq_iff_eq] using h
  simp [decodeEngine, h, pickSub]
theorem slst (f : Fields) : Statement (.slst f) := of_fields _ 0xD8 f rfl rfl rfl fun _ _ => rfl
theorem jtok (f : Fields) : Statement (.jtok f) := of_fields _ 0xDC f rfl rfl rfl fun _ _ => rfl
theorem jrte (f : Fields) : Statement (.jrte f) := of_fields _ 0xDD f rfl rfl rfl fun _ _ => rfl
theorem jrd (f : Fields) : Statement (.jrd f) := of_fields _ 0xDE f rfl rfl rfl fun _ _ => rfl
theorem kret (f : Fields) : Statement (.kret f) := of_fields _ 0xE0 f rfl rfl rfl fun _ _ => rfl
theorem csrr (f : Fields) : Statement (.csrr f) := of_fields _ 0xE1 f rfl rfl rfl fun _ _ => rfl
theorem csrw (f : Fields) : Statement (.csrw f) := of_fields _ 0xE2 f rfl rfl rfl fun h _ => by
  simp [Instr.rowOk] at h
  simp [decodeEngine, h]
theorem scopetabWrite (f : Fields) : Statement (.scopetabWrite f) := of_fields _ 0xE2 f rfl rfl rfl fun h _ => by
  simp [Instr.rowOk] at h
  simp [decodeEngine, h]
theorem tlbiPage (f : Fields) : Statement (.tlbiPage f) := of_fields _ 0xE3 f rfl rfl rfl fun h _ => by
  have h : (f.sub.extractLsb' 0 2).toNat = 0 := by simpa only [Instr.rowOk, Fields.row, beq_iff_eq] using h
  simp [decodeEngine, h, pickSub]
theorem tlbiCtx (f : Fields) : Statement (.tlbiCtx f) := of_fields _ 0xE3 f rfl rfl rfl fun h _ => by
  have h : (f.sub.extractLsb' 0 2).toNat = 1 := by simpa only [Instr.rowOk, Fields.row, beq_iff_eq] using h
  simp [decodeEngine, h, pickSub]
theorem tlbiPart (f : Fields) : Statement (.tlbiPart f) := of_fields _ 0xE3 f rfl rfl rfl fun h _ => by
  have h : (f.sub.extractLsb' 0 2).toNat = 2 := by simpa only [Instr.rowOk, Fields.row, beq_iff_eq] using h
  simp [decodeEngine, h, pickSub]
theorem tlbiAll (f : Fields) : Statement (.tlbiAll f) := of_fields _ 0xE3 f rfl rfl rfl fun h _ => by
  have h : (f.sub.extractLsb' 0 2).toNat = 3 := by simpa only [Instr.rowOk, Fields.row, beq_iff_eq] using h
  simp [decodeEngine, h, pickSub]
theorem swcxLoad (f : Fields) : Statement (.swcxLoad f) := of_fields _ 0xE4 f rfl rfl rfl fun h _ => by
  have h : (f.sub.extractLsb' 0 2).toNat = 0 := by simpa only [Instr.rowOk, Fields.row, beq_iff_eq] using h
  simp [decodeEngine, h, pickSub]
theorem swcxArm (f : Fields) : Statement (.swcxArm f) := of_fields _ 0xE4 f rfl rfl rfl fun h _ => by
  have h : (f.sub.extractLsb' 0 2).toNat = 1 := by simpa only [Instr.rowOk, Fields.row, beq_iff_eq] using h
  simp [decodeEngine, h, pickSub]
theorem swcxCancel (f : Fields) : Statement (.swcxCancel f) := of_fields _ 0xE4 f rfl rfl rfl fun h _ => by
  have h : (f.sub.extractLsb' 0 2).toNat = 2 := by simpa only [Instr.rowOk, Fields.row, beq_iff_eq] using h
  simp [decodeEngine, h, pickSub]
theorem engr (f : Fields) : Statement (.engr f) := of_fields _ 0xE5 f rfl rfl rfl fun _ _ => rfl
theorem fltr (f : Fields) : Statement (.fltr f) := of_fields _ 0xE6 f rfl rfl rfl fun _ _ => rfl
theorem hlt (f : Fields) : Statement (.hlt f) := of_fields _ 0xE7 f rfl rfl rfl fun _ _ => rfl
theorem sigt (f : Fields) : Statement (.sigt f) := of_fields _ 0xE8 f rfl rfl rfl fun _ _ => rfl
theorem scpwVault (f : Fields) : Statement (.scpwVault f) := of_fields _ 0xEA f rfl rfl rfl fun h _ => by
  have h : (f.sub.extractLsb' 0 4).toNat = 0 := by simpa only [Instr.rowOk, Fields.row, beq_iff_eq] using h
  simp [decodeEngine, h, pickSub]
theorem scpwL2way (f : Fields) : Statement (.scpwL2way f) := of_fields _ 0xEA f rfl rfl rfl fun h _ => by
  have h : (f.sub.extractLsb' 0 4).toNat = 1 := by simpa only [Instr.rowOk, Fields.row, beq_iff_eq] using h
  simp [decodeEngine, h, pickSub]
theorem scpwPinq (f : Fields) : Statement (.scpwPinq f) := of_fields _ 0xEA f rfl rfl rfl fun h _ => by
  have h : (f.sub.extractLsb' 0 4).toNat = 2 := by simpa only [Instr.rowOk, Fields.row, beq_iff_eq] using h
  simp [decodeEngine, h, pickSub]
theorem scpwSlot (f : Fields) : Statement (.scpwSlot f) := of_fields _ 0xEA f rfl rfl rfl fun h _ => by
  have h : (f.sub.extractLsb' 0 4).toNat = 3 := by simpa only [Instr.rowOk, Fields.row, beq_iff_eq] using h
  simp [decodeEngine, h, pickSub]
theorem scpwTask (f : Fields) : Statement (.scpwTask f) := of_fields _ 0xEA f rfl rfl rfl fun h _ => by
  have h : (f.sub.extractLsb' 0 4).toNat = 4 := by simpa only [Instr.rowOk, Fields.row, beq_iff_eq] using h
  simp [decodeEngine, h, pickSub]
theorem scpwFq (f : Fields) : Statement (.scpwFq f) := of_fields _ 0xEA f rfl rfl rfl fun h _ => by
  have h : (f.sub.extractLsb' 0 4).toNat = 5 := by simpa only [Instr.rowOk, Fields.row, beq_iff_eq] using h
  simp [decodeEngine, h, pickSub]
theorem scpwFqack (f : Fields) : Statement (.scpwFqack f) := of_fields _ 0xEA f rfl rfl rfl fun h _ => by
  have h : (f.sub.extractLsb' 0 4).toNat = 6 := by simpa only [Instr.rowOk, Fields.row, beq_iff_eq] using h
  simp [decodeEngine, h, pickSub]
theorem scpwStrict (f : Fields) : Statement (.scpwStrict f) := of_fields _ 0xEA f rfl rfl rfl fun h _ => by
  have h : (f.sub.extractLsb' 0 4).toNat = 7 := by simpa only [Instr.rowOk, Fields.row, beq_iff_eq] using h
  simp [decodeEngine, h, pickSub]
theorem scpwPeer (f : Fields) : Statement (.scpwPeer f) := of_fields _ 0xEA f rfl rfl rfl fun h _ => by
  have h : (f.sub.extractLsb' 0 4).toNat = 8 := by simpa only [Instr.rowOk, Fields.row, beq_iff_eq] using h
  simp [decodeEngine, h, pickSub]
theorem scpwSpare (f : Fields) : Statement (.scpwSpare f) := of_fields _ 0xEA f rfl rfl rfl fun h _ => by
  have h : (f.sub.extractLsb' 0 4).toNat = 9 := by simpa only [Instr.rowOk, Fields.row, beq_iff_eq] using h
  simp [decodeEngine, h, pickSub]
theorem jtrnCfg (f : Fields) : Statement (.jtrnCfg f) := of_fields _ 0xE9 f rfl rfl rfl fun h _ => by
  have h : (f.sub.extractLsb' 0 3).toNat = 0 := by simpa only [Instr.rowOk, Fields.row, beq_iff_eq] using h
  simp [decodeEngine, h, pickSub]
theorem jtrnHost (f : Fields) : Statement (.jtrnHost f) := of_fields _ 0xE9 f rfl rfl rfl fun h _ => by
  have h : (f.sub.extractLsb' 0 3).toNat = 1 := by simpa only [Instr.rowOk, Fields.row, beq_iff_eq] using h
  simp [decodeEngine, h, pickSub]
theorem jtrnPart (f : Fields) : Statement (.jtrnPart f) := of_fields _ 0xE9 f rfl rfl rfl fun h _ => by
  have h : (f.sub.extractLsb' 0 3).toNat = 2 := by simpa only [Instr.rowOk, Fields.row, beq_iff_eq] using h
  simp [decodeEngine, h, pickSub]
theorem jtrnCkpt (f : Fields) : Statement (.jtrnCkpt f) := of_fields _ 0xE9 f rfl rfl rfl fun h _ => by
  have h : (f.sub.extractLsb' 0 3).toNat = 3 := by simpa only [Instr.rowOk, Fields.row, beq_iff_eq] using h
  simp [decodeEngine, h, pickSub]
theorem jtrnTrunc (f : Fields) : Statement (.jtrnTrunc f) := of_fields _ 0xE9 f rfl rfl rfl fun h _ => by
  have h : (f.sub.extractLsb' 0 3).toNat = 4 := by simpa only [Instr.rowOk, Fields.row, beq_iff_eq] using h
  simp [decodeEngine, h, pickSub]
theorem jtrnSync (f : Fields) : Statement (.jtrnSync f) := of_fields _ 0xE9 f rfl rfl rfl fun h _ => by
  have h : (f.sub.extractLsb' 0 3).toNat = 5 := by simpa only [Instr.rowOk, Fields.row, beq_iff_eq] using h
  simp [decodeEngine, h, pickSub]
theorem jtrnRply (f : Fields) : Statement (.jtrnRply f) := of_fields _ 0xE9 f rfl rfl rfl fun h _ => by
  have h : (f.sub.extractLsb' 0 3).toNat = 6 := by simpa only [Instr.rowOk, Fields.row, beq_iff_eq] using h
  simp [decodeEngine, h, pickSub]
theorem mma (f : PassFields) : Statement (.mma f) := of_burin _ (burinSlot 0x00 (0#62 ++ f.pri ++ f.mode.toBits ++ f.db ++ f.da ++ f.zc ++ f.zt)) rfl rfl rfl fun h => by
  generalize hw : burinSlot 0x00 (0#62 ++ f.pri ++ f.mode.toBits ++ f.db ++ f.da ++ f.zc ++ f.zt) = w
  have at_ (lo len : Nat) (r : BitVec len) (h : BitVec.extractLsb' lo len (0#62 ++ f.pri ++ f.mode.toBits ++ f.db ++ f.da ++ f.zc ++ f.zt ++ 0#8 ++ 0x00#8) = r) :
      w.extractLsb' lo len = r := hw ▸ h
  have h0 : w.extractLsb' 0 8 = 0x00#8 := by apply at_; simp (disch := omega) only [slice_low, slice_all]
  have h1 : w.extractLsb' 8 8 = 0#8 := by apply at_; simp (disch := omega) only [slice_low, slice_high, slice_all]
  have f0 : w.extractLsb' 16 6 = f.zt := by apply at_; simp (disch := omega) only [slice_low, slice_high, slice_all]
  have f1 : w.extractLsb' 22 2 = f.zc := by apply at_; simp (disch := omega) only [slice_low, slice_high, slice_all]
  have f2 : w.extractLsb' 24 3 = f.da := by apply at_; simp (disch := omega) only [slice_low, slice_high, slice_all]
  have f3 : w.extractLsb' 27 3 = f.db := by apply at_; simp (disch := omega) only [slice_low, slice_high, slice_all]
  have f4 : w.extractLsb' 30 2 = f.mode.toBits := by apply at_; simp (disch := omega) only [slice_low, slice_high, slice_all]
  have f5 : w.extractLsb' 32 2 = f.pri := by apply at_; simp (disch := omega) only [slice_low, slice_high, slice_all]
  have f6 : zeroFrom w 34 = true := by apply zero_from w 34 62 (by omega); apply at_; simp (disch := omega) only [slice_high, slice_all]
  simp only [Instr.burinOk, decide_eq_true_eq] at h
  simp only [decodeBurin, PassFields.ofSlot, h0, h1, f0, f1, f2, f3, f4, f5, f6]
  simp [h]
theorem mmz (f : PassFields) : Statement (.mmz f) := of_burin _ (burinSlot 0x01 (0#62 ++ f.pri ++ f.mode.toBits ++ f.db ++ f.da ++ f.zc ++ f.zt)) rfl rfl rfl fun h => by
  generalize hw : burinSlot 0x01 (0#62 ++ f.pri ++ f.mode.toBits ++ f.db ++ f.da ++ f.zc ++ f.zt) = w
  have at_ (lo len : Nat) (r : BitVec len) (h : BitVec.extractLsb' lo len (0#62 ++ f.pri ++ f.mode.toBits ++ f.db ++ f.da ++ f.zc ++ f.zt ++ 0#8 ++ 0x01#8) = r) :
      w.extractLsb' lo len = r := hw ▸ h
  have h0 : w.extractLsb' 0 8 = 0x01#8 := by apply at_; simp (disch := omega) only [slice_low, slice_all]
  have h1 : w.extractLsb' 8 8 = 0#8 := by apply at_; simp (disch := omega) only [slice_low, slice_high, slice_all]
  have f0 : w.extractLsb' 16 6 = f.zt := by apply at_; simp (disch := omega) only [slice_low, slice_high, slice_all]
  have f1 : w.extractLsb' 22 2 = f.zc := by apply at_; simp (disch := omega) only [slice_low, slice_high, slice_all]
  have f2 : w.extractLsb' 24 3 = f.da := by apply at_; simp (disch := omega) only [slice_low, slice_high, slice_all]
  have f3 : w.extractLsb' 27 3 = f.db := by apply at_; simp (disch := omega) only [slice_low, slice_high, slice_all]
  have f4 : w.extractLsb' 30 2 = f.mode.toBits := by apply at_; simp (disch := omega) only [slice_low, slice_high, slice_all]
  have f5 : w.extractLsb' 32 2 = f.pri := by apply at_; simp (disch := omega) only [slice_low, slice_high, slice_all]
  have f6 : zeroFrom w 34 = true := by apply zero_from w 34 62 (by omega); apply at_; simp (disch := omega) only [slice_high, slice_all]
  simp only [Instr.burinOk, decide_eq_true_eq] at h
  simp only [decodeBurin, PassFields.ofSlot, h0, h1, f0, f1, f2, f3, f4, f5, f6]
  simp [h]
theorem zout (f : ZoutFields) : Statement (.zout f) := of_burin _ (burinSlot 0x02 (0#59 ++ BitVec.ofBool f.sce ++ f.ys ++ BitVec.ofBool f.ntz ++ BitVec.ofBool f.satn ++ f.rnd ++ f.dt ++ f.zc ++ f.zt)) rfl rfl rfl fun h => by
  generalize hw : burinSlot 0x02 (0#59 ++ BitVec.ofBool f.sce ++ f.ys ++ BitVec.ofBool f.ntz ++ BitVec.ofBool f.satn ++ f.rnd ++ f.dt ++ f.zc ++ f.zt) = w
  have at_ (lo len : Nat) (r : BitVec len) (h : BitVec.extractLsb' lo len (0#59 ++ BitVec.ofBool f.sce ++ f.ys ++ BitVec.ofBool f.ntz ++ BitVec.ofBool f.satn ++ f.rnd ++ f.dt ++ f.zc ++ f.zt ++ 0#8 ++ 0x02#8) = r) :
      w.extractLsb' lo len = r := hw ▸ h
  have h0 : w.extractLsb' 0 8 = 0x02#8 := by apply at_; simp (disch := omega) only [slice_low, slice_all]
  have h1 : w.extractLsb' 8 8 = 0#8 := by apply at_; simp (disch := omega) only [slice_low, slice_high, slice_all]
  have f0 : w.extractLsb' 16 6 = f.zt := by apply at_; simp (disch := omega) only [slice_low, slice_high, slice_all]
  have f1 : w.extractLsb' 22 2 = f.zc := by apply at_; simp (disch := omega) only [slice_low, slice_high, slice_all]
  have f2 : w.extractLsb' 24 3 = f.dt := by apply at_; simp (disch := omega) only [slice_low, slice_high, slice_all]
  have f3 : w.extractLsb' 27 3 = f.rnd := by apply at_; simp (disch := omega) only [slice_low, slice_high, slice_all]
  have f4 := bit_field w 30 f.satn (by apply at_; simp (disch := omega) only [slice_low, slice_high, slice_all])
  have f5 := bit_field w 31 f.ntz (by apply at_; simp (disch := omega) only [slice_low, slice_high, slice_all])
  have f6 : w.extractLsb' 32 4 = f.ys := by apply at_; simp (disch := omega) only [slice_low, slice_high, slice_all]
  have f7 := bit_field w 36 f.sce (by apply at_; simp (disch := omega) only [slice_low, slice_high, slice_all])
  have f8 : zeroFrom w 37 = true := by apply zero_from w 37 59 (by omega); apply at_; simp (disch := omega) only [slice_high, slice_all]
  simp only [Instr.burinOk, Bool.and_eq_true, decide_eq_true_eq] at h
  simp only [decodeBurin, ZoutFields.ofSlot, h0, h1, f0, f1, f2, f3, f4, f5, f6, f7, f8]
  simp [h]
theorem zin (f : ZinFields) : Statement (.zin f) := of_burin _ (burinSlot 0x03 (0#69 ++ f.dt ++ f.zc ++ f.zt)) rfl rfl rfl fun h => by
  generalize hw : burinSlot 0x03 (0#69 ++ f.dt ++ f.zc ++ f.zt) = w
  have at_ (lo len : Nat) (r : BitVec len) (h : BitVec.extractLsb' lo len (0#69 ++ f.dt ++ f.zc ++ f.zt ++ 0#8 ++ 0x03#8) = r) :
      w.extractLsb' lo len = r := hw ▸ h
  have h0 : w.extractLsb' 0 8 = 0x03#8 := by apply at_; simp (disch := omega) only [slice_low, slice_all]
  have h1 : w.extractLsb' 8 8 = 0#8 := by apply at_; simp (disch := omega) only [slice_low, slice_high, slice_all]
  have f0 : w.extractLsb' 16 6 = f.zt := by apply at_; simp (disch := omega) only [slice_low, slice_high, slice_all]
  have f1 : w.extractLsb' 22 2 = f.zc := by apply at_; simp (disch := omega) only [slice_low, slice_high, slice_all]
  have f2 : w.extractLsb' 24 3 = f.dt := by apply at_; simp (disch := omega) only [slice_low, slice_high, slice_all]
  have f3 : zeroFrom w 27 = true := by apply zero_from w 27 69 (by omega); apply at_; simp (disch := omega) only [slice_high, slice_all]
  simp only [Instr.burinOk, decide_eq_true_eq] at h
  simp only [decodeBurin, h0, h1, f0, f1, f2, f3]
  simp [h]
theorem tsrw (f : TsrwFields) : Statement (.tsrw f) := of_burin _ (burinSlot 0x04 (0#32 ++ f.disp ++ 0#5 ++ f.zc ++ BitVec.ofBool f.sp ++ f.ya ++ 0#1 ++ f.dt)) rfl rfl rfl fun h => by
  generalize hw : burinSlot 0x04 (0#32 ++ f.disp ++ 0#5 ++ f.zc ++ BitVec.ofBool f.sp ++ f.ya ++ 0#1 ++ f.dt) = w
  have at_ (lo len : Nat) (r : BitVec len) (h : BitVec.extractLsb' lo len (0#32 ++ f.disp ++ 0#5 ++ f.zc ++ BitVec.ofBool f.sp ++ f.ya ++ 0#1 ++ f.dt ++ 0#8 ++ 0x04#8) = r) :
      w.extractLsb' lo len = r := hw ▸ h
  have h0 : w.extractLsb' 0 8 = 0x04#8 := by apply at_; simp (disch := omega) only [slice_low, slice_all]
  have h1 : w.extractLsb' 8 8 = 0#8 := by apply at_; simp (disch := omega) only [slice_low, slice_high, slice_all]
  have f0 : w.extractLsb' 16 3 = f.dt := by apply at_; simp (disch := omega) only [slice_low, slice_high, slice_all]
  have f1 : w.getLsbD 19 = false := by rw [bit_slice, at_ 19 1 (0#1) (by simp (disch := omega) only [slice_low, slice_high, slice_all])]; rfl
  have f2 : w.extractLsb' 20 4 = f.ya := by apply at_; simp (disch := omega) only [slice_low, slice_high, slice_all]
  have f3 := bit_field w 24 f.sp (by apply at_; simp (disch := omega) only [slice_low, slice_high, slice_all])
  have f4 : w.extractLsb' 25 2 = f.zc := by apply at_; simp (disch := omega) only [slice_low, slice_high, slice_all]
  have f5 : w.extractLsb' 27 5 = 0#5 := by apply at_; simp (disch := omega) only [slice_low, slice_high, slice_all]
  have f6 : w.extractLsb' 32 32 = f.disp := by apply at_; simp (disch := omega) only [slice_low, slice_high, slice_all]
  have f7 : zeroFrom w 64 = true := by apply zero_from w 64 32 (by omega); apply at_; simp (disch := omega) only [slice_high, slice_all]
  simp only [Instr.burinOk ] at h
  simp only [decodeBurin, h0, h1, f0, f1, f2, f3, f4, f5, f6, f7]
  simp [h]
theorem tadv (f : TadvFields) : Statement (.tadv f) := of_burin _ (burinSlot 0x05 (0#32 ++ f.imm ++ 0#5 ++ f.yn ++ BitVec.ofBool f.ysel ++ f.fld.toBits ++ 0#1 ++ f.dt)) rfl rfl rfl fun h => by
  generalize hw : burinSlot 0x05 (0#32 ++ f.imm ++ 0#5 ++ f.yn ++ BitVec.ofBool f.ysel ++ f.fld.toBits ++ 0#1 ++ f.dt) = w
  have at_ (lo len : Nat) (r : BitVec len) (h : BitVec.extractLsb' lo len (0#32 ++ f.imm ++ 0#5 ++ f.yn ++ BitVec.ofBool f.ysel ++ f.fld.toBits ++ 0#1 ++ f.dt ++ 0#8 ++ 0x05#8) = r) :
      w.extractLsb' lo len = r := hw ▸ h
  have h0 : w.extractLsb' 0 8 = 0x05#8 := by apply at_; simp (disch := omega) only [slice_low, slice_all]
  have h1 : w.extractLsb' 8 8 = 0#8 := by apply at_; simp (disch := omega) only [slice_low, slice_high, slice_all]
  have f0 : w.extractLsb' 16 3 = f.dt := by apply at_; simp (disch := omega) only [slice_low, slice_high, slice_all]
  have f1 : w.getLsbD 19 = false := by rw [bit_slice, at_ 19 1 (0#1) (by simp (disch := omega) only [slice_low, slice_high, slice_all])]; rfl
  have f2 : w.extractLsb' 20 2 = f.fld.toBits := by apply at_; simp (disch := omega) only [slice_low, slice_high, slice_all]
  have f3 := bit_field w 22 f.ysel (by apply at_; simp (disch := omega) only [slice_low, slice_high, slice_all])
  have f4 : w.extractLsb' 23 4 = f.yn := by apply at_; simp (disch := omega) only [slice_low, slice_high, slice_all]
  have f5 : w.extractLsb' 27 5 = 0#5 := by apply at_; simp (disch := omega) only [slice_low, slice_high, slice_all]
  have f6 : w.extractLsb' 32 32 = f.imm := by apply at_; simp (disch := omega) only [slice_low, slice_high, slice_all]
  have f7 : zeroFrom w 64 = true := by apply zero_from w 64 32 (by omega); apply at_; simp (disch := omega) only [slice_high, slice_all]
  simp only [Instr.burinOk ] at h
  simp only [decodeBurin, h0, h1, f0, f1, f2, f3, f4, f5, f6, f7]
  simp [h]
theorem barr (bn : BitVec 4) (e : BitVec 7) : Statement (.barr bn e) := of_burin _ (burinSlot 0x06 (0#69 ++ e ++ bn)) rfl rfl rfl fun h => by
  generalize hw : burinSlot 0x06 (0#69 ++ e ++ bn) = w
  have at_ (lo len : Nat) (r : BitVec len) (h : BitVec.extractLsb' lo len (0#69 ++ e ++ bn ++ 0#8 ++ 0x06#8) = r) :
      w.extractLsb' lo len = r := hw ▸ h
  have h0 : w.extractLsb' 0 8 = 0x06#8 := by apply at_; simp (disch := omega) only [slice_low, slice_all]
  have h1 : w.extractLsb' 8 8 = 0#8 := by apply at_; simp (disch := omega) only [slice_low, slice_high, slice_all]
  have f0 : w.extractLsb' 16 4 = bn := by apply at_; simp (disch := omega) only [slice_low, slice_high, slice_all]
  have f1 : w.extractLsb' 20 7 = e := by apply at_; simp (disch := omega) only [slice_low, slice_high, slice_all]
  have f2 : zeroFrom w 27 = true := by apply zero_from w 27 69 (by omega); apply at_; simp (disch := omega) only [slice_high, slice_all]
  simp only [Instr.burinOk, Bool.and_eq_true, decide_eq_true_eq] at h
  simp only [decodeBurin, h0, h1, f0, f1, f2]
  simp [h]
theorem bwai (bn : BitVec 4) : Statement (.bwai bn) := of_burin _ (burinSlot 0x07 (0#76 ++ bn)) rfl rfl rfl fun _ => by
  generalize hw : burinSlot 0x07 (0#76 ++ bn) = w
  have at_ (lo len : Nat) (r : BitVec len) (h : BitVec.extractLsb' lo len (0#76 ++ bn ++ 0#8 ++ 0x07#8) = r) :
      w.extractLsb' lo len = r := hw ▸ h
  have h0 : w.extractLsb' 0 8 = 0x07#8 := by apply at_; simp (disch := omega) only [slice_low, slice_all]
  have h1 : w.extractLsb' 8 8 = 0#8 := by apply at_; simp (disch := omega) only [slice_low, slice_high, slice_all]
  have f0 : w.extractLsb' 16 4 = bn := by apply at_; simp (disch := omega) only [slice_low, slice_high, slice_all]
  have f1 : zeroFrom w 20 = true := by apply zero_from w 20 76 (by omega); apply at_; simp (disch := omega) only [slice_high, slice_all]
  simp only [decodeBurin, h0, h1, f0, f1]
  simp
theorem ordy : Statement .ordy := of_burin _ _ rfl rfl rfl fun _ => rfl
theorem mwt_tile (zt : BitVec 6) (zc : BitVec 2) : Statement (.mwt (.tile zt zc)) := of_burin _ (burinSlot 0x0D (0#71 ++ 1#1 ++ zc ++ zt)) rfl rfl rfl fun h => by
  generalize hw : burinSlot 0x0D (0#71 ++ 1#1 ++ zc ++ zt) = w
  have at_ (lo len : Nat) (r : BitVec len) (h : BitVec.extractLsb' lo len (0#71 ++ 1#1 ++ zc ++ zt ++ 0#8 ++ 0x0D#8) = r) :
      w.extractLsb' lo len = r := hw ▸ h
  have h0 : w.extractLsb' 0 8 = 0x0D#8 := by apply at_; simp (disch := omega) only [slice_low, slice_all]
  have h1 : w.extractLsb' 8 8 = 0#8 := by apply at_; simp (disch := omega) only [slice_low, slice_high, slice_all]
  have f0 : w.extractLsb' 16 6 = zt := by apply at_; simp (disch := omega) only [slice_low, slice_high, slice_all]
  have f1 : w.extractLsb' 22 2 = zc := by apply at_; simp (disch := omega) only [slice_low, slice_high, slice_all]
  have f2 : w.getLsbD 24 = true := by rw [bit_slice, at_ 24 1 (1#1) (by simp (disch := omega) only [slice_low, slice_high, slice_all])]; rfl
  have f3 : zeroFrom w 25 = true := by apply zero_from w 25 71 (by omega); apply at_; simp (disch := omega) only [slice_high, slice_all]
  simp only [Instr.burinOk, decide_eq_true_eq] at h
  simp only [decodeBurin, h0, h1, f0, f1, f2, f3]
  simp [h]
theorem mwt (sel : MwtSel) : Statement (.mwt sel) := by
  cases sel with
  | all => exact of_burin _ _ rfl rfl rfl fun _ => rfl
  | tile zt zc => exact mwt_tile zt zc
theorem ymov_reg (yd ys : BitVec 4) : Statement (.ymov yd (.reg ys)) := of_burin _ (burinSlot 0x09 (0#72 ++ ys ++ yd)) rfl rfl rfl fun _ => by
  generalize hw : burinSlot 0x09 (0#72 ++ ys ++ yd) = w
  have at_ (lo len : Nat) (r : BitVec len) (h : BitVec.extractLsb' lo len (0#72 ++ ys ++ yd ++ 0#8 ++ 0x09#8) = r) :
      w.extractLsb' lo len = r := hw ▸ h
  have h0 : w.extractLsb' 0 8 = 0x09#8 := by apply at_; simp (disch := omega) only [slice_low, slice_all]
  have h1 : w.extractLsb' 8 8 = 0#8 := by apply at_; simp (disch := omega) only [slice_low, slice_high, slice_all]
  have f0 : w.extractLsb' 16 4 = yd := by apply at_; simp (disch := omega) only [slice_low, slice_high, slice_all]
  have f1 : w.extractLsb' 20 4 = ys := by apply at_; simp (disch := omega) only [slice_low, slice_high, slice_all]
  have f2 : w.extractLsb' 24 2 = 0#2 := by apply at_; simp (disch := omega) only [slice_high, slice_zero]
  have f3 : w.extractLsb' 26 6 = 0#6 := by apply at_; simp (disch := omega) only [slice_high, slice_zero]
  have f4 : zeroFrom w 32 = true := by apply zero_from w 32 64 (by omega); apply at_; simp (disch := omega) only [slice_high, slice_zero]
  simp only [decodeBurin, h0, h1, f0, f1, f2, f3, f4]
  simp
theorem ymov_imm (yd : BitVec 4) (v : BitVec 64) : Statement (.ymov yd (.imm v)) := of_burin _ (burinSlot 0x09 (v ++ 0#6 ++ 1#2 ++ 0#4 ++ yd)) rfl rfl rfl fun _ => by
  generalize hw : burinSlot 0x09 (v ++ 0#6 ++ 1#2 ++ 0#4 ++ yd) = w
  have at_ (lo len : Nat) (r : BitVec len) (h : BitVec.extractLsb' lo len (v ++ 0#6 ++ 1#2 ++ 0#4 ++ yd ++ 0#8 ++ 0x09#8) = r) :
      w.extractLsb' lo len = r := hw ▸ h
  have h0 : w.extractLsb' 0 8 = 0x09#8 := by apply at_; simp (disch := omega) only [slice_low, slice_all]
  have h1 : w.extractLsb' 8 8 = 0#8 := by apply at_; simp (disch := omega) only [slice_low, slice_high, slice_all]
  have f0 : w.extractLsb' 16 4 = yd := by apply at_; simp (disch := omega) only [slice_low, slice_high, slice_all]
  have f1 : w.extractLsb' 20 4 = 0#4 := by apply at_; simp (disch := omega) only [slice_low, slice_high, slice_all]
  have f2 : w.extractLsb' 24 2 = 1#2 := by apply at_; simp (disch := omega) only [slice_low, slice_high, slice_all]
  have f3 : w.extractLsb' 26 6 = 0#6 := by apply at_; simp (disch := omega) only [slice_low, slice_high, slice_all]
  have f4 : w.extractLsb' 32 64 = v := by apply at_; simp (disch := omega) only [slice_high, slice_all]
  simp only [decodeBurin, h0, h1, f0, f1, f2, f3, f4]
  simp
theorem ymov_load (yd ys : BitVec 4) (disp : BitVec 32) : Statement (.ymov yd (.load ys disp)) := of_burin _ (burinSlot 0x09 (0#32 ++ disp ++ 0#6 ++ 2#2 ++ ys ++ yd)) rfl rfl rfl fun _ => by
  generalize hw : burinSlot 0x09 (0#32 ++ disp ++ 0#6 ++ 2#2 ++ ys ++ yd) = w
  have at_ (lo len : Nat) (r : BitVec len) (h : BitVec.extractLsb' lo len (0#32 ++ disp ++ 0#6 ++ 2#2 ++ ys ++ yd ++ 0#8 ++ 0x09#8) = r) :
      w.extractLsb' lo len = r := hw ▸ h
  have h0 : w.extractLsb' 0 8 = 0x09#8 := by apply at_; simp (disch := omega) only [slice_low, slice_all]
  have h1 : w.extractLsb' 8 8 = 0#8 := by apply at_; simp (disch := omega) only [slice_low, slice_high, slice_all]
  have f0 : w.extractLsb' 16 4 = yd := by apply at_; simp (disch := omega) only [slice_low, slice_high, slice_all]
  have f1 : w.extractLsb' 20 4 = ys := by apply at_; simp (disch := omega) only [slice_low, slice_high, slice_all]
  have f2 : w.extractLsb' 24 2 = 2#2 := by apply at_; simp (disch := omega) only [slice_low, slice_high, slice_all]
  have f3 : w.extractLsb' 26 6 = 0#6 := by apply at_; simp (disch := omega) only [slice_low, slice_high, slice_all]
  have f4 : w.extractLsb' 32 32 = disp := by apply at_; simp (disch := omega) only [slice_low, slice_high, slice_all]
  have f5 : zeroFrom w 64 = true := by apply zero_from w 64 32 (by omega); apply at_; simp (disch := omega) only [slice_high, slice_all]
  simp only [decodeBurin, h0, h1, f0, f1, f2, f3, f4, f5]
  simp
theorem ymov (yd : BitVec 4) (src : YmovSrc) : Statement (.ymov yd src) := by
  cases src with
  | reg ys => exact ymov_reg yd ys
  | imm v => exact ymov_imm yd v
  | load ys disp => exact ymov_load yd ys disp
theorem yadd_reg (yd ya yb : BitVec 4) : Statement (.yadd yd ya (.reg yb)) := of_burin _ (burinSlot 0x0A (0#68 ++ yb ++ ya ++ yd)) rfl rfl rfl fun _ => by
  generalize hw : burinSlot 0x0A (0#68 ++ yb ++ ya ++ yd) = w
  have at_ (lo len : Nat) (r : BitVec len) (h : BitVec.extractLsb' lo len (0#68 ++ yb ++ ya ++ yd ++ 0#8 ++ 0x0A#8) = r) :
      w.extractLsb' lo len = r := hw ▸ h
  have h0 : w.extractLsb' 0 8 = 0x0A#8 := by apply at_; simp (disch := omega) only [slice_low, slice_all]
  have h1 : w.extractLsb' 8 8 = 0#8 := by apply at_; simp (disch := omega) only [slice_low, slice_high, slice_all]
  have f0 : w.extractLsb' 16 4 = yd := by apply at_; simp (disch := omega) only [slice_low, slice_high, slice_all]
  have f1 : w.extractLsb' 20 4 = ya := by apply at_; simp (disch := omega) only [slice_low, slice_high, slice_all]
  have f2 : w.extractLsb' 24 4 = yb := by apply at_; simp (disch := omega) only [slice_low, slice_high, slice_all]
  have f3 : w.getLsbD 28 = false := by rw [bit_slice, at_ 28 1 (0#1) (by simp (disch := omega) only [slice_high, slice_zero])]; rfl
  have f4 : w.extractLsb' 29 3 = 0#3 := by apply at_; simp (disch := omega) only [slice_high, slice_zero]
  have f5 : w.extractLsb' 32 32 = 0#32 := by apply at_; simp (disch := omega) only [slice_high, slice_zero]
  have f6 : zeroFrom w 64 = true := by apply zero_from w 64 32 (by omega); apply at_; simp (disch := omega) only [slice_high, slice_zero]
  simp only [decodeBurin, h0, h1, f0, f1, f2, f3, f4, f5, f6]
  simp
theorem yadd_imm (yd ya : BitVec 4) (v : BitVec 32) : Statement (.yadd yd ya (.imm v)) := of_burin _ (burinSlot 0x0A (0#32 ++ v ++ 0#3 ++ 1#1 ++ 0#4 ++ ya ++ yd)) rfl rfl rfl fun _ => by
  generalize hw : burinSlot 0x0A (0#32 ++ v ++ 0#3 ++ 1#1 ++ 0#4 ++ ya ++ yd) = w
  have at_ (lo len : Nat) (r : BitVec len) (h : BitVec.extractLsb' lo len (0#32 ++ v ++ 0#3 ++ 1#1 ++ 0#4 ++ ya ++ yd ++ 0#8 ++ 0x0A#8) = r) :
      w.extractLsb' lo len = r := hw ▸ h
  have h0 : w.extractLsb' 0 8 = 0x0A#8 := by apply at_; simp (disch := omega) only [slice_low, slice_all]
  have h1 : w.extractLsb' 8 8 = 0#8 := by apply at_; simp (disch := omega) only [slice_low, slice_high, slice_all]
  have f0 : w.extractLsb' 16 4 = yd := by apply at_; simp (disch := omega) only [slice_low, slice_high, slice_all]
  have f1 : w.extractLsb' 20 4 = ya := by apply at_; simp (disch := omega) only [slice_low, slice_high, slice_all]
  have f2 : w.extractLsb' 24 4 = 0#4 := by apply at_; simp (disch := omega) only [slice_low, slice_high, slice_all]
  have f3 : w.getLsbD 28 = true := by rw [bit_slice, at_ 28 1 (1#1) (by simp (disch := omega) only [slice_low, slice_high, slice_all])]; rfl
  have f4 : w.extractLsb' 29 3 = 0#3 := by apply at_; simp (disch := omega) only [slice_low, slice_high, slice_all]
  have f5 : w.extractLsb' 32 32 = v := by apply at_; simp (disch := omega) only [slice_low, slice_high, slice_all]
  have f6 : zeroFrom w 64 = true := by apply zero_from w 64 32 (by omega); apply at_; simp (disch := omega) only [slice_high, slice_all]
  simp only [decodeBurin, h0, h1, f0, f1, f2, f3, f4, f5, f6]
  simp
theorem yadd (yd ya : BitVec 4) (src : YaddSrc) : Statement (.yadd yd ya src) := by
  cases src with
  | reg yb => exact yadd_reg yd ya yb
  | imm v => exact yadd_imm yd ya v
theorem ybr (ya : BitVec 4) (c : YCond) (off : BitVec 32) : Statement (.ybr ya c off) := of_burin _ (burinSlot 0x0B (0#32 ++ off ++ 0#9 ++ c.toBits ++ ya)) rfl rfl rfl fun h => by
  generalize hw : burinSlot 0x0B (0#32 ++ off ++ 0#9 ++ c.toBits ++ ya) = w
  have at_ (lo len : Nat) (r : BitVec len) (h : BitVec.extractLsb' lo len (0#32 ++ off ++ 0#9 ++ c.toBits ++ ya ++ 0#8 ++ 0x0B#8) = r) :
      w.extractLsb' lo len = r := hw ▸ h
  have h0 : w.extractLsb' 0 8 = 0x0B#8 := by apply at_; simp (disch := omega) only [slice_low, slice_all]
  have h1 : w.extractLsb' 8 8 = 0#8 := by apply at_; simp (disch := omega) only [slice_low, slice_high, slice_all]
  have f0 : w.extractLsb' 16 4 = ya := by apply at_; simp (disch := omega) only [slice_low, slice_high, slice_all]
  have f1 : w.extractLsb' 20 3 = c.toBits := by apply at_; simp (disch := omega) only [slice_low, slice_high, slice_all]
  have f2 : w.extractLsb' 23 9 = 0#9 := by apply at_; simp (disch := omega) only [slice_low, slice_high, slice_all]
  have f3 : w.extractLsb' 32 32 = off := by apply at_; simp (disch := omega) only [slice_low, slice_high, slice_all]
  have f4 : zeroFrom w 64 = true := by apply zero_from w 64 32 (by omega); apply at_; simp (disch := omega) only [slice_high, slice_all]
  cases c <;> simp [Instr.burinOk] at h <;> simp only [YCond.toBits] at f1 <;> simp only [decodeBurin, h0, h1, f0, f1, f2, f3, f4] <;> simp [h]
theorem bend : Statement .bend := of_burin _ _ rfl rfl rfl fun _ => rfl
theorem bnop : Statement .bnop := of_burin _ _ rfl rfl rfl fun _ => rfl
theorem fetchLine (gid : Nat) (va : DWord) : Statement (.fetchLine gid va) := of_event _ rfl rfl
theorem signalDelivery (gid : Nat) : Statement (.signalDelivery gid) := of_event _ rfl rfl
theorem asyncErrorDelivery (gid : Nat) : Statement (.asyncErrorDelivery gid) := of_event _ rfl rfl
theorem deferredResult (gid : Nat) (k : Nat) : Statement (.deferredResult gid k) := of_event _ rfl rfl
theorem waitResume (gid : Nat) : Statement (.waitResume gid) := of_event _ rfl rfl
theorem waittWake (gid : Nat) : Statement (.waittWake gid) := of_event _ rfl rfl
theorem yldWake (gid : Nat) : Statement (.yldWake gid) := of_event _ rfl rfl
theorem fenceComplete (gid : Nat) : Statement (.fenceComplete gid) := of_event _ rfl rfl
theorem barrierPhaseComplete (gid : Nat) (scope : Nat) : Statement (.barrierPhaseComplete gid scope) := of_event _ rfl rfl
theorem numberedBarrierComplete (wid : Nat) (b : Nat) : Statement (.numberedBarrierComplete wid b) := of_event _ rfl rfl
theorem stepComplete (wid : Nat) (k : Nat) : Statement (.stepComplete wid k) := of_event _ rfl rfl
theorem walk (who : Walker) (va : DWord) (write : Bool) : Statement (.walk who va write) := of_event _ rfl rfl
theorem faultReplyArrival (ctxid : BitVec 32) (die : Nat) (tag : BitVec 16) (status : BitVec 4) (cause : Byte) (k : Nat) : Statement (.faultReplyArrival ctxid die tag status cause k) := of_event _ rfl rfl
theorem loaderSectorWrite (core : CoreId) (q : Nat) (o : Nat) : Statement (.loaderSectorWrite core q o) := of_event _ rfl rfl
theorem storerSectorWrite (core : CoreId) (q : Nat) (o : Nat) : Statement (.storerSectorWrite core q o) := of_event _ rfl rfl
theorem copyComplete (cmd : Nat) : Statement (.copyComplete cmd) := of_event _ rfl rfl
theorem xgetRequestArrival (r : GetRequest) : Statement (.xgetRequestArrival r) := of_event _ rfl rfl
theorem fabricPacketArrival (x : FabricArrival) : Statement (.fabricPacketArrival x) := of_event _ rfl rfl
theorem flitReceive (port : Nat) (fl : Flit) : Statement (.flitReceive port fl) := of_event _ rfl rfl
theorem linkRetrain (port : Nat) : Statement (.linkRetrain port) := of_event _ rfl rfl
theorem linkKeyLoad (port : Nat) (key : BitVec 256) : Statement (.linkKeyLoad port key) := of_event _ rfl rfl
theorem linkKeySwitch (port : Nat) : Statement (.linkKeySwitch port) := of_event _ rfl rfl
theorem xredContributionArrival (c : Contribution) : Statement (.xredContributionArrival c) := of_event _ rfl rfl
theorem xredRoundDeadline (slot : Nat) : Statement (.xredRoundDeadline slot) := of_event _ rfl rfl
theorem xredResultDelivery (k : Nat) : Statement (.xredResultDelivery k) := of_event _ rfl rfl
theorem journalAppendSend (die : Nat) (ctxid : BitVec 32) (count : Nat) : Statement (.journalAppendSend die ctxid count) := of_event _ rfl rfl
theorem journalAppendArrival (die : Nat) (from_ : Stamp) (ctxid : BitVec 32) (jt : Nat) (first : Nat) (recs : List JRec) : Statement (.journalAppendArrival die from_ ctxid jt first recs) := of_event _ rfl rfl
theorem journalAckArrival (die : Nat) (ctxid : BitVec 32) (spkg : BitVec 12) (sinc : BitVec 16) (dinc : BitVec 16) (upto : Nat) : Statement (.journalAckArrival die ctxid spkg sinc dinc upto) := of_event _ rfl rfl
theorem journalResendTimer (die : Nat) (ctxid : BitVec 32) : Statement (.journalResendTimer die ctxid) := of_event _ rfl rfl
theorem journalTruncateArrival (die : Nat) (from_ : Stamp) (ctxid : BitVec 32) (jt : Nat) : Statement (.journalTruncateArrival die from_ ctxid jt) := of_event _ rfl rfl
theorem journalFetchRequest (die : Nat) (requester : Requester) (spkg : BitVec 12) (sdie : Nat) (sctxid : BitVec 32) (nctxid : BitVec 32) : Statement (.journalFetchRequest die requester spkg sdie sctxid nctxid) := of_event _ rfl rfl
theorem journalFetchResponse (die : Nat) (ctxid : BitVec 32) (from_ : Stamp) (run : JRun) : Statement (.journalFetchResponse die ctxid from_ run) := of_event _ rfl rfl
theorem taskStart (die : Nat) : Statement (.taskStart die) := of_event _ rfl rfl
theorem continuationReady (die : Nat) (k : Nat) : Statement (.continuationReady die k) := of_event _ rfl rfl
theorem stageBatchAge (die : Nat) (ctxid : BitVec 32) (set : Nat) (stage : Nat) : Statement (.stageBatchAge die ctxid set stage) := of_event _ rfl rfl
theorem statsWindowClose (die : Nat) (ctxid : BitVec 32) (set : Nat) : Statement (.statsWindowClose die ctxid set) := of_event _ rfl rfl
theorem recordFinish (die : Nat) (ctxid : BitVec 32) (set : Nat) : Statement (.recordFinish die ctxid set) := of_event _ rfl rfl
theorem arbiterGrant (q : QuadId) : Statement (.arbiterGrant q) := of_event _ rfl rfl
theorem tileFetchLine (q : QuadId) : Statement (.tileFetchLine q) := of_event _ rfl rfl
theorem pinTimeout (q : QuadId) : Statement (.pinTimeout q) := of_event _ rfl rfl
theorem engineOpDone (q : QuadId) : Statement (.engineOpDone q) := of_event _ rfl rfl
theorem swap (core : CoreId) : Statement (.swap core) := of_event _ rfl rfl
theorem shadowLoadComplete (core : CoreId) : Statement (.shadowLoadComplete core) := of_event _ rfl rfl
theorem spillComplete (core : CoreId) : Statement (.spillComplete core) := of_event _ rfl rfl
theorem granuleExchange (core : CoreId) (k : Nat) : Statement (.granuleExchange core k) := of_event _ rfl rfl
theorem machineCheck (e : McEvent) : Statement (.machineCheck e) := of_event _ rfl rfl
theorem partitionClear (u : ClearUnit) : Statement (.partitionClear u) := of_event _ rfl rfl
theorem windowStore (at_ : WindowTarget) (data : BitVec 512) (from_ : Option Nat) : Statement (.windowStore at_ data from_) := of_event _ rfl rfl
theorem queueScan (slot : Nat) : Statement (.queueScan slot) := of_event _ rfl rfl
theorem launchDispatch (slot : Nat) : Statement (.launchDispatch slot) := of_event _ rfl rfl
theorem waitPacket (slot : Nat) : Statement (.waitPacket slot) := of_event _ rfl rfl
theorem signalPacket (slot : Nat) : Statement (.signalPacket slot) := of_event _ rfl rfl
theorem queueRegister (slot : Nat) : Statement (.queueRegister slot) := of_event _ rfl rfl
theorem queueDeregister (slot : Nat) : Statement (.queueDeregister slot) := of_event _ rfl rfl
theorem queueReset (slot : Nat) : Statement (.queueReset slot) := of_event _ rfl rfl
theorem queuePriority (slot : Nat) : Statement (.queuePriority slot) := of_event _ rfl rfl
theorem launchComplete (e : LaunchEnd) : Statement (.launchComplete e) := of_event _ rfl rfl
theorem workgroupPlace (p : Placing) : Statement (.workgroupPlace p) := of_event _ rfl rfl
theorem workSteal (x : Steal) : Statement (.workSteal x) := of_event _ rfl rfl
theorem map (epoch : Nat) (record : Nat) : Statement (.map epoch record) := of_event _ rfl rfl
theorem unmap (epoch : Nat) (slot : Nat) : Statement (.unmap epoch slot) := of_event _ rfl rfl
theorem switch (epoch : Nat) (dies : List Nat) (ctxid : BitVec 32) (frame : DWord) (time : DWord) : Statement (.switch epoch dies ctxid frame time) := of_event _ rfl rfl
theorem leaseRenew (k : LeaseKind) : Statement (.leaseRenew k) := of_event _ rfl rfl
theorem leaseTakeover (k : LeaseKind) (holder : Nat) : Statement (.leaseTakeover k holder) := of_event _ rfl rfl
theorem kernelTakeover : Statement (.kernelTakeover) := of_event _ rfl rfl
theorem notificationRead : Statement (.notificationRead) := of_event _ rfl rfl
theorem pcieHostAccess (a : HostAccess) : Statement (.pcieHostAccess a) := of_event _ rfl rfl
theorem apertureConfig (base : Nat) (part : Byte) : Statement (.apertureConfig base part) := of_event _ rfl rfl
theorem ethTransmit (port : Nat) (desc : Nat) (buf : Nat) (len : Nat) : Statement (.ethTransmit port desc buf len) := of_event _ rfl rfl
theorem dtimeExchange (src : TimeSource) (offset : Nat) : Statement (.dtimeExchange src offset) := of_event _ rfl rfl
theorem dtimeSyncLoss : Statement (.dtimeSyncLoss) := of_event _ rfl rfl
theorem packageReset (images : List BootImage) : Statement (.packageReset images) := of_event _ rfl rfl
theorem m7Extend (digest : BitVec 256) : Statement (.m7Extend digest) := of_event _ rfl rfl
theorem attestationRequest (nonce : BitVec 256) : Statement (.attestationRequest nonce) := of_event _ rfl rfl
theorem keyInstall (part : Byte) (keloma : Bool) (wrapped : BitVec 512) : Statement (.keyInstall part keloma wrapped) := of_event _ rfl rfl
theorem lifetimeCounterSave : Statement (.lifetimeCounterSave) := of_event _ rfl rfl
theorem orderlyPowerDown : Statement (.orderlyPowerDown) := of_event _ rfl rfl
theorem thermalThrottle (steps : Nat) : Statement (.thermalThrottle steps) := of_event _ rfl rfl
theorem thermalShutdown : Statement (.thermalShutdown) := of_event _ rfl rfl
theorem writePerformed (k : Nat) : Statement (.writePerformed k) := of_event _ rfl rfl
theorem cacheEviction (e : Evict) : Statement (.cacheEviction e) := of_event _ rfl rfl
theorem operandPhaseEnd (q : QuadId) : Statement (.operandPhaseEnd q) := of_event _ rfl rfl
theorem localCompletion (cmd : Nat) : Statement (.localCompletion cmd) := of_event _ rfl rfl
theorem pcieLinkDown (down : Bool) : Statement (.pcieLinkDown down) := of_event _ rfl rfl
theorem ethFrameReceive (fr : EthFrame) : Statement (.ethFrameReceive fr) := of_event _ rfl rfl
theorem droopEvent (die : Nat) : Statement (.droopEvent die) := of_event _ rfl rfl
theorem powerLoss : Statement (.powerLoss) := of_event _ rfl rfl

end Sys2Proof.Laws.Encoding
end

