-- ==== Sys2Proof/Tests/Slice0.lean ====
section
/-! SUPPORT. Tests: ill-formed terms that the checks refuse, words written out from the encoding tables, results of the spec's own
examples, and for the hypotheses of each statement a state that meets them. -/

namespace Sys2Proof.Tests

open Machine Claims

set_option maxRecDepth 4096

/-! ## Ill-formed terms -/

theorem test_wf_predicate : Fields.wf { plain with a := .p 12 } = false := by decide
theorem test_wf_predicate_last : Fields.wf { plain with b := .p 11 } = true := by decide
theorem test_wf_reserved : Fields.wf { plain with a := .reserved 0x0FF } = false := by decide
theorem test_wf_reserved_raw : Fields.wf { plain with b := .reserved 0x108 } = true := by decide
theorem test_wf_rows :
    ([.qpk { plain with sub := 1 }, .qpkAmax plain, .qsubSub plain, .slinRec plain, .slfxPin plain, .csrw { plain with x := 0x13 },
      .scopetabWrite plain, .tlbiCtx plain, .swcxArm plain, .jtrnHost plain, .scpwL2way plain] : List Instr).map Instr.wf
      = List.replicate 11 false := by decide
theorem test_wf_tile : (Instr.mma ⟨48, 0, 0, 0, .bb, 0⟩).wf = false := by decide
theorem test_wf_tile_last : (Instr.mmz ⟨47, 0, 0, 0, .bb, 0⟩).wf = true := by decide
theorem test_wf_zout : (Instr.zout ⟨0, 0, 0, 5, false, false, 0, false⟩).wf = false ∧ (Instr.zout ⟨0, 0, 0, 0, false, false, 1, false⟩).wf = false ∧
    (Instr.zout ⟨48, 0, 0, 0, false, false, 0, false⟩).wf = false := by decide
theorem test_wf_zin : (Instr.zin ⟨48, 0, 0⟩).wf = false := by decide
theorem test_wf_tsrw : (Instr.tsrw ⟨0, 0, false, 1, 0⟩).wf = false := by decide
theorem test_wf_tadv : (Instr.tadv ⟨0, .row0, true, 0, 1⟩).wf = false ∧ (Instr.tadv ⟨0, .row0, false, 1, 0⟩).wf = false := by decide
theorem test_wf_barr : (Instr.barr 0 0).wf = false ∧ (Instr.barr 0 65).wf = true ∧ (Instr.barr 0 66).wf = false := by decide
theorem test_wf_ybr : (Instr.ybr 1 .always 0).wf = false := by decide
theorem test_wf_mwt : (Instr.mwt (.tile 48 0)).wf = false := by decide

/-! ## Words -/

/-- A word was read as this instruction. -/
def reads (r : Except DecodeError Instr) (i : Instr) : Bool := match r with
  | .ok j => j == i
  | .error _ => false

/-- A word was refused for this reason. -/
def refusedAs (r : Except DecodeError Instr) (e : DecodeError) : Bool := match r with
  | .ok _ => false
  | .error x => x == e

/-- Table 2-15, vector rows: opcode in bits 7:0, guard 15, A and B absent. -/
theorem test_decode_vector : ([ (0xFFFFF000F00, .vadd plain), (0xFFFFF000F01, .vsub plain), (0xFFFFF000F02, .vmul plain),
      (0xFFFFF000F03, .vmulh plain), (0xFFFFF000F04, .vmad plain), (0xFFFFF000F05, .vmin plain),
      (0xFFFFF000F06, .vmax plain), (0xFFFFF000F07, .vlop3 plain), (0xFFFFF000F08, .vshf plain),
      (0xFFFFF000F09, .vbfx plain), (0xFFFFF000F0A, .vbfi plain), (0xFFFFF000F0B, .vbit plain),
      (0xFFFFF000F0C, .vsel plain), (0xFFFFF000F0D, .vcmp plain), (0xFFFFF000F0E, .vdot4 plain),
      (0xFFFFF000F0F, .vprm plain) ] : List (Slot × Instr)).all
    (fun x => reads (decode x.1) x.2) = true := by decide

/-- Table 2-15, float rows: opcode in bits 7:0, guard 15, A and B absent. -/
theorem test_decode_float : ([ (0xFFFFF000F10, .fadd plain), (0xFFFFF000F11, .fmul plain), (0xFFFFF000F12, .ffma plain),
      (0xFFFFF000F13, .fmin plain), (0xFFFFF000F14, .fmax plain), (0xFFFFF000F15, .fcmp plain),
      (0xFFFFF000F16, .fcls plain), (0xFFFFF000F17, .frnd plain), (0xFFFFF000F18, .fscl plain),
      (0xFFFFF000F19, .fsfn plain), (0xFFFFF000F1A, .cvt plain), (0xFFFFF000F1B, .cvtp plain),
      (0xFFFFF000F1C, .qpk plain), (0x1000FFFFF000F1C, .qpkAmax { plain with sub := 1 }), (0xFFFFF000F1D, .qup plain),
      (0xFFFFF000F1E, .vmov plain), (0xFFFFF000F1F, .plop3 plain) ] : List (Slot × Instr)).all
    (fun x => reads (decode x.1) x.2) = true := by decide

/-- Table 2-15, immediate rows: opcode in bits 7:0, guard 15, A and B absent. -/
theorem test_decode_immediate : ([ (0xFFFFF000F20, .vaddi plain), (0xFFFFF000F21, .vmuli plain), (0xFFFFF000F22, .vlopi plain),
      (0xFFFFF000F23, .vshfi plain), (0xFFFFF000F24, .vcmpi plain), (0xFFFFF000F25, .vmovi plain),
      (0xFFFFF000F26, .faddi plain), (0xFFFFF000F27, .fmuli plain), (0xFFFFF000F28, .ffmai plain),
      (0xFFFFF000F29, .fcmpi plain), (0xFFFFF000F2A, .vseli plain), (0xFFFFF000F2B, .vmini plain),
      (0xFFFFF000F2C, .vmaxi plain) ] : List (Slot × Instr)).all
    (fun x => reads (decode x.1) x.2) = true := by decide

/-- Table 2-15, scalar rows: opcode in bits 7:0, guard 15, A and B absent. -/
theorem test_decode_scalar : ([ (0xFFFFF000F40, .sadd plain), (0xFFFFF000F41, .ssub plain), (0xFFFFF000F42, .smul plain),
      (0xFFFFF000F43, .smulh plain), (0xFFFFF000F44, .slop3 plain), (0xFFFFF000F45, .sshf plain),
      (0xFFFFF000F46, .smin plain), (0xFFFFF000F47, .smax plain), (0xFFFFF000F48, .sbfx plain),
      (0xFFFFF000F49, .sbit plain), (0xFFFFF000F4A, .scmp plain), (0xFFFFF000F4B, .ssel plain),
      (0xFFFFF000F4C, .smov plain), (0xFFFFF000F4D, .sadd64 plain), (0xFFFFF000F4E, .slea plain),
      (0xFFFFF000F4F, .sdiv plain), (0xFFFFF000F50, .srds plain), (0xFFFFF000F51, .sfma plain),
      (0xFFFFF000F52, .scvt plain) ] : List (Slot × Instr)).all
    (fun x => reads (decode x.1) x.2) = true := by decide

/-- Table 2-15, control rows: opcode in bits 7:0, guard 15, A and B absent. -/
theorem test_decode_control : ([ (0xFFFFF000F60, .bra plain), (0xFFFFF000F61, .brp plain), (0xFFFFF000F62, .join plain),
      (0xFFFFF000F63, .call plain), (0xFFFFF000F64, .ret plain), (0xFFFFF000F65, .loop plain),
      (0xFFFFF000F67, .nop plain), (0xFFFFF000F68, .exit plain), (0xFFFFF000F69, .trap plain),
      (0xFFFFF000F6A, .sfmt plain), (0xFFFFF000F6B, .waitt plain), (0xFFFFF000F6C, .yld plain),
      (0xFFFFF000F6D, .brx plain) ] : List (Slot × Instr)).all
    (fun x => reads (decode x.1) x.2) = true := by decide

/-- Table 2-15, memory rows: opcode in bits 7:0, guard 15, A and B absent. -/
theorem test_decode_memory : ([ (0xFFFFF000F80, .ld plain), (0xFFFFF000F81, .st plain), (0xFFFFF000F82, .lds plain),
      (0xFFFFF000F83, .sts plain), (0xFFFFF000F84, .ldv plain), (0xFFFFF000F85, .stv plain),
      (0xFFFFF000F86, .sld plain), (0xFFFFF000F87, .sst plain), (0xFFFFF000F88, .ldz plain),
      (0xFFFFF000F89, .stz plain), (0xFFFFF000F8A, .prf plain), (0xFFFFF000F8B, .cctl plain),
      (0xFFFFF000F8C, .dscd plain) ] : List (Slot × Instr)).all
    (fun x => reads (decode x.1) x.2) = true := by decide

/-- Table 2-15, atomic rows: opcode in bits 7:0, guard 15, A and B absent. -/
theorem test_decode_atomic : ([ (0xFFFFF000F8D, .atom plain), (0xFFFFF000F8E, .atoms plain), (0xFFFFF000F8F, .atomv plain),
      (0xFFFFF000F90, .satom plain), (0xFFFFF000F91, .fnc plain), (0xFFFFF000F92, .fwt plain),
      (0xFFFFF000F93, .bar plain), (0xFFFFF000F94, .wtct plain) ] : List (Slot × Instr)).all
    (fun x => reads (decode x.1) x.2) = true := by decide

/-- Table 2-15, cross lane rows: opcode in bits 7:0, guard 15, A and B absent. -/
theorem test_decode_cross_lane : ([ (0xFFFFF000FA0, .nbr plain), (0xFFFFF000FA1, .scan plain), (0xFFFFF000FA2, .red plain),
      (0xFFFFF000FA3, .vote plain), (0xFFFFF000FA4, .bcst plain), (0xFFFFF000FA5, .rgrp plain),
      (0xFFFFF000FA6, .srtk plain) ] : List (Slot × Instr)).all
    (fun x => reads (decode x.1) x.2) = true := by decide

/-- Table 2-15, engine rows: opcode in bits 7:0, guard 15, A and B absent. -/
theorem test_decode_engine : ([ (0xFFFFF000FC0, .qsubCfgl plain), (0x1000FFFFF000FC0, .qsubCfgs { plain with sub := 1 }), (0x2000FFFFF000FC0, .qsubSub { plain with sub := 2 }),
      (0x3000FFFFF000FC0, .qsubDrop { plain with sub := 3 }), (0xFFFFF000FC1, .qret plain), (0xFFFFF000FC2, .cpy plain),
      (0xFFFFF000FC3, .cpyt plain), (0xFFFFF000FC4, .ewt plain), (0xFFFFF000FC8, .xput plain),
      (0xFFFFF000FC9, .xget plain), (0xFFFFF000FCA, .xred plain) ] : List (Slot × Instr)).all
    (fun x => reads (decode x.1) x.2) = true := by decide

/-- Table 2-15, task rows: opcode in bits 7:0, guard 15, A and B absent. -/
theorem test_decode_task : ([ (0xFFFFF000FD0, .tspn plain), (0xFFFFF000FD1, .tsus plain), (0xFFFFF000FD2, .tend plain),
      (0xFFFFF000FD4, .slinSet plain), (0x1000FFFFF000FD4, .slinRec { plain with sub := 1 }), (0x2000FFFFF000FD4, .slinClose { plain with sub := 2 }),
      (0x3000FFFFF000FD4, .slinFree { plain with sub := 3 }), (0xFFFFF000FD5, .slps plain), (0xFFFFF000FD6, .sldp plain),
      (0xFFFFF000FD7, .slfxRd plain), (0x1000FFFFF000FD7, .slfxPin { plain with sub := 1 }), (0x2000FFFFF000FD7, .slfxUnpin { plain with sub := 2 }),
      (0xFFFFF000FD8, .slst plain) ] : List (Slot × Instr)).all
    (fun x => reads (decode x.1) x.2) = true := by decide

/-- Table 2-15, journal rows: opcode in bits 7:0, guard 15, A and B absent. -/
theorem test_decode_journal : ([ (0xFFFFF000FDC, .jtok plain), (0xFFFFF000FDD, .jrte plain), (0xFFFFF000FDE, .jrd plain) ] : List (Slot × Instr)).all
    (fun x => reads (decode x.1) x.2) = true := by decide

/-- Table 2-15, system rows: opcode in bits 7:0, guard 15, A and B absent. -/
theorem test_decode_system : ([ (0xFFFFF000FE0, .kret plain), (0xFFFFF000FE1, .csrr plain), (0xFFFFF000FE2, .csrw plain),
      (0x1300000FFFFF000FE2, .scopetabWrite { plain with x := 0x13 }), (0xFFFFF000FE3, .tlbiPage plain), (0x1000FFFFF000FE3, .tlbiCtx { plain with sub := 1 }),
      (0x2000FFFFF000FE3, .tlbiPart { plain with sub := 2 }), (0x3000FFFFF000FE3, .tlbiAll { plain with sub := 3 }), (0xFFFFF000FE4, .swcxLoad plain),
      (0x1000FFFFF000FE4, .swcxArm { plain with sub := 1 }), (0x2000FFFFF000FE4, .swcxCancel { plain with sub := 2 }), (0xFFFFF000FE5, .engr plain),
      (0xFFFFF000FE6, .fltr plain), (0xFFFFF000FE7, .hlt plain), (0xFFFFF000FE8, .sigt plain) ] : List (Slot × Instr)).all
    (fun x => reads (decode x.1) x.2) = true := by decide

/-- Table 2-15, journal control rows: opcode in bits 7:0, guard 15, A and B absent. -/
theorem test_decode_journal_control : ([ (0xFFFFF000FE9, .jtrnCfg plain), (0x1000FFFFF000FE9, .jtrnHost { plain with sub := 1 }), (0x2000FFFFF000FE9, .jtrnPart { plain with sub := 2 }),
      (0x3000FFFFF000FE9, .jtrnCkpt { plain with sub := 3 }), (0x4000FFFFF000FE9, .jtrnTrunc { plain with sub := 4 }), (0x5000FFFFF000FE9, .jtrnSync { plain with sub := 5 }),
      (0x6000FFFFF000FE9, .jtrnRply { plain with sub := 6 }) ] : List (Slot × Instr)).all
    (fun x => reads (decode x.1) x.2) = true := by decide

/-- Table 2-15, policy rows: opcode in bits 7:0, guard 15, A and B absent. -/
theorem test_decode_policy : ([ (0xFFFFF000FEA, .scpwVault plain), (0x1000FFFFF000FEA, .scpwL2way { plain with sub := 1 }), (0x2000FFFFF000FEA, .scpwPinq { plain with sub := 2 }),
      (0x3000FFFFF000FEA, .scpwSlot { plain with sub := 3 }), (0x4000FFFFF000FEA, .scpwTask { plain with sub := 4 }), (0x5000FFFFF000FEA, .scpwFq { plain with sub := 5 }),
      (0x6000FFFFF000FEA, .scpwFqack { plain with sub := 6 }), (0x7000FFFFF000FEA, .scpwStrict { plain with sub := 7 }), (0x8000FFFFF000FEA, .scpwPeer { plain with sub := 8 }),
      (0x9000FFFFF000FEA, .scpwSpare { plain with sub := 9 }) ] : List (Slot × Instr)).all
    (fun x => reads (decode x.1) x.2) = true := by decide

/-- The trailer (Table 2-9) with N = 1 and its first entry 8. -/
theorem test_decode_trailer : reads (decode 0xFFFFFFFFFFFFFFFE08010F66) (.trl
    { gpr := 15, gng := false, rsv := 0, n := 1, e0 := 8, e1 := 0x1FF, e2 := 0x1FF, e3 := 0x1FF, e4 := 0x1FF, e5 := 0x1FF, e6 := 0x1FF, e7 := 0x1FF }) = true := by
  decide

/-- The words of the tables that the statement WordsDecode holds. -/
theorem test_decode_spelled : spelledWords.all (fun x => reads (decode x.1) x.2) = true := by decide

/-- Tables 2-16 and 9-7: every Burin instruction, each field at a place of its own. -/
theorem test_decode_burin : ([ (0x2D1C50000, .mma ⟨5, 3, 1, 2, .bi, 2⟩), (0x8000001, .mmz ⟨0, 0, 0, 1, .bb, 0⟩), (0x13D1C50002, .zout ⟨5, 3, 1, 2, true, true, 3, true⟩),
      (0x1C50003, .zin ⟨5, 3, 1⟩), (0x1007520004, .tsrw ⟨2, 5, true, 3, 0x10⟩), (0x3620005, .tadv ⟨2, .org2, true, 6, 0⟩), (0x500320005, .tadv ⟨2, .org3, false, 0, 5⟩),
      (0x4120006, .barr 2 65), (0x70007, .bwai 7), (0x8, .ordy),
      (0x310009, .ymov 1 (.reg 3)), (0x1234567801010009, .ymov 1 (.imm 0x12345678)), (0x802310009, .ymov 1 (.load 3 8)),
      (0x432000A, .yadd 2 3 (.reg 4)), (0x91032000A, .yadd 2 3 (.imm 9)), (0xFFFFFFFF0052000B, .ybr 2 .dnz 0xFFFFFFFF),
      (0xC, .bend), (0xD, .mwt .all), (0x145000D, .mwt (.tile 5 1)),
      (0xE, .bnop) ] : List (Slot × Instr)).all
    (fun x => reads (decodeBurin x.1) x.2) = true := by decide

/-- Reserved opcodes and values are refused. -/
theorem test_decode_reserved :
    refusedAs (decode 0x00000FFFFF000F2D) .reservedOpcode = true ∧ refusedAs (decode 0x00000FFFFF000FEB) .reservedOpcode = true ∧
    refusedAs (decode 0x04000FFFFF000FC0) .reservedSub = true ∧ refusedAs (decodeBurin 0x0F) .reservedOpcode = true ∧
    refusedAs (decodeBurin 0x10E) .reservedField = true ∧ refusedAs (decodeBurin 0x300001) .reservedField = true := by decide

/-! ## Results -/

/-- Three live lanes; Vr holds 16 r + lane, Sn holds n, and P0 is set in lanes 0 and 2. The group stands inside a stroke. -/
def base : Group :=
  { Group.initial with
    gid := 1, slot := 1, wait := .ready, live := 7, em := 7, pc := 5
    v := (List.range 16).map fun r => (List.range 96).map fun l => BitVec.ofNat 32 (16 * r + l)
    s := (List.range 60).map (BitVec.ofNat 32 ·)
    p := (5 : Mask) :: List.replicate 11 0
    stroke := some ⟨5, [], 0, [], .none, []⟩ }

/-- The same group with some V registers set in lane 0. -/
def withV (g : Group) (xs : List (Nat × Word)) : Group :=
  xs.foldl (fun g x => { g with v := g.v.set x.1 ((g.v.getD x.1 []).set 0 x.2) }) g

def withS (g : Group) (xs : List (Nat × Word)) : Group := xs.foldl (fun g x => { g with s := g.s.set x.1 x.2 }) g

/-- The machine in which this group issues. -/
def st (g : Group) : State := { State.reset with g := g, nextId := 10 }

/-- The instruction answers a next state with this property. -/
def gives (i : Instr) (s : State) (p : State → Bool) : Bool := match exec i s with
  | .next t => p t
  | _ => false

/-- Two operands in V registers and no C. -/
def vv : Fields := { plain with d := 1, a := .v 2, b := .v 3, ty := .i32, x := 0x3FF }

/-- The example after R122. -/
theorem test_vadd : gives (.vadd vv) (st (withV base [(2, 0x7FFFFFF0), (3, 0x20)])) (fun t => t.g.vget 1 0 == 0x80000010 && t.g.vget 1 1 == 0x52) = true := by
  decide
theorem test_vadd_sat : gives (.vadd { vv with sat := true }) (st (withV base [(2, 0x7FFFFFF0), (3, 0x20)])) (fun t => t.g.vget 1 0 == 0x7FFFFFFF) = true := by
  decide
theorem test_vmulh : gives (.vmulh vv) (st (withV base [(2, 0x7FFFFFF0), (3, 0x20)])) (fun t => t.g.vget 1 0 == 0xF) = true := by decide
theorem test_vadd_i8 : gives (.vadd { vv with ty := .i8, sat := true }) (st (withV base [(2, 0xF0), (3, 0x20)])) (fun t => t.g.vget 1 0 == 0x10) = true := by
  decide
theorem test_vadd_n8 : gives (.vadd { vv with ty := .n8, sat := true }) (st (withV base [(2, 0xF0), (3, 0x20)])) (fun t => t.g.vget 1 0 == 0xFF) = true := by
  decide

/-- The example of R131, lanes 0 and 1. -/
theorem test_vdot4_sat : gives (.vdot4 { vv with ty := .i8, sat := true, sub := 1, x := 6 })
    (st (withV base [(2, 0x7F7F7F7F), (3, 0x7F7F7F7F), (6, 0x7FFF8000)])) (fun t => t.g.vget 1 0 == 0x7FFFFFFF) = true := by decide
theorem test_vdot4_su : gives (.vdot4 { vv with ty := .i8, sub := 1, x := 6 })
    (st (withV base [(2, 0xFFFFFFFF), (3, 0xFF), (6, 0)])) (fun t => t.g.vget 1 0 == 0xFFFFFF01) = true := by decide

/-- VBFX by R125: bits 11:4 of A, sign-extended; and a length of 0. -/
theorem test_vbfx : gives (.vbfx vv) (st (withV base [(2, 0xF80), (3, 0x0804)])) (fun t => t.g.vget 1 0 == 0xFFFFFFF8) = true := by decide
theorem test_vbfx_empty : gives (.vbfx vv) (st (withV base [(2, 0xF80), (3, 0x0004)])) (fun t => t.g.vget 1 0 == 0) = true := by decide
/-- VPRM by R132: source byte 7 spread from its sign, then bytes 4, 1 and 0. -/
theorem test_vprm : gives (.vprm { vv with ty := .n32, x := 6 }) (st (withV base [(2, 0x44332211), (3, 0x88776655), (6, 0x0000F410)]))
    (fun t => t.g.vget 1 0 == 0xFF552211) = true := by decide
/-- VSEL by R128. -/
theorem test_vsel : gives (.vsel { vv with ty := .n32, x := 6 }) (st (withV base [(6, 0)])) (fun t => t.g.vget 1 0 == 48 && t.g.vget 1 1 == 33) = true := by decide
/-- `vmov.n32 v1, p0` turns a predicate into 0 or 1 (R129). -/
theorem test_vmov : gives (.vmov { plain with d := 1, b := .p 0, ty := .n32, x := 0x3FF }) (st base)
    (fun t => t.g.vget 1 0 == 1 && t.g.vget 1 1 == 0 && t.g.vget 1 2 == 1) = true := by decide
/-- VCMP writes only qualifying lanes, here those of P0 (R66, R127). -/
theorem test_vcmp : gives (.vcmp { vv with gpr := 0, d := 4, sub := 2 }) (st { base with p := base.p.set 4 2 }) (fun t => t.g.pget 4 == 7) = true := by decide
/-- FADD: 2^24 + 1 rounds to 2^24 and sets NX (R153). -/
theorem test_fadd : gives (.fadd { vv with ty := .f32 }) (st (withV { base with em := 1 } [(2, 0x4B800000), (3, 0x3F800000)]))
    (fun t => t.g.vget 1 0 == 0x4B800000 && t.g.flags == 0x10) = true := by decide
/-- The example of R150: to bf16 by rounding to odd, then to E4M3. -/
theorem test_cvtp : gives (.cvtp { plain with d := 5, a := .v 1, b := .v 2, ty := .bf16x2, rm := 4, sub := 0x0A, x := 0x3FF })
    (st (withV { base with em := 1 } [(1, 0x3F880008), (2, 0x3F880008)])) (fun t => t.g.vget 5 0 == 0x3F893F89) = true := by decide
theorem test_cvtp_e4m3 : gives (.cvtp { plain with d := 6, a := .v 5, b := .v 5, ty := .e4m3x4, sub := 0x0C, x := 0x3FF })
    (st (withV { base with em := 1 } [(5, 0x3F893F89)])) (fun t => t.g.vget 6 0 == 0x39393939) = true := by decide
/-- The example of R169: QPK packs V0 to V7 against scale code 38 and sets NX and OF. -/
theorem test_qpk : gives (.qpk { plain with d := 8, a := .v 0, b := .int 38, ty := .f32, x := 0x3FF })
    (st (withV { base with em := 1, fmt := 0x20 } [(0, 0x3F000000), (1, 0x3F800000), (2, 0x40800000), (3, 0xBE800000), (4, 0), (5, 0), (6, 0x40000000), (7, 0xC0400000)]))
    (fun t => t.g.vget 8 0 == 0x9757F842 && t.g.flags == 0x14) = true := by decide
/-- A scalar remainder keeps the sign of the dividend and is in flight (R109); a zero divisor takes cause 0x0F. -/
theorem test_sdiv : gives (.sdiv { plain with d := 2, a := .s 4, b := .int 4, ty := .i32, sub := 1, x := 0x3FF }) (st (withS base [(4, 0xFFFFFFF9)]))
    (fun t => t.g.deferred.map (·.writes) == [[.s 2 0xFFFFFFFD []]]) = true := by decide
theorem test_sdiv_zero : gives (.sdiv { plain with d := 2, a := .s 4, b := .int 0, ty := .i32, x := 0x3FF }) (st { base with stroke := none })
    (fun t => t.g.trapState.tcause == 0x0F || t.g.wait == .halted) = true := by decide
/-- A write to S60 sets the execution mask inside LIVE (R47, R79). -/
theorem test_mask : gives (.smov { plain with d := 60, b := .int 13, ty := .n32, x := 0x3FF }) (st base) (fun t => t.g.em == 5) = true := by decide
/-- The trap of chapter 13's example: TVB 0x7F0000000000, slot 5. -/
theorem test_trap :
    let s := st { base with slot := 5, stroke := none }
    let r : CtxRegs := { (s.coreAt ⟨0, 0⟩).regs with tvb := 0x7F0000000000 }
    let t := (({ s with cores := [{ Core.reset ⟨0, 0⟩ with regs := r }] } : State).enterTrap 0x0D 17 (some 9) (some 7))
    t.g.sget 56 = 0x1500 ∧ t.g.sget 57 = 0x7F00 ∧ t.g.pc = (0x7F0000000000 / 64 + 13) * 5 ∧ t.g.trapState.tval = 9 ∧
      t.kretReturn.g.sget 56 = 56 ∧ t.kretReturn.g.pc = 17 := by decide

/-- The digest of "abc", from FIPS 180-4's example. -/
theorem test_sha256_abc : Sha256.digest [0x61, 0x62, 0x63] =
    [0xba, 0x78, 0x16, 0xbf, 0x8f, 0x01, 0xcf, 0xea, 0x41, 0x41, 0x40, 0xde, 0x5d, 0xae, 0x22, 0x23,
     0xb0, 0x03, 0x61, 0xa3, 0x96, 0x17, 0x7a, 0x9c, 0xb4, 0x10, 0xff, 0x61, 0xf2, 0x00, 0x15, 0xad] := by decide +kernel

/-! ## States that meet the hypotheses -/

/-- Whether an instruction issues normally with the qualifying lanes `q`. -/
def issuable (i : Instr) (f : Fields) (once priv : Bool) (s : State) (q : Mask) : Bool :=
  (f.gpr == 15#4 || decide (f.gpr < 12#4)) && s.g.qual f once == q && q != 0 && i.legal && i.legalUnder s.g.launch.vregs s.g.fmt &&
    (!priv || s.g.trapState.mode) && (s.g.marksRead i q).isEmpty

theorem issues_of {i : Instr} {f : Fields} {once priv : Bool} {s : State} {q : Mask} (h : issuable i f once priv s q = true) :
    Issues i f once priv s q := by
  simp only [issuable, Bool.and_eq_true, Bool.or_eq_true, beq_iff_eq, bne_iff_ne, decide_eq_true_eq, Bool.not_eq_true', List.isEmpty_iff] at h
  obtain ⟨⟨⟨⟨⟨⟨h1, h2⟩, h3⟩, h4⟩, h5⟩, h6⟩, h7⟩ := h
  exact ⟨h1, h2, h3, h4, h5, fun hp => h6.resolve_left (by simp [hp]), h7⟩

/-- Fields with which each instruction that acts lane by lane issues. -/
def samples_laneForms : List (Fields × List (Fields → Instr)) :=
  [ ({ plain with a := .v 2, b := .v 4, x := 0x3FF }, [.vadd, .vsub, .vmul, .vmin, .vmax, .vcmp]),
    ({ plain with a := .v 2, b := .v 4, ty := .n32, x := 0x3FF }, [.vmulh, .vshf, .vbfx, .vlopi, .vseli]),
    ({ plain with a := .v 2, b := .v 4, ty := .n32 }, [.vmad, .vlop3, .vbfi, .vsel, .vprm]),
    ({ plain with b := .v 4, ty := .n32, x := 0x3FF }, [.vbit]),
    ({ plain with a := .v 2, b := .v 4 }, [.vdot4]),
    ({ plain with a := .v 2, b := .v 4, ty := .f32, x := 0x3FF }, [.fadd, .fmul, .fmin, .fmax, .fcmp, .fcls, .fscl, .qup, .ffmai]),
    ({ plain with a := .v 2, b := .v 4, ty := .f32 }, [.ffma]),
    ({ plain with b := .v 4, ty := .f32, x := 0x3FF }, [.frnd, .fsfn]),
    ({ plain with b := .v 4, x := 0x3FF }, [.cvt, .vmov]),
    ({ plain with a := .v 2, b := .v 4, ty := .bf16x2, sub := 0xA, x := 0x3FF }, [.cvtp]),
    ({ plain with a := .v 2, b := .v 4, ty := .bf16x2, x := 0x3FF }, [.qpk]),
    ({ plain with a := .v 2, ty := .f32, sub := 0x1, x := 0x3FF }, [.qpkAmax]),
    ({ plain with d := 3, a := .p 1, b := .p 2, sub := 0x30, x := 0x1C0 }, [.plop3]),
    ({ plain with a := .v 2 }, [.vaddi, .vmuli, .vcmpi, .vmini, .vmaxi]),
    ({ plain with a := .v 2, ty := .n32, x := 0x3FF }, [.vshfi, .scan, .red]),
    (plain, [.vmovi]),
    ({ plain with a := .v 2, ty := .f32, x := 0x3FF }, [.faddi, .fmuli, .fcmpi]),
    ({ plain with x := 0x3FF }, [.ld, .st, .lds, .sts, .ldv, .stv, .prf, .cctl]),
    ({ plain with ty := .n32, x := 0x3FF }, [.ldz, .stz]),
    ({ plain with ty := .n32 }, [.atom, .atoms, .atomv]),
    ({ plain with a := .v 2, b := .s 10, ty := .n32, x := 0x3FF }, [.nbr, .bcst]),
    ({ plain with a := .p 1, x := 0x3FF }, [.vote]) ]

theorem test_issues_laneForms : samples_laneForms.all (fun x => x.2.all fun e => issuable (e x.1) x.1 false false (st base) 7) = true ∧
    (samples_laneForms.map (·.2.length)).sum = laneForms.length := by decide

/-- Fields with which each memory and cross-lane instruction that acts once for the group issues, with the lanes of a lane form. -/
def samples_memoryForms : List (Fields × List (Fields → Instr)) :=
  [ ({ plain with x := 0x3FF }, [.sld, .sst, .wtct, .rgrp]),
    ({ plain with a := .s 8, b := .s 10 }, [.dscd]),
    ({ plain with ty := .n32, x := 0x148 }, [.satom]),
    ({ plain with b := .int 2 }, [.fnc]),
    ({ plain with a := .s 8 }, [.fwt]),
    ({ plain with sub := 0x1 }, [.bar]),
    ({ plain with a := .v 2, b := .s 10, ty := .n32, x := 0x148 }, [.srtk]) ]

theorem test_issues_memoryForms : samples_memoryForms.all (fun x => x.2.all fun e => issuable (e x.1) x.1 false false (st base) 7) = true ∧
    (samples_memoryForms.map (·.2.length)).sum = memoryForms.length := by decide

/-- Fields with which each instruction that acts once for the group issues. -/
def samples_groupForms : List (Fields × List (Fields → Instr)) :=
  [ ({ plain with a := .s 8, b := .s 10, ty := .n32, x := 0x3FF }, [.sadd, .ssub, .smul, .smulh, .sshf, .smin, .smax, .sbfx, .scmp, .sadd64, .sdiv]),
    ({ plain with a := .s 8, b := .s 10, ty := .n32, x := 0x148 }, [.slop3, .ssel]),
    ({ plain with b := .s 10, ty := .n32, x := 0x3FF }, [.sbit, .smov]),
    ({ plain with a := .s 8, b := .s 10, x := 0x3FF }, [.slea]),
    ({ plain with x := 0x3FF }, [.srds, .bra, .call, .trap, .yld]),
    ({ plain with a := .s 8, b := .s 10, ty := .f32, x := 0x148 }, [.sfma]),
    ({ plain with b := .s 10, ty := .n32, sub := 0x4, x := 0x3FF }, [.scvt]),
    ({ plain with a := .p 1, x := 0x3FF }, [.brp]),
    (plain, [.ret, .nop, .exit, .qsubCfgl, .cpy, .cpyt, .xput, .xget, .tspn, .tsus, .slinSet, .slps, .sldp, .slfxRd, .jtok]),
    ({ plain with a := .s 8, x := 0x3FF }, [.loop]),
    ({ plain with a := .s 8 }, [.sfmt, .waitt, .qret, .ewt, .jrd]),
    ({ plain with a := .s 8, b := .int 2, x := 0x3FF }, [.brx]),
    ({ plain with sub := 0x1 }, [.qsubCfgs, .tend, .slinRec, .jrte]),
    ({ plain with sub := 0x2 }, [.qsubSub, .slinClose, .slfxUnpin]),
    ({ plain with sub := 0x3 }, [.qsubDrop, .slinFree]),
    ({ plain with ty := .f32 }, [.xred]),
    ({ plain with b := .s 10, sub := 0x1 }, [.slfxPin]),
    ({ plain with b := .s 10 }, [.slst]) ]

theorem test_issues_groupForms : samples_groupForms.all (fun x => x.2.all fun e => issuable (e x.1) x.1 true false (st base) 7) = true ∧
    (samples_groupForms.map (·.2.length)).sum = groupForms.length := by decide

/-- Fields with which each instruction that acts in supervisor mode issues. -/
def samples_systemForms : List (Fields × List (Fields → Instr)) :=
  [ (plain, [.kret, .csrr, .swcxLoad, .fltr, .hlt, .sigt, .scpwVault, .jtrnCfg]),
    ({ plain with a := .s 8 }, [.csrw]),
    ({ plain with a := .s 8, x := 0x13 }, [.scopetabWrite]),
    ({ plain with a := .s 8, b := .s 10, x := 0x3FF }, [.tlbiPage]),
    ({ plain with b := .s 10, sub := 0x1 }, [.tlbiCtx]),
    ({ plain with b := .s 10, sub := 0x2 }, [.tlbiPart]),
    ({ plain with sub := 0x3 }, [.tlbiAll, .scpwSlot, .jtrnCkpt]),
    ({ plain with sub := 0x1 }, [.swcxArm, .scpwL2way, .jtrnHost]),
    ({ plain with sub := 0x2 }, [.swcxCancel, .scpwPinq, .jtrnPart]),
    ({ plain with b := .s 10, x := 0x3FF }, [.engr]),
    ({ plain with sub := 0x4 }, [.scpwTask, .jtrnTrunc]),
    ({ plain with sub := 0x5 }, [.scpwFq, .jtrnSync]),
    ({ plain with sub := 0x6 }, [.scpwFqack, .jtrnRply]),
    ({ plain with sub := 0x7 }, [.scpwStrict]),
    ({ plain with sub := 0x8 }, [.scpwPeer]),
    ({ plain with sub := 0x9 }, [.scpwSpare]) ]

theorem test_issues_systemForms : samples_systemForms.all (fun x => x.2.all fun e => issuable (e x.1) x.1 true true (st { base with trapState := { base.trapState with mode := true } }) 7) = true ∧
    (samples_systemForms.map (·.2.length)).sum = systemForms.length := by decide

/-- A result that was reached has this property. -/
def okAnd {ε α : Type} (r : Except ε α) (p : α → Bool) : Bool := match r with
  | .ok x => p x
  | .error _ => false

theorem okAnd_some {ε α : Type} {r : Except ε α} {p : α → Bool} (h : okAnd r p = true) : ∃ x, r = .ok x ∧ p x = true := by
  cases r with
  | ok x => exact ⟨x, rfl, h⟩
  | error e => cases h

/-- The group in supervisor mode. -/
def sup : Group := { base with trapState := { base.trapState with mode := true } }

theorem base_present : RegistersPresent base := by unfold RegistersPresent; decide
theorem base_live : LanesLive base := by unfold LanesLive; decide
theorem sup_present : RegistersPresent sup := by unfold RegistersPresent; decide
theorem sup_live : LanesLive sup := by unfold LanesLive; decide

/-- A page of the pool that a core's TLB maps at address 0: executable, writable, for both modes; its entry lies at 2^51 with A set. -/
def mapped (s : State) : State :=
  { s with
    cores := [{ Core.reset ⟨0, 0⟩ with tlb := [⟨0, none, 0, 65536, 0x217, 2 ^ 51⟩] }]
    mem := [(2 ^ 51, 0x17)] }

/-! ### Lane, predicate and scalar results -/

theorem test_meets_IntegerLaneResults : RegistersPresent (st base).g ∧ Issues (.vadd vv) vv false false (st base) 7 :=
  ⟨base_present, issues_of (by decide)⟩
theorem test_meets_FloatLaneResults : RegistersPresent (st base).g ∧
    Issues (.fadd { vv with ty := .f32 }) { vv with ty := .f32 } false false (st base) 7 ∧
    Issues (.qup { plain with a := .v 2, b := .v 4, ty := .f32, x := 0x3FF }) { plain with a := .v 2, b := .v 4, ty := .f32, x := 0x3FF } false false (st base) 7 :=
  ⟨base_present, issues_of (by decide), issues_of (by decide)⟩
theorem test_meets_PredicateResults : RegistersPresent (st base).g ∧ Issues (.vcmp vv) vv false false (st base) 7 ∧
    Issues (.plop3 { plain with d := 3, a := .p 1, b := .p 2, sub := 0x30, x := 0x1C0 }) { plain with d := 3, a := .p 1, b := .p 2, sub := 0x30, x := 0x1C0 }
      false false (st base) 7 :=
  ⟨base_present, issues_of (by decide), issues_of (by decide)⟩

def sdivF : Fields := { plain with d := 2, a := .s 4, b := .int 4, ty := .i32, x := 0x3FF }

theorem test_meets_DeferredArithmetic :
    Issues (.fsfn { plain with b := .v 4, ty := .f32, x := 0x3FF }) { plain with b := .v 4, ty := .f32, x := 0x3FF } false false (st base) 7 ∧
    (Issues (.sdiv sdivF) sdivF true false (st base) 7 ∧ extInt sdivF.ty.signed sdivF.ty.width (base.scalB sdivF sdivF.ty) ≠ 0) ∧
    (Issues (.sdiv { sdivF with b := .int 0 }) { sdivF with b := .int 0 } true false (st base) 7 ∧
      extInt sdivF.ty.signed sdivF.ty.width (base.scalB { sdivF with b := .int 0 } sdivF.ty) = 0) :=
  ⟨issues_of (by decide), ⟨issues_of (by decide), by decide⟩, issues_of (by decide), by decide⟩

theorem test_meets_ScalarResults : RegistersPresent (st base).g ∧ LanesLive (st base).g ∧ Issues (.sadd sdivF) sdivF true false (st base) 7 :=
  ⟨base_present, base_live, issues_of (by decide)⟩

theorem test_meets_SelectByLane : RegistersPresent (st base).g ∧ Issues (.vsel { vv with ty := .n32, x := 6 }) { vv with ty := .n32, x := 6 } false false (st base) 7 :=
  ⟨base_present, issues_of (by decide)⟩
theorem test_meets_BitFields : RegistersPresent (st base).g ∧ Issues (.vbfx vv) vv false false (st base) 7 ∧
    Issues (.vbfi { vv with ty := .n32, x := 6 }) { vv with ty := .n32, x := 6 } false false (st base) 7 :=
  ⟨base_present, issues_of (by decide), issues_of (by decide)⟩
theorem test_meets_BytePermutation : RegistersPresent (st base).g ∧
    Issues (.vprm { vv with ty := .n32, x := 6 }) { vv with ty := .n32, x := 6 } false false (st base) 7 :=
  ⟨base_present, issues_of (by decide)⟩

/-! ### Control -/

def srdsF (k : BitVec 8) : Fields := { plain with d := 2, sub := k, x := 0x3FF }

theorem test_meets_SpecialReads : RegistersPresent (st base).g ∧ LanesLive (st base).g ∧ (Issues (.srds (srdsF 12)) (srdsF 12) true false (st base) 7 ∧ (srdsF 12).sub ≠ 13#8) ∧
    (Issues (.srds (srdsF 13)) (srdsF 13) true false (st base) 7 ∧ (srdsF 13).sub = 13#8) :=
  ⟨base_present, base_live, ⟨issues_of (by decide), by decide⟩, issues_of (by decide), rfl⟩

/-- A machine whose pool holds a line of NOPs, with TGT on every slot, at address 0. -/
def code : State :=
  let l : Line := ⟨List.replicate 5 0x0F67, lineWord (List.replicate 5 0x0F67) 0b11111 0⟩
  let s := mapped (st { base with pc := 0, stack := [⟨0, 0, 2, 3, 0, 7⟩] })
  { s with mem := (l.toBytes.zipIdx.filter (·.1 != 0)).map (fun x => (x.2, x.1)) ++ s.mem }

def bra (k : BitVec 32) : Fields := { plain with x := k }
def brpF : Fields := { plain with a := .p 0, x := 4 }
def brxF (n : BitVec 6) : Fields := { plain with a := .s n, b := .int 4, x := 0 }

theorem test_enter : MayEnter code 4 := by unfold MayEnter; decide

theorem test_meets_TransfersIssue :
    (Issues (.bra (bra 4)) (bra 4) true false code 7 ∧ MayEnter code (offsetTarget code (bra 4))) ∧
    (Issues (.call (bra 4)) (bra 4) true false code 7 ∧ (bra 4).sub.getLsbD 2 = false ∧ MayEnter code (offsetTarget code (bra 4)) ∧ State.depth code.g < 1024) ∧
    (Issues (.ret plain) plain true false code 7 ∧ code.g.stack = [⟨0, 0, 2, 3, 0, 7⟩] ∧ MayEnter code 3) := by
  refine ⟨⟨issues_of (by decide), ?_⟩, ⟨issues_of (by decide), rfl, ?_, by decide⟩, issues_of (by decide), rfl, ?_⟩ <;> (unfold MayEnter; decide)

theorem test_meets_JumpsIndirect :
    let s : State := { code with g := withS code.g [(2, 3), (3, 0)] }
    let f : Fields := { plain with a := .s 2, sub := 4 }
    (Issues (.call f) f true false s 7 ∧ f.sub.getLsbD 2 = true ∧ MayEnter s (pairOf s f)) ∧
      (Issues (.brx f) f true false s 7 ∧ MayEnter s (pairOf s f)) := by
  refine ⟨⟨issues_of (by decide), rfl, ?_⟩, issues_of (by decide), ?_⟩ <;> (unfold MayEnter; decide)

/-- BRX with a bound: the index 3 is below the bound 4, and the index 4 meets it. -/
theorem test_meets_JumpsTable :
    (Issues (.brx (brxF 3)) (brxF 3) true false code 7 ∧ code.g.word (brxF 3).a 0 < code.g.word (brxF 3).b 0 ∧
      MayEnter code (offsetTarget code (brxF 3) + ((code.g.word (brxF 3).a 0).setWidth 64 <<< ((brxF 3).sub.extractLsb' 0 2).toNat))) ∧
    (Issues (.brx (brxF 4)) (brxF 4) true false code 7 ∧ code.g.word (brxF 4).b 0 ≤ code.g.word (brxF 4).a 0) := by
  refine ⟨⟨issues_of (by decide), by decide, ?_⟩, issues_of (by decide), by decide⟩
  unfold MayEnter; decide

theorem test_meets_DivergenceIssues :
    (Issues (.brp brpF) brpF true false code 7 ∧ brpF.a = .p 0 ∧ State.depth code.g < 1024 ∧ MayEnter code (offsetTarget code brpF)) ∧
    (let s : State := { code with g := { code.g with stack := [⟨0, 0, 0, 3, 2, 7⟩] } }
     (Instr.join plain).legal = true ∧ s.g.stack = [⟨0, 0, 0, 3, 2, 7⟩] ∧ MayEnter s 3) ∧
    (let s : State := { code with g := { code.g with stack := [⟨0, 0, 1, 3, 0, 7⟩] } }
     (Instr.join plain).legal = true ∧ s.g.stack = [⟨0, 0, 1, 3, 0, 7⟩]) := by
  refine ⟨⟨issues_of (by decide), rfl, by decide, ?_⟩, ⟨by decide, rfl, ?_⟩, by decide, rfl⟩ <;> (unfold MayEnter; decide)

/-- LOOP with a count of 2, which transfers, and of 1, which does not. -/
theorem test_meets_LoopCounts :
    let f (n : BitVec 6) : Fields := { plain with a := .s n, x := 4 }
    RegistersPresent code.g ∧ LanesLive code.g ∧
      (Issues (.loop (f 2)) (f 2) true false code 7 ∧ code.g.sget 2 - 1 ≠ 0 ∧ MayEnter code (offsetTarget code (f 2))) ∧
      (Issues (.loop (f 1)) (f 1) true false code 7 ∧ code.g.sget 1 - 1 = 0) := by
  refine ⟨by unfold RegistersPresent; decide, by unfold LanesLive; decide, ⟨issues_of (by decide), by decide, ?_⟩, issues_of (by decide), by decide⟩
  unfold MayEnter; decide

theorem test_meets_OtherControlIssues :
    (Issues (.exit plain) plain true false (st base) 7 ∧ base.task = none) ∧
    (Issues (.exit { plain with a := .p 0 }) { plain with a := .p 0 } true false (st base) 7 ∧ base.task = none) ∧
    Issues (.trap { plain with x := 5 }) { plain with x := 5 } true false (st base) 7 ∧
    Issues (.yld { plain with x := 65535 }) { plain with x := 65535 } true false (st base) 7 ∧ Issues (.nop plain) plain true false (st base) 7 := by
  refine ⟨⟨issues_of (by decide), rfl⟩, ⟨issues_of (by decide), rfl⟩, issues_of (by decide), issues_of (by decide), issues_of (by decide)⟩

/-- WAITT for time 0, and for time 5, which the core has not reached. -/
theorem test_meets_TimedWait : ([(0, 0), (0, 5)] : List (Word × Word)).all (fun x =>
      let s := st (withS base [(9, x.1), (8, x.2)])
      issuable (.waitt { plain with a := .s 8 }) { plain with a := .s 8 } true false s 7 && (pairOf s { plain with a := .s 8 }).toNat == x.2.toNat) = true ∧
    0 ≤ (st base).localTime ⟨0, 0⟩ ∧ (st base).localTime ⟨0, 0⟩ < 5 :=
  ⟨by decide, Nat.zero_le _, Nat.lt_of_le_of_lt (Nat.sub_le _ _) (by decide)⟩

/-- SFMT at the largest value that R101 allows in each field. -/
theorem test_meets_Sfmt :
    let f : Fields := { plain with sub := 0x80, x := 0x524 }
    Issues (.sfmt f) f true false (st base) 7 ∧ f.x < 0x800#32 ∧ f.x.extractLsb' 0 3 ≤ 4#3 ∧ f.x.extractLsb' 7 2 ≠ 3#2 ∧ f.x.extractLsb' 3 4 ≤ 4#4 := by
  refine ⟨issues_of (by decide), ?_⟩; decide

theorem test_meets_TrailerActs :
    let t (x : Tail) : State := { code with g := { code.g with stroke := some ⟨0, [], 1, [], x, []⟩ } }
    (t .none).stepsOpen (t .none).g = false ∧ State.failedStep (t .none).g = none ∧ (t .none).g.em ≠ 0 ∧ (t .none).g.stack.length < 16 ∧
      ((5 : Mask) &&& (t (.brp 5 2 3)).g.live) ≠ 0 ∧ ((t .ret).g.stack = [⟨0, 0, 2, 3, 0, 7⟩]) ∧ ((7 : Mask) &&& (t .ret).g.live) ≠ 0 := by decide

/-! ### Memory -/

/-- A machine whose page tables map the first gigabyte of virtual addresses to the pool, for reading, writing and fetching. -/
def paged (g : Group) : State := ((st g).putBytes .pool 0 (leBytes 8 0x103001)).putBytes .pool 0x1000 (leBytes 8 0x2037)

theorem paged_canonical : MemoryCanonical (paged base) := by unfold MemoryCanonical; decide
theorem st_canonical : MemoryCanonical (st base) := by unfold MemoryCanonical; decide

/-- Each lane's own word, from a displacement. -/
def ldF (x : BitVec 32) : Fields := { plain with d := 8, b := .v 0, ty := .n32, sub := 2, x := x }

/-- The checks passed, nothing holds the access back, and this fact holds of the locations. -/
def open_ (s : State) (read bypass : Bool) (size : Nat) (p : List (Nat × Loc) → Bool) (locs : List (Nat × Loc)) : Bool :=
  !s.stalls read size (locs.map (·.2)) && !s.missFull (s.missNeed read bypass size locs) && p locs

theorem mayAccess_some {r : Except (List Fail) (List (Nat × Loc))} {s : State} {read bypass : Bool} {size : Nat} {p : List (Nat × Loc) → Bool}
    (h : okAnd r (open_ s read bypass size p) = true) : ∃ locs, r = .ok locs ∧ MayAccess s read bypass size locs ∧ p locs = true := by
  obtain ⟨locs, hr, hp⟩ := okAnd_some h
  simp only [open_, Bool.and_eq_true, Bool.not_eq_true'] at hp
  exact ⟨locs, hr, hp.1, hp.2⟩

theorem test_meets_LoadsIssue :
    (Issues (.ld (ldF 0x4000)) (ldF 0x4000) false false (paged base) 7 ∧
      ∃ locs, (paged base).checkLanes base .virt .load true 4 7 (base.address (ldF 0x4000) true false) = .ok locs ∧
        MayAccess (paged base) true false 4 locs ∧ (locs.length == 3) = true) ∧
    (Issues (.lds (ldF 0)) (ldF 0) false false (st base) 7 ∧
      ∃ locs, (st base).checkLanes base .scr .load true 4 7 (base.address (ldF 0) false false) = .ok locs ∧
        MayAccess (st base) true false 4 locs ∧ (locs.length == 3) = true) :=
  ⟨⟨issues_of (by decide), mayAccess_some (by decide)⟩, issues_of (by decide), mayAccess_some (by decide)⟩

def sldF : Fields := { plain with d := 8, a := .s 0, b := .int 0, ty := .n32, x := 0x4000 }

theorem test_meets_ScalarLoadIssues : Issues (.sld sldF) sldF false false (paged (withS base [(1, 0)])) 7 ∧
    ∃ loc, (paged (withS base [(1, 0)])).checkAccess (withS base [(1, 0)]) .virt .load true 4 ((withS base [(1, 0)]).address sldF true false 0) = .ok loc ∧
      (!(paged (withS base [(1, 0)])).stalls true 4 [loc]) = true :=
  ⟨issues_of (by decide), okAnd_some (by decide)⟩

/-- A word at an odd address, and one past the end of the scratchpad. -/
theorem test_meets_FailedAccessTraps :
    Issues (.lds (ldF 2)) (ldF 2) false false (st base) 7 ∧
    (match (st base).checkLanes base .scr .load true 4 7 (base.address (ldF 2) false false) with
      | .error bad => bad.all (·.code == 0x05) && bad.length == 3
      | .ok _ => false) = true ∧
    (match (st base).checkLanes base .scr .load true 4 7 (base.address (ldF 0x3FFFF8) false false) with
      | .error bad => bad.all (·.code == 0x06) && bad.length == 1
      | .ok _ => false) = true ∧ (2 : Nat) % 4 ≠ 0 ∧
    Issues (.ld (ldF 2)) (ldF 2) false false (st base) 7 ∧ (st base).walksFull base.core = false ∧
    (match (st base).checkLanes base .virt .load true 4 7 (base.address (ldF 2) true false) with
      | .error bad => bad.length == 3
      | .ok _ => false) = true :=
  ⟨issues_of (by decide), by decide, by decide, by decide, issues_of (by decide), by decide, by decide⟩

theorem test_meets_VirtualStoreIssues : Issues (.st (ldF 0x4000)) (ldF 0x4000) false false (paged base) 7 ∧ base.task = none ∧ base.fences = [] ∧
    ∃ locs, (paged base).checkLanes base .virt .store true 4 7 (base.address (ldF 0x4000) true false) = .ok locs ∧
      MayAccess (paged base) false false 4 locs ∧ (locs.all fun x => !x.2.space.isLocal) = true :=
  ⟨issues_of (by decide), rfl, rfl, mayAccess_some (by decide)⟩

theorem st_performs : PerformsAtOnce (st base) := by refine ⟨by decide, by decide, by decide, by decide⟩

/-- Vault 0 belongs to the group's partition. -/
def vaulted (g : Group) : State := { st g with dies := [{ Die.reset 0 with vaults := some 0 :: List.replicate 11 none }] }

theorem test_meets_StoresWrite :
    MemoryCanonical (st base) ∧ PerformsAtOnce (st base) ∧
    (Issues (.sts (ldF 0)) (ldF 0) false false (st base) 7 ∧
      ∃ locs, (st base).checkLanes base .scr .store true 4 7 (base.address (ldF 0) false false) = .ok locs ∧
        MayAccess (st base) false false 4 locs ∧ true = true) ∧
    (Issues (.stz (ldF 0x2FFF00)) (ldF 0x2FFF00) false false (st base) 7 ∧
      ∃ locs, (st base).checkLanes base .acc .store true 4 7 (base.address (ldF 0x2FFF00) false false) = .ok locs ∧
        MayAccess (st base) false false 4 locs ∧ true = true) ∧
    (Issues (.stv (ldF 0)) (ldF 0) false false (vaulted base) 7 ∧ MemoryCanonical (vaulted base) ∧ PerformsAtOnce (vaulted base) ∧
      ∃ locs, (vaulted base).checkLanes base .vlt .store true 4 7 (base.address (ldF 0) false false) = .ok locs ∧
        MayAccess (vaulted base) false false 4 locs ∧ (locs.all fun x => x.2.space == .vlt 0 0) = true) :=
  ⟨st_canonical, st_performs, ⟨issues_of (by decide), mayAccess_some (by decide)⟩, ⟨issues_of (by decide), mayAccess_some (by decide)⟩,
    issues_of (by decide), by unfold MemoryCanonical; decide, ⟨by decide, by decide, by decide, by decide⟩, mayAccess_some (by decide)⟩

/-- The scratchpad form of a scalar access. -/
def sstF : Fields := { plain with d := 8, a := .s 0, b := .int 0, ty := .n32, sub := 0x10, x := 0x40 }

theorem test_meets_ScalarStore :
    (Issues (.sst sldF) sldF false false (paged (withS base [(1, 0)])) 7 ∧ State.scalarSpace sldF = .virt ∧
      ∃ loc, (paged (withS base [(1, 0)])).checkAccess (withS base [(1, 0)]) .virt .store true 4 ((withS base [(1, 0)]).address sldF true false 0) = .ok loc ∧
        (!(paged (withS base [(1, 0)])).stalls false 4 [loc] && !loc.space.isLocal) = true) ∧
    (Issues (.sst sstF) sstF false false (st base) 7 ∧ State.scalarSpace sstF = .scr ∧ base.task = none ∧ MemoryCanonical (st base) ∧
      PerformsAtOnce (st base) ∧
      ∃ loc, (st base).checkAccess base .scr .store true 4 (base.address sstF false false 0) = .ok loc ∧
        (!(st base).stalls false 4 [loc]) = true) :=
  ⟨⟨issues_of (by decide), by decide, okAnd_some (by decide)⟩, issues_of (by decide), by decide, rfl, st_canonical, st_performs, okAnd_some (by decide)⟩

/-- A store of four bytes that waits in the store path. -/
def stored : Pending := ⟨3, ⟨0, 0⟩, 2, .pool, 0x100, 4, .write [1, 2, 3, 4], [], none, none⟩
def storing : State := { st base with stores := [stored] }
/-- The same store, which a journal gate holds. -/
def gated : State := { st base with
  stores := [{ stored with gate := some (0, 1) }]
  streams := [⟨0, 0, 10, 0, 1, 1, 0, 0, [], 0, [], 0, 0, 0, none, none⟩] }

theorem test_meets_AccessesPerformed :
    (MemoryCanonical storing ∧ storing.stores.find? (·.id == 3) = some stored ∧ storing.canPerform stored = true ∧
      stored.effect = .write [1, 2, 3, 4] ∧ storing.tasks = []) ∧
    (gated.stores.find? (·.id == 3)).map gated.canPerform = some false ∧
    (let s := { storing with stores := [{ stored with effect := .rmw 0 .n32 5 0 none }] }
     (s.stores.find? (·.id == 3)).map s.canPerform = some true ∧ (∀ i, i < 4 → s.poisoned .pool (0x100 + i) = false)) := by
  refine ⟨⟨by unfold MemoryCanonical; decide, by decide, by decide, rfl, rfl⟩, by decide, by decide, by decide⟩

/-- A group with one load in flight. -/
def inFlight : Deferred := ⟨4, .load, [8], [.v 8 7 (List.replicate 96 1) []], 0, [], none, 0, []⟩
def loading : Group := { base with deferred := [inFlight] }

theorem test_meets_DeferredResultWrites : (st loading).group? 1 = some loading ∧ loading.deferred.find? (·.id == 4) = some inFlight ∧
    inFlight.waits = [] ∧ inFlight.step = none := by decide

/-- A prefetch of a line, and one of an unaligned address. -/
def prfF (x : BitVec 32) : Fields := { plain with x := x }

theorem test_meets_PrefetchIsAHint :
    (Issues (.prf (prfF 0x4000)) (prfF 0x4000) false false (paged base) 7 ∧ (paged base).poolHeld base (((paged base).prefetches base (prfF 0x4000) 7).map (·.2.off)) = false ∧
      (paged base).walksFull ⟨0, 0⟩ = false ∧ (prfF 0x4000).countCode = 0 ∧
      (paged base).missFull ((paged base).missNeed true false 64 ((paged base).prefetches base (prfF 0x4000) 7)) = false ∧
      ((paged base).prefetches base (prfF 0x4000) 7).length = 3) ∧
    (Issues (.prf (prfF 0x4004)) (prfF 0x4004) false false (paged base) 7 ∧
      ∀ l, ((paged base).g.address (prfF 0x4004) true false l).toNat % 64 ≠ 0) :=
  ⟨⟨issues_of (by decide), by decide, by decide, by decide, by decide, by decide⟩, issues_of (by decide), fun _ => by
    show ((0 : DWord) + 0 + 0x4004).toNat % 64 ≠ 0
    decide⟩

def cctlF (k : BitVec 8) (x : BitVec 32) : Fields := { plain with sub := k <<< 4, x := x }

theorem test_meets_CacheInstructions :
    (Issues (.cctl (cctlF 1 0)) (cctlF 1 0) false false (st base) 7 ∧ (cctlF 1 0).cctlOp = 1) ∧
    (Issues (.cctl (cctlF 3 0x4000)) (cctlF 3 0x4000) false false (paged base) 7 ∧ (cctlF 3 0x4000).cctlOp = 3 ∧ MemoryCanonical (paged base) ∧
      (paged base).poolHeld base ((linesHit (paged base) (cctlF 3 0x4000) 7).map (·.2.off)) = false ∧ (paged base).walksFull ⟨0, 0⟩ = false ∧
      (linesHit (paged base) (cctlF 3 0x4000) 7).length = 3 ∧
      (paged base).missFull ((paged base).missNeed true true 1 (linesHit (paged base) (cctlF 3 0x4000) 7)) = false) ∧
    (Issues (.cctl (cctlF 4 0x4000)) (cctlF 4 0x4000) false false (paged sup) 7 ∧ (cctlF 4 0x4000).cctlOp = 4 ∧ sup.trapState.mode = true ∧
      (linesHit (paged sup) (cctlF 4 0x4000) 7).length = 3 ∧
      (paged sup).missFull ((paged sup).missNeed true true 1 (linesHit (paged sup) (cctlF 4 0x4000) 7)) = false) ∧
    (Issues (.cctl (cctlF 4 0x4000)) (cctlF 4 0x4000) false false (st base) 7 ∧ (cctlF 4 0).cctlOp = 4 ∧ (st base).g.trapState.mode = false) :=
  ⟨⟨issues_of (by decide), by decide⟩,
    ⟨issues_of (by decide), by decide, paged_canonical, by decide, by decide, by decide, by decide⟩,
    ⟨issues_of (by decide), by decide, rfl, by decide, by decide⟩, issues_of (by decide), by decide, rfl⟩

/-- The first gigabyte of virtual addresses lies in the pool's second, apart from the page tables. -/
def pagedAbove (g : Group) : State := ((st g).putBytes .pool 0 (leBytes 8 0x103001)).putBytes .pool 0x1000 (leBytes 8 0x40002037)

/-- Counts of 0 and of 16384 pages, a start that is not on a page, and a range that runs past the page. -/
theorem test_meets_DiscardPages :
    let f : Fields := { plain with a := .s 0, b := .s 3 }
    let g (start n : Word) : Group := withS base [(0, start), (1, 0), (3, n)]
    (Issues (.dscd f) f false false (paged (g 0 0)) 7 ∧ (g 0 0).word f.b 0 = 0) ∧
    (Issues (.dscd f) f false false (paged (g 64 1)) 7 ∧ (g 64 1).word f.b 0 ≠ 0 ∧ ((g 64 1).intOperand true f.a 0).toNat % 65536 ≠ 0) ∧
    (let s := pagedAbove (g 0x10000 1)
     Issues (.dscd f) f false false s 7 ∧ ((s.g.intOperand true f.a 0).toNat % 65536 = 0) ∧ s.walksFull s.g.core = false ∧
      (match foundPages s f with
        | .error _ => true
        | .ok _ => false) = true) ∧
    (let s := pagedAbove (g 0 16384)
     Issues (.dscd f) f false false s 7 ∧ MemoryCanonical s ∧ s.walksFull s.g.core = false ∧ s.g.word f.b 0 ≠ 0 ∧
      okAnd (foundPages s f) (fun ls => ls == [⟨0x40002037, 0x1000, 0, 1073741824⟩] && ls.all fun l => !s.pageHeld s.g l && !s.writesInto l) = true) := by
  refine ⟨⟨issues_of (by decide), by decide⟩, ⟨issues_of (by decide), by decide, by decide⟩,
    ⟨issues_of (by decide), by decide, by decide, by decide⟩, issues_of (by decide), ?_, by decide, by decide, by decide⟩
  unfold MemoryCanonical; decide

/-! ### Atomics, fences, barriers and waits -/

/-- An add that returns the old value, and one that does not. -/
def atomF : Fields := { plain with d := 9, b := .v 0, ty := .n32, sub := 2, x := 6 }
def atomN : Fields := { plain with b := .v 0, ty := .n32, sub := 0x92, x := 6 }

theorem st_fresh : FreshIds (st base) := by unfold FreshIds; decide

theorem test_meets_AtomicsIssue :
    (MemoryCanonical (st base) ∧ PerformsAtOnce (st base) ∧ FreshIds (st base) ∧ ∀ f ∈ [atomF, atomN], issuable (.atoms f) f false false (st base) 7 = true ∧
      okAnd ((st base).checkLanes base .scr .atomic true 4 7 (base.address f false true)) (fun locs => !(st base).stalls false 4 (locs.map (·.2))) = true) ∧
    atomF.atomReturns = true ∧ atomN.atomReturns = false ∧ (∀ sp off, (st base).poisoned sp off = false) ∧
    (base.task = none ∧ ∀ f ∈ [atomF, atomN], issuable (.atomv f) f false false (vaulted base) 7 = true ∧
      okAnd ((vaulted base).checkLanes base .vlt .atomic true 4 7 (base.address f false true))
        (fun locs => !(vaulted base).stalls false 4 (locs.map (·.2)) && locs.all fun x => x.2.space == .vlt 0 0) = true) ∧
    (FreshIds (paged base) ∧ ∀ f ∈ [atomF, atomN], issuable (.atom f) f false false (paged base) 7 = true ∧
      okAnd ((paged base).checkLanes base .virt .atomic (ioAtomicOk f) 4 7 (base.address f true true))
        (fun locs => !(paged base).stalls false 4 (locs.map (·.2)) && locs.all fun x => !x.2.space.isLocal) = true) ∧
    (let f : Fields := { plain with ty := .n32, x := 0x148 }
     Issues (.satom f) f false false (paged base) 7 ∧ base.task = none ∧
      ∃ loc, (paged base).checkAccess base .virt .atomic (ioAtomicOk f) 4 (base.address f true true 0) = .ok loc ∧
        (!(paged base).stalls false 4 [loc] && !loc.space.isLocal) = true) :=
  ⟨⟨st_canonical, st_performs, st_fresh, by decide⟩, by decide, by decide, fun _ _ => rfl, ⟨rfl, by decide⟩, ⟨by unfold FreshIds; decide, by decide⟩,
    issues_of (by decide), rfl, okAnd_some (by decide)⟩

def fncF (scope : BitVec 8) : Fields := { plain with d := 10, b := .int 63, sub := 0x20 ||| scope }
def fwtF : Fields := { plain with a := .s 10 }
def fwtAll : Fields := { plain with sub := 1 }

/-- FNC at scopes 9 and 10, at 16 outstanding fences. -/
theorem test_meets_FencesComplete :
    (Issues (.fnc (fncF 9)) (fncF 9) false false (st base) 7 ∧ (fncF 9).scope < 10 ∧ base.fc - base.fd ≠ 16) ∧
    (Issues (.fnc (fncF 10)) (fncF 10) false false (st base) 7 ∧ 10 ≤ (fncF 10).scope ∧ base.trapState.mode = false) ∧
    (Issues (.fnc (fncF 9)) (fncF 9) false false (st { base with fc := 16 }) 7 ∧ ({ base with fc := 16 } : Group).fc - base.fd = 16) := by
  refine ⟨⟨issues_of (by decide), ?_⟩, ⟨issues_of (by decide), ?_⟩, issues_of (by decide), ?_⟩ <;> decide

/-- FWT of all fences, done and not done; of a token not issued, done, and not done. -/
theorem test_meets_FenceWaits :
    (let done := st base
     let open1 := st { base with fc := 1 }
     issuable (.fwt fwtAll) fwtAll false false done 7 && done.g.fd == done.g.fc && issuable (.fwt fwtAll) fwtAll false false open1 7 && open1.g.fd != open1.g.fc) = true ∧
    ([(9, 0, true, true), (10, 10, false, false), (10, 9, false, true)] : List (Word × Word × Bool × Bool)).all (fun x =>
      let s := st { base with fc := x.1, fd := x.2.1 }
      issuable (.fwt fwtF) fwtF false false s 7 && s.g.word fwtF.a 0 != 0 && (s.g.fc - s.g.word fwtF.a 0).getLsbD 31 == x.2.2.1 &&
        (s.g.fd - s.g.word fwtF.a 0).getLsbD 31 == x.2.2.2) = true := by decide

/-- A fence of group 1 that waits for nothing, one that waits for a store, and no fence. -/
theorem test_meets_FenceComplete :
    (let s := st { base with fences := [⟨1, 2, 2, 63, [], none, false⟩] }
     s.group? 1 = some s.g ∧ ∀ id ∈ ([] : List Nat), ∀ p ∈ s.stores, p.id = id → p.effect = .confirm) ∧
    (let s : State := { storing with g := { base with fences := [⟨1, 2, 2, 63, [3], none, false⟩] } }
     s.group? 1 = some s.g ∧ ∃ p ∈ s.stores, p.id = 3 ∧ p.effect ≠ .confirm) ∧ (st base).group? 1 = some base ∧ base.fences = [] := by
  refine ⟨⟨by decide, by decide⟩, ⟨by decide, ?_⟩, by decide, rfl⟩
  exact ⟨_, List.mem_singleton.mpr rfl, rfl, by decide⟩

def barF (kind scope : BitVec 8) : Fields := { plain with sub := kind <<< 4 ||| scope }
def nbarF (kind : BitVec 8) (n : BitVec 6) : Fields := { plain with a := .int 3, b := if kind = 2 then .absent else .s n, sub := 0x41 ||| kind <<< 4 }
/-- The group after its arrival at the workgroup's barrier. -/
def arrived : Group := { base with bars := base.bars.set 0 ⟨true, 0, [], [], none⟩ }
def barIssues (kind scope : BitVec 8) (s : State) : Bool :=
  issuable (.bar (barF kind scope)) (barF kind scope) false false s 7 && !(barF kind scope).barNumbered && (barF kind scope).scope == scope.toNat &&
    (barF kind scope).syncKind == kind.toNat

/-- BAR at scope 2 outside co-residency; at scope 1 a first arrival, a wait that may pass, and an arrival that waits. -/
theorem test_meets_BarriersComplete :
    (barIssues 1 2 (st base) = true ∧ base.launch.coresident = false) ∧ MayMeet (st base) (barF 1 1) ∧ barIssues 1 1 (st base) = true ∧
    (barAt base 1).arrived = false ∧ (barAt base 1).at_ = none ∧ barIssues 2 1 (st base) = true ∧ Performed (st base) (barAt base 1).release ∧
    barIssues 0 1 (st base) = true := by
  refine ⟨by decide, .inl (by decide), by decide, by decide, by decide, by decide, ?_, by decide⟩
  unfold Performed; decide

/-- A second arrival and a wait at a barrier that is not full, and a wait on a store of an arrival. -/
theorem test_meets_BarrierTwice :
    (let s : State := { st arrived with grps := [{ base with gid := 2, wid := 0 }] }
     barIssues 1 1 s = true ∧ barIssues 2 1 s = true ∧ (barAt s.g 1).arrived = true ∧ (barAt s.g 1).at_ = none ∧ s.barFull s.g 1 = false) ∧
    (let s : State := { storing with g := { base with bars := base.bars.set 0 ⟨false, 1, [], [3], none⟩ } }
     barIssues 2 1 s = true ∧ (barF 2 1).sub.getLsbD 7 = false ∧ ¬ Performed s (barAt s.g 1).release) := by
  refine ⟨by decide, by decide, by decide, ?_⟩
  unfold Performed
  exact fun h => absurd (h 3 (by decide) _ (List.mem_singleton.mpr rfl) rfl) (by decide)

/-- Numbered barriers for 0, 1, 65 and 66 groups, arriving and arriving to wait. -/
theorem test_meets_BarrierCounts :
    ([0, 1, 65, 66] : List Word).all (fun n => [(0 : BitVec 8), 1].all fun k =>
      issuable (.bar (nbarF k 5)) (nbarF k 5) false false (st (withS base [(5, n)])) 7 && (nbarF k 5).barNumbered && (nbarF k 5).syncKind == k.toNat &&
      (withS base [(5, n)]).word (nbarF k 5).b 0 == n && nbarNumber (nbarF k 5) == 3 && (narAt base 3).at_ == none) = true ∧
    (nbarAt (st base) 3).count = 0 := ⟨by decide, by decide⟩

/-- A wait on a numbered barrier whose phase has passed, with nothing outstanding. -/
def passed : State := { st { base with nbars := base.nbars.set 3 ⟨some 0, none⟩ } with
  w := { Workgroup.initial with nbars := Workgroup.initial.nbars.set 3 ⟨0, 0, none, 1, [], [], []⟩ } }
/-- A wait on the phase that is still open. -/
def ahead : State := { passed with g := { passed.g with nbars := passed.g.nbars.set 3 ⟨some 1, none⟩ } }

theorem test_meets_BarrierPassed :
    (issuable (.bar (nbarF 2 0)) (nbarF 2 0) false false passed 7 && issuable (.bar (nbarF 2 0)) (nbarF 2 0) false false ahead 7) = true ∧
    (nbarF 2 0).syncKind = 2 ∧ (nbarAt passed 3).count = 0 ∧ (narAt passed.g 3).phase = some 0 ∧ (nbarAt passed 3).phase = 1 ∧
    (narAt ahead.g 3).phase = some 1 ∧ releaseOf (nbarAt passed 3) 0 = [] := by decide

/-- Every member has arrived; one has not; a numbered barrier has its count, and has none. -/
theorem test_meets_PhasesComplete :
    ((st arrived).group? 1 = some arrived ∧ (st arrived).groups.all (fun x => !State.barMember arrived 1 x || (barAt x 1).arrived) = true ∧
      (st arrived).groups.any (fun x => State.barMember arrived 1 x && (barAt x 1).arrived) = true) ∧
    ((st base).groups.any (fun x => State.barMember base 1 x && x.wait != .ended && !(barAt x 1).arrived) = true) ∧
    (let s : State := { st base with w := { Workgroup.initial with nbars := Workgroup.initial.nbars.set 3 ⟨1, 1, none, 0, [], [], []⟩ } }
     0 < ((s.wgOf 0).nbars.getD 3 noBar).count ∧ ((s.wgOf 0).nbars.getD 3 noBar).count = ((s.wgOf 0).nbars.getD 3 noBar).expect) ∧
    (((st base).wgOf 0).nbars.getD 3 noBar).count = 0 := by decide

def wtctQ : Fields := { plain with d := 20, a := .int 2, sub := 0x10 }
def wtctS : Fields := { plain with d := 20, x := 0x40 }
/-- A machine whose queue 2 stands at WP 256 in some state, and whose S20 and S21 hold a target. -/
def queuedFor (target : Word) (k : QueueState) : State :=
  { st (withS base [(20, target), (21, 0)]) with
    fabric := { Fabric.reset with queues := [{ Queue.initial ⟨0, 0⟩ 0 2 with state := k, wp := 256, rb := 0, ss := 256, ns := 4, err := 0x22 }] } }
def queued (k : QueueState) : State := queuedFor 256 k

/-- Queue 2 at its target and past it, unconfigured and in error; a counter of zero at its target 0 and short of 20. -/
theorem test_meets_CounterWaits :
    ([queued .load, queuedFor 257 .load, st base, queued .error].all fun s => issuable (.wtct wtctQ) wtctQ false false s 7) = true ∧ wtctQ.syncKind = 1 ∧
    ([queued .load, queuedFor 257 .load, st base, queued .error].map fun s => (s.queueOf ⟨0, 0⟩ 0 2).state) = [.load, .load, .unconfigured, .error] ∧
    ([queued .load, queuedFor 257 .load].map fun s => (BitVec.ofNat 64 (s.queueOf ⟨0, 0⟩ 0 2).wp - s.g.sval true 20).getLsbD 63) = [false, true] ∧
    ([(0, false), (20, true)] : List (Word × Bool)).all (fun x =>
      let s := st (withS base [(20, x.1), (21, 0)])
      issuable (.wtct wtctS) wtctS false false s 7 && wtctS.syncKind == 0 && okAnd (s.checkAccess s.g .scr .load true 8 (s.g.address wtctS false false 0)) fun loc =>
        !s.stalls true 8 [loc] && (BitVec.ofNat 64 (leNat (s.viewBytes ⟨0, 0⟩ 1 true (.scr ⟨0, 0⟩) loc.off 8)) - s.g.sval true 20).getLsbD 63 == x.2) = true ∧
    (let f := { wtctS with x := 0x44 }
     issuable (.wtct f) f false false (st base) 7 && !okAnd ((st base).checkAccess base .scr .load true 8 (base.address f false false 0)) fun _ => true) = true := by
  decide

theorem test_meets_WaitsEnd :
    ([.fwt (some 3), .fwt none, .fnc, .ewt 0, .hlt, .yld 1, .waitt 0] : List Wait).all (fun w =>
      (st { base with wait := w }).group? 1 == some { base with wait := w }) = true ∧ base.async = [] := by decide

theorem test_meets_PendingEventsAreTaken :
    (let s : State := { st { base with signal := some 9, stroke := none } with cores := [Core.reset ⟨0, 0⟩] }
     s.g.signal = some 9 ∧ s.g.wait = .ready ∧ s.g.stroke = none ∧ s.g.trapState.tip = false ∧ s.g.async = [] ∧ s.inCore s.g = true) ∧
    (let s : State := { st { base with async := [⟨0x10, 0x22, false⟩], stroke := none } with cores := [Core.reset ⟨0, 0⟩] }
     s.g.async = [⟨0x10, 0x22, false⟩] ∧ s.inCore s.g = true) ∧
    (st base).group? 1 = some base ∧ base.stroke.isSome = true := by decide

/-- A walk of the group's core for page 0, which its scheduler has started. -/
def dueWalk : WalkReq := ⟨.core ⟨0, 0⟩, 0, 0, 0, true, 3, 0, true, true, true, true⟩
def walking : State := { paged base with dies := [{ Die.reset 0 with walks := [dueWalk] }] }

theorem test_meets_FetchWalkEvict : (paged base).group? 1 = some base ∧ (paged base).inCore base = true ∧ MemoryCanonical (paged base) ∧
    (walking.dieAt (walkerDie (.core ⟨0, 0⟩))).walks.find? (WalkDue (.core ⟨0, 0⟩) 0x4000 true) = some dueWalk ∧
    (match walking.engineTranslate ⟨0, 0, 0, 0, 0, []⟩ true (walkKind (.core ⟨0, 0⟩) true) 0 with
      | .ok _ => true
      | .fail .. => false) = true ∧
    ((paged base).dieAt 0).walks.find? (WalkDue (.core ⟨0, 0⟩) 0x4000 true) = none ∧ (paged base).pinned 3 = false := by
  refine ⟨by decide, by decide, paged_canonical, by decide, by decide, by decide, by decide⟩

/-! ### Steps -/

/-- A group that waits for a time, which at zero has passed and which 5 ns after reset has not. -/
theorem test_meets_WaitsComplete : (st { base with wait := .waitt 0 }).group? 1 = some { base with wait := .waitt 0 } ∧
    (0 : Nat) ≤ (st base).localTime ⟨0, 0⟩ ∧ (st { base with wait := .waitt 5 }).group? 1 = some { base with wait := .waitt 5 } ∧
    (st base).localTime ⟨0, 0⟩ < 5 := by
  refine ⟨by decide, Nat.zero_le _, by decide, Nat.lt_of_le_of_lt (Nat.sub_le _ _) (by decide)⟩

/-- A group in HLT with an error, which takes it; one with a signal, which is woken. -/
theorem test_meets_WaitTakesError :
    (let s : State := { st { base with wait := .hlt, async := [⟨0x10, 0x22, false⟩] } with cores := [Core.reset ⟨0, 0⟩] }
     s.g.wait = .hlt ∧ s.g.async = [⟨0x10, 0x22, false⟩] ∧ s.inCore s.g = true) ∧
    ((st { base with wait := .hlt, signal := some 3 }).group? 1 = some { base with wait := .hlt, signal := some 3 }) := by decide

def nbrF : Fields := { plain with d := 1, a := .v 2, b := .int 63, ty := .n32, x := 0x3FF }
def votF (k : BitVec 8) : Fields := { plain with d := 1, a := .p 0, sub := k, x := 0x3FF }

theorem test_meets_GroupCrossLane :
    Issues (.nbr nbrF) nbrF false false (st base) 7 ∧ Issues (.scan { nbrF with b := .absent }) { nbrF with b := .absent } false false (st base) 7 ∧
    Issues (.red { nbrF with b := .absent }) { nbrF with b := .absent } false false (st base) 7 ∧ Issues (.vote (votF 0)) (votF 0) false false (st base) 7 ∧
    Issues (.vote (votF 3)) (votF 3) false false (st base) 7 ∧ Issues (.bcst nbrF) nbrF false false (st base) 7 ∧ nbrF.sub.getLsbD 4 = false :=
  ⟨issues_of (by decide), issues_of (by decide), issues_of (by decide), issues_of (by decide), issues_of (by decide), issues_of (by decide), rfl⟩

/-- The workgroup forms, with the offset 96 that one step may have and 97 that it may not; and a neighbour that has not issued the last step. -/
def far (n : Word) : State := st { withS base [(10, n), (11, 0)] with cstep := 3 }
def late : State := { far 96 with
  w := { Workgroup.initial with members := [1, 2] }, grps := [{ base with gid := 2, cstep := 2 }] }
def wgF : Fields := { nbrF with b := .s 10, sub := 0x10 }
def stepsIssue (s : State) (n : Fields → Fields) : List Bool :=
  [ issuable (.nbr wgF) wgF false false s 7, issuable (.scan (n wgF)) (n wgF) false false s 7, issuable (.red (n wgF)) (n wgF) false false s 7,
    issuable (.vote (votF 0x10)) (votF 0x10) false false s 7 ]

theorem test_meets_StepsIssue :
    stepsIssue (far 96) (fun f => { f with b := .absent }) = List.replicate 4 true ∧ stepsIssue late (fun f => { f with b := .absent }) = List.replicate 4 true ∧
    (far 96).neighboursIssued (far 96).g 3 = true ∧ late.neighboursIssued late.g 3 = false ∧ (far 96).g.nbrOffset wgF = 96 ∧
    (far 0xFFFFFFA0).g.nbrOffset wgF = -96 ∧ (far 97).g.nbrOffset wgF = 97 ∧ issuable (.nbr wgF) wgF false false (far 97) 7 = true ∧
    (far 0xFFFFFF9F).g.nbrOffset wgF = -97 := by decide

def srtF : Fields := { plain with a := .v 2, b := .s 10, ty := .n32, x := 0x148 }

theorem test_meets_Regrouping :
    (issuable (.rgrp { plain with x := 0x3FF }) { plain with x := 0x3FF } false false (far 0) 7 && issuable (.srtk srtF) srtF false false (far 0) 7) = true ∧
      (far 0).neighboursIssued (far 0).g 3 = true ∧ State.depth (far 0).g = 0 ∧ (far 0).g.em = (far 0).g.live ∧ (far 0).g.intOperand true srtF.b 0 >>> (far 0).g.launch.vregs = 0 ∧
      ({ base with em := 3 } : Group).em ≠ base.live ∧ State.depth code.g ≠ 0 := by decide

def redPost : StepPost := ⟨4, 0xA2, 0x10, .n32, 5, 7, 7, List.replicate 96 1, 0, false, 0, 0, 1, 0, [], [], false, false⟩
def redDue : Deferred := ⟨9, .cross, [257], [], 0, [], some 4, 0, []⟩
def summing : State := { st { base with cstep := 4, posts := [redPost], deferred := [redDue] } with
  w := { Workgroup.initial with members := [1] } }

theorem test_meets_StepsRun : (summing.chainGroups 0).map (·.gid) = [1] ∧ summing.g.deferred.find? (·.step == some 4) = some redDue ∧
    State.post? summing.g 4 = some redPost ∧ redPost.d + 1 < 60 ∧ 4 ≤ summing.g.cstep ∧ redPost.failed = false := by decide

def movePost (opc : BitVec 8) : StepPost := ⟨4, opc, 0, .n32, 5, 5, 5, List.replicate 96 1, 0, false, 4, 1, 0, 0, [], [], false, false⟩
def shuffled (opc : BitVec 8) : State :=
  { st { base with cstep := 4, live := 5, em := 5, posts := [movePost opc], stroke := some ⟨5, [], 1, [], .regroup 4, [(4, 5)]⟩ } with
    cores := [Core.reset ⟨0, 0⟩]
    w := { Workgroup.initial with members := [1] } }

theorem test_meets_RegroupMovesThreads : [0xA5#8, 0xA6#8].all (fun opc =>
      (shuffled opc).stepsOpen (shuffled opc).g == false && State.failedStep (shuffled opc).g == none && State.post? (shuffled opc).g 4 == some (movePost opc) &&
        (shuffled opc).settled 4 (shuffled opc).g && State.stepFails (shuffled opc).g 4 == false && (shuffled opc).inCore (shuffled opc).g) = true ∧
    (shuffled 0xA5).g.live ≠ 0 ∧ (shuffled 0xA5).g.em = (shuffled 0xA5).g.live ∧ (shuffled 0xA5).g.deferred = [] := by decide

/-! ### Queues and commands -/

/-- A group whose S20 upwards hold these words. -/
def block (ws : List Word) : Group := withS base (ws.zipIdx.map fun x => (20 + x.2, x.1))
def blockF (sub : BitVec 8) (x : BitVec 32) : Fields := { plain with d := 20, sub := sub, x := x }
def ring : List Word := [0x100, 0x100, 256]

theorem test_meets_QueueConfiguration :
    (issuable (.qsubCfgl (blockF 0 2)) (blockF 0 2) true false (st (block ring)) 7 && issuable (.qsubCfgs (blockF 1 2)) (blockF 1 2) true false (st (block ring)) 7) = true ∧
    (namedQueue (st (block ring)) 2).state = .unconfigured ∧ RingAllowed (st (block ring)) (blockF 0 2) ∧
    ¬RingAllowed (st (block [0x100, 0x100, 257])) (blockF 0 2) ∧ ¬RingAllowed (st (block [0x101, 0x100, 1])) (blockF 0 2) ∧
    (namedQueue (queued .load) 2).state = .load ∧ (namedQueue (queued .error) 2).state = .error := by
  unfold RingAllowed; decide

/-- Subscriptions of 64 bytes and of 0x100000; one of 32. -/
def subscription (n : Word) : State := { queued .load with g := block [0x4000, 0, n, 65536, 64, 0] }
def crowded : State := { subscription 64 with fabric := { Fabric.reset with
  queues := [{ Queue.initial ⟨0, 0⟩ 0 2 with state := .load, subs := List.replicate 8 ⟨0, 64, 1, 64, 0, false⟩ }] } }

theorem test_meets_QueueInstructions :
    issuable (.qsubSub (blockF 2 2)) (blockF 2 2) true false (subscription 64) 7 = true ∧ SubscriptionAllowed (subscription 64) (blockF 2 2) ∧
    SubscriptionAllowed (subscription 0x100000) (blockF 2 2) ∧ ¬SubscriptionAllowed (subscription 32) (blockF 2 2) ∧
    (namedQueue (subscription 64) 2).subs.length < 8 ∧ (namedQueue crowded 2).subs.length = 8 := by
  unfold SubscriptionAllowed; decide

theorem commandFree_of {s : State} (h : (s.openReleases s.g).isEmpty = true ∧ s.stores = []) : CommandFree s :=
  ⟨List.isEmpty_iff.mp h.1, by simp [h.2]⟩

def qretF (n : BitVec 6) : Fields := { plain with a := .s n, x := 2 }

theorem test_meets_QueueRetirement : CommandFree (subscription 64) ∧
    (issuable (.qsubDrop { plain with sub := 3, x := 2 }) { plain with sub := 3, x := 2 } true false (subscription 64) 7 && issuable (.qret (qretF 1)) (qretF 1) true false (queued .load) 7 &&
      issuable (.qret (qretF 0)) (qretF 0) true false (queued .load) 7 && issuable (.qret (qretF 2)) (qretF 2) true false (queued .load) 7) = true ∧
    (namedQueue (queued .load) 2).wp = 256 ∧ (namedQueue (queued .load) 2).gp = 0 ∧ (namedQueue (queued .load) 2).ss = 256 ∧
    (namedQueue (st base) 2).state = .unconfigured :=
  ⟨commandFree_of (by decide), by decide, by decide, by decide, by decide, by decide⟩

/-- A queue with one subscription of the mapped page, at its first sector. -/
def streaming (k : QueueState) : State := { paged base with
  cores := [{ Core.reset ⟨0, 0⟩ with regs := (paged base).regsOf base }]
  fabric := { Fabric.reset with queues :=
    [{ Queue.initial ⟨0, 0⟩ 0 2 with
        state := k, wasLoad := (k == .load), rb := 0, ss := 256, ns := 4, gp := (if k == .load then 0 else 64), send := 64,
        subs := [⟨0x4000, 64, 1, 64, 0, false⟩] }] } }

theorem test_meets_QueueControllersMove :
    [(QueueState.load, AccKind.engineRead), (.store, .engineWrite)].all (fun k =>
      match (streaming k.1).activeQueue ⟨0, 0⟩ 2 0 with
      | some x => x.state == k.1 && x.covering 0 == some ⟨0x4000, 64, 1, 64, 0, false⟩ && x.wp == 0 && decide (64 ≤ x.gp + x.ringBytes) && x.ahead.isEmpty &&
          okAnd ((streaming k.1).engineLoc ((streaming k.1).ctxRegs ⟨0, 0⟩ 0) false k.2 0x4000) (fun l => !(streaming k.1).engineBad l l.off 64)
      | none => false) = true ∧ InCore (streaming .load) ⟨0, 0⟩ 0 ∧ (st base).activeQueue ⟨0, 0⟩ 2 0 = none := by
  refine ⟨by decide, ⟨by decide, by decide⟩, by decide⟩

/-- A store queue whose sector at WP has been taken into the store path and performed. -/
theorem test_meets_SectorStored :
    let x : Queue := { Queue.initial ⟨0, 0⟩ 0 2 with state := .store, rb := 0, ss := 256, ns := 4, gp := 64, send := 64, ahead := [(0, [3])], subs := [⟨0x4000, 64, 1, 64, 0, false⟩] }
    let s : State := { streaming .store with fabric := { Fabric.reset with queues := [x] } }
    s.storedSector ⟨0, 0⟩ 2 0 = some x ∧ x.ahead = [(0, [3])] ∧ x.wp = 0 ∧ s.stores = [] ∧ (streaming .store).storedSector ⟨0, 0⟩ 2 0 = none := by decide

/-- CPY of 4 bytes and of 2^31 between scratchpad and memory; of 2 bytes. -/
def copying (n : Word) : State := st (block [0x40, 0, 0x4000, 0, n, 0x80])
def cpyF : Fields := { plain with d := 20, sub := 1 }
def cpyOk (n : Word) : Bool := let s := copying n
  issuable (.cpy cpyF) cpyF true false s 7 && decide (param s cpyF 4 % 4 = 0 ∧ 4 ≤ param s cpyF 4 ∧ param s cpyF 4 ≤ 2 ^ 31) && s.g.ec == 0 &&
    s.copySideOk ⟨0, 0⟩ 1 (s.g.sval true 20).toNat (min 4 (param s cpyF 4)) && s.copySideOk ⟨0, 0⟩ 0 (s.g.sval true 22).toNat (param s cpyF 4)

theorem test_meets_CommandsIssue : cpyOk 4 = true ∧ cpyOk 2 = false ∧ CounterAllowed (copying 4) 0x80 ∧ CounterAllowed (copying 4) 0xFFFFFFFF ∧
    CommandFree (copying 4) :=
  ⟨by decide, by decide, by unfold CounterAllowed; decide, by unfold CounterAllowed; decide, commandFree_of (by decide)⟩

def fabricF : Fields := { plain with d := 20 }
/-- XPUT and XGET of 16 and of 2^24 bytes to core 1 of this package, and XRED of 1 and of 128 elements. -/
def putting (n : Word) : State := st (block [0, n, 0x8000, 0, 0xFFFFFFFF])
def xredF : Fields := { plain with d := 20, ty := .f32 }
def reducing (n : Word) : State := st (block [0x20003, 0, 0x400, 0x80, 100, 0, n])

theorem test_meets_FabricCommandsIssue :
    (issuable (.xput fabricF) fabricF true false (putting 16) 7 && issuable (.xget fabricF) fabricF true false (putting 16) 7 &&
      issuable (.xput fabricF) fabricF true false (putting 17) 7 && issuable (.xred xredF) xredF true false (reducing 128) 7) = true ∧
    param (putting 16) fabricF 2 % 4096 < (putting 16).podPackages ∧ param (putting 16) fabricF 2 / 32768 % 64 = 1 ∧ param (putting 16) fabricF 2 / 2097152 = 0 ∧
    param (putting 16) fabricF 0 + param (putting 16) fabricF 1 ≤ (putting 16).scratchSize ⟨0, 0⟩ ∧ CounterAllowed (putting 16) 0xFFFFFFFF ∧
    param (reducing 128) xredF 6 = 128 ∧ param (reducing 128) xredF 0 / 65536 % 256 = 2 ∧ param (reducing 128) xredF 1 + 512 ≤ (reducing 128).scratchSize ⟨0, 0⟩ ∧
    param (reducing 128) xredF 2 + 528 ≤ (reducing 128).scratchSize ⟨0, 0⟩ ∧ CounterAllowed (reducing 128) 0x80 ∧ (st { base with ec := 32 }).g.ec = 32 := by
  unfold CounterAllowed; decide

def ewtF : Fields := { plain with a := .int 31 }
theorem test_meets_EngineWait : ([31, 32] : List Nat).all (fun n => issuable (.ewt ewtF) ewtF true false (st { base with ec := n }) 7) = true ∧
    (base.word ewtF.a 0).toNat = 31 := by decide

/-- A command of group 1. -/
def cmd (k : CommandKind) (moved : Bool) : Command := ⟨3, 1, 0, 0, ⟨0, 0⟩, false, 5, k, 0xFFFFFFFF, 0, 0, false, [], none, [], moved⟩
def commanding (c : Command) : State := { paged base with
  cores := [{ Core.reset ⟨0, 0⟩ with regs := (paged base).regsOf base }]
  fabric := { Fabric.reset with commands := [c] } }
def copyIn : Command := cmd (.copy 0x4000 0 0x80 1 512) false
def copyOut : Command := cmd (.copy 0x80 1 0x4000 0 512) false

theorem test_meets_CommandsMove :
    [(copyIn, 0, 0x4000, 1, 0x80), (copyOut, 1, 0x80, 0, 0x4000)].all (fun x => let s := commanding x.1
      s.copyRuns x.1 && s.windowTarget x.1 x.2.2.2.1 x.2.2.2.2 512 == none &&
        okAnd (s.copyLoc x.1 x.2.1 x.2.2.1 128 .engineRead) (fun a => !s.engineBad a a.off 128) &&
        okAnd (s.copyLoc x.1 x.2.2.2.1 x.2.2.2.2 128 .engineWrite) (fun b => b.leaf.isSome == (x.2.2.2.1 == 0))) = true ∧
    unitBytes copyIn 0x4000 0x80 512 = 128 ∧ (commanding copyIn).command? 3 = some copyIn ∧
    (commanding (cmd (.copy 0x4000 0 0x80 1 512) true)).command? 3 = some (cmd (.copy 0x4000 0 0x80 1 512) true) := by decide

def putOne : Command := cmd (.put 0x40 16 0 ⟨0, 0⟩ 0x80 0xFFFFFFFF) false
/-- A packet that arrives at core 0: of a put, or the response to command 3. -/
def packet (response : Bool) : FabricPacket := ⟨0, 0, 0, 0, 0, ⟨0, 0⟩, 0x80, List.replicate 16 1, 0xFFFFFFFF, if response then some 3 else none, response, true⟩
def arriving (x : FabricPacket ⊕ GetRequest) : State := { commanding (cmd (.get 0x40 16 0 ⟨0, 0⟩ 0x80) false) with
  fabric := { (commanding (cmd (.get 0x40 16 0 ⟨0, 0⟩ 0x80) false)).fabric with flight := [⟨0, x, some 3⟩] } }
def request : GetRequest := ⟨0, 0, 0, 0, 0, ⟨0, 0⟩, 0x40, 16, 3, ⟨0, 0⟩, 0x80⟩

theorem test_meets_PacketsMove :
    (commanding putOne).sendBlocked putOne 0 ⟨0, 0⟩ = false ∧ (commanding putOne).scratchBad ⟨0, 0⟩ 0 0x40 16 = false ∧
    ([false, true].all fun r => State.findFlight (.inl (packet r)) [] (arriving (.inl (packet r))).fabric.flight == some (⟨0, .inl (packet r), some 3⟩, [])) = true ∧
    (arriving (.inl (packet false))).fresh? (State.packetFrom (packet false)) = true ∧
    (arriving (.inl (packet false))).fresh? (State.packetFrom { packet false with dinc := 1 }) = false ∧
    (arriving (.inl (packet false))).farOk ⟨0, 0⟩ 0 0 0x80 16 = true ∧
    (arriving (.inl (packet true))).command? 3 = some (cmd (.get 0x40 16 0 ⟨0, 0⟩ 0x80) false) ∧
    State.findFlight (.inr request) [] (arriving (.inr request)).fabric.flight = some (⟨0, .inr request, some 3⟩, []) ∧
    (arriving (.inr request)).fresh? (State.requestFrom request) = true ∧ (arriving (.inr request)).farOk ⟨0, 0⟩ 0 0 0x40 16 = true ∧
    InCore (arriving (.inr request)) ⟨0, 0⟩ 0 := by
  unfold InCore; decide

/-- A contribution of a package: of this one, for its command 3, or of another; a slot with a round of two or three. -/
def contribution (pkg : BitVec 12) (index : Nat) : Contribution := ⟨⟨pkg, 0, 0⟩, 3, 0, index, 1, 100, 0, true, 1, [0, 0, 0, 0], 3⟩
def slot3 : RedSlot := ⟨3, 0, 0, true, 1, 3, 1, true, 1, 100, [contribution 0 0], 0, 0, 0⟩
def rounds (now : Nat) (slot : RedSlot) : State := { st base with dtime := now, fabric := { Fabric.reset with
  slots := [slot]
  commands := [{ cmd (.red 3 1 1 0x40 0x80 100 1 0 true) false with local_ := true, payload := [0, 0, 0, 0] }]
  results := [⟨3, List.replicate 32 1, false⟩] } }
def round3 : RedSlot := { slot3 with expected := 7 }

theorem test_reaches (slot : RedSlot) :
    Claims.Reaches (rounds 99 slot) (contribution 5 1) (rounds 99 slot) ∧
    Claims.Reaches (rounds 99 slot) (contribution 0 1) ((rounds 99 slot).modCommand 3 fun k => { k with moved := true }) :=
  ⟨.inl ⟨(by decide : (5 : Nat) ≠ 0), rfl⟩, .inr ⟨rfl, rfl, _, 0x40, 0x80, rfl, rfl, rfl, rfl, rfl, rfl, rfl⟩⟩

theorem test_meets_Reductions :
    (rounds 99 round3).slotAt 3 = some round3 ∧ Fits round3 (contribution 5 1) ∧ (rounds 99 round3).fresh? (contribution 5 1).from_ = true ∧
    ((1 : BitVec 64) ||| (1 <<< 1)) &&& 7 ≠ 7 ∧ round3.bitmap.getLsbD 0 = true ∧ round3.bitmap.getLsbD 1 = false ∧ (99 : Nat) < round3.deadline ∧
    (rounds 99 { round3 with open_ := false }).slotAt 3 = some { round3 with open_ := false } ∧ (contribution 0 1).from_.spkg.toNat = (st base).pkg ∧
    (rounds 99 round3).fresh? ⟨5, 0, 1⟩ = false ∧
    (rounds 100 round3).slotAt 3 = some round3 ∧ slot3.contribs.map (·.from_.spkg.toNat) = [(st base).pkg] ∧
    (rounds 99 round3).fabric.results[0]? = some ⟨3, List.replicate 32 1, false⟩ ∧
    ((rounds 99 round3).command? 3).map (·.kind) = some (.red 3 1 1 0x40 0x80 100 1 0 true) ∧ InCore (rounds 99 round3) ⟨0, 0⟩ 0 := by
  refine ⟨by decide, ⟨by decide, by decide, by decide⟩, ?_⟩
  unfold InCore; decide

/-- A link with keys, with flits sent that are not acknowledged, and a flit with no segment under its key, authentic or not, in order or not. -/
def linked (u : List TxFlit) (failures : Nat) : State := { st base with fabric := { Fabric.reset with
  links := [⟨2, [some 5, some 6], false, 7, 9, [], u, none, failures, 0, false⟩] } }
def flit (fseq : Nat) (ok : Bool) : Flit := ⟨(BitVec.ofNat 64 (fseq * 2 ^ 32)).setWidth 512, List.replicate 9 0, ok⟩

theorem test_meets_LinksRun :
    Claims.GoodFlit ((linked [] 6).linkAt 2) (flit 7 true) ∧ ¬Claims.GoodFlit ((linked [] 6).linkAt 2) (flit 7 false) ∧
    (flit 7 true).fseq = ((linked [] 6).linkAt 2).rxNext ∧ (flit 8 true).fseq ≠ ((linked [] 6).linkAt 2).rxNext ∧
    (∀ i, i < 9 → (flit 7 true).smap (i + 1) = 0) ∧ ((linked [] 6).linkAt 2).failures + 1 < 8 ∧ 8 ≤ ((linked [] 7).linkAt 2).failures + 1 ∧
    (∀ u ∈ ((linked [⟨8, false, []⟩] 0).linkAt 2).unacked, u.kg = ((linked [⟨8, false, []⟩] 0).linkAt 2).gen) ∧
    (∃ u ∈ ((linked [⟨8, true, []⟩] 0).linkAt 2).unacked, u.kg ≠ false) ∧
    (linked [⟨8, true, []⟩] 0).linkAt 2 = { (linked [] 0).linkAt 2 with unacked := [⟨8, true, []⟩] } := by
  unfold Claims.GoodFlit
  have h : (List.range 9).all (fun i => (flit 7 true).smap (i + 1) == 0) = true := by decide
  exact ⟨by decide, by decide, by decide, by decide, fun i hi => eq_of_beq (List.all_eq_true.1 h i (List.mem_range.2 hi)), by decide, by decide,
    by rintro u (_ | ⟨_, ⟨⟩⟩); rfl, by decide, by decide⟩

/-! ### Tasks, sets and streams -/

/-- A spawn of one lane, of 96, and of 97; a task of a group, with or without a stage batch of two records. -/
def spawning (n : Word) : State := st (block [0, 0, 7, 0, n, 0xFFFFFFFF])
def record (k : Word) : Rec := ⟨k, 9, 0, 3, [], 0⟩
def batch : StageRun := ⟨3, 0, [record 0, record 1], [none, some false], [none, none]⟩
def task (r : Option StageRun) : Task := ⟨4, 0, 0, 3, 0, 2, [], ⟨0, 0⟩, 0xFFFFFFFF, [], r, 0⟩
def tasked (s : State) (r : Option StageRun) : State := { s with g := { s.g with task := some (task r) } }
def tspnF : Fields := { plain with d := 20 }
def tsusF (k : BitVec 8) : Fields := { plain with d := if k = 0 then 0 else 20, sub := k }

theorem test_meets_TasksIssue :
    (issuable (.tspn tspnF) tspnF true false (spawning 1) 7 && issuable (.tspn tspnF) tspnF true false (tasked (spawning 96) none) 7 &&
      issuable (.tspn tspnF) tspnF true false (spawning 97) 7 && issuable (.tspn tspnF) tspnF true false (tasked (spawning 96) (some batch)) 7) = true ∧
    SpawnAllowed (spawning 1) tspnF ∧ SpawnAllowed (tasked (spawning 96) none) tspnF ∧ param (spawning 97) tspnF 4 = 97 ∧
    (unitOf (spawning 1)).spawned.length < 4096 ∧ BufEntry.count (task none).buffer < 128 := by
  unfold SpawnAllowed CounterAllowed; decide

/-- An entry of a task's buffer: a spawn. -/
def spawnEntry : BufEntry := ⟨3, 0, 0, 0, .scr ⟨0, 0⟩, 0, false, [], 0, .n8, 0, [], false, false, none⟩

/-- A spawn buffer of the die with no room, and a task's buffer with none. -/
theorem test_meets_SpawnRoom :
    (let u : TaskUnit := { TaskUnit.initial 0 0 with spawned := List.replicate 4096 ⟨4, 4, 0, 3, ⟨0, 7⟩, 0xFFFFFFFF, 0, [], base.launch, 0, 0⟩ }
     u.spawned.length = 4096) ∧ BufEntry.count (List.replicate 128 spawnEntry) = 128 :=
  ⟨List.length_replicate, by decide⟩

/-- A task that may suspend, with a command outstanding or none, and the same with its stack in use. -/
def suspendable (ec : Nat) (stack : List StackEntry) : State :=
  let s := tasked { code with g := block [0, 0, 0] } none
  { s with g := { s.g with launch := { s.g.launch with vregs := 16 }, pc := 0, ec := ec, stack := stack }
           tasks := [{ TaskUnit.initial 0 0 with areaSlots := 4, contins := [⟨0, 9, 0, 0, 0, false, ⟨0, 0⟩, 0, false⟩] }] }

theorem test_meets_Suspension :
    (issuable (.tsus (tsusF 0)) (tsusF 0) true false (suspendable 0 []) 7 && issuable (.tsus (tsusF 0)) (tsusF 0) true false (suspendable 1 []) 7 &&
      issuable (.tsus (tsusF 1)) (tsusF 1) true false (suspendable 1 []) 7 && issuable (.tsus (tsusF 0)) (tsusF 0) true false (st (block [0, 0, 0])) 7) = true ∧
    MaySuspend (suspendable 1 []) (tsusF 0) ∧ ¬MaySuspend (suspendable 1 [⟨0, 0, 2, 3, 0, 7⟩]) (tsusF 0) ∧ MayEnter (suspendable 1 []) 2 ∧
    (unitOf (suspendable 1 [])).contins.all (·.slot != 1) = true ∧ (unitOf (suspendable 1 [])).contins.any (·.slot == 0) = true ∧
    okAnd ((suspendable 1 []).checkAccess (suspendable 1 []).g .scr .load true 8 ((suspendable 1 []).g.sget 22 |>.setWidth 64))
      (fun loc => !(suspendable 1 []).stalls true 8 [loc]) = true ∧
    ((0 : DWord) - (suspendable 1 []).g.sval true 20).getLsbD 63 = false := by
  unfold MaySuspend MayEnter; decide

def tendF : Fields := { plain with sub := 1 }

/-- TEND where the buffer may be committed, and where the side-effect area of the set is too small. -/
def overflowing : State :=
  let s := tasked (st base) (some { batch with outcome := [some true, some true] })
  { s with g := { s.g with task := some { task (some { batch with outcome := [some true, some true] }) with buffer := [spawnEntry] } }
           tasks := [{ TaskUnit.initial 0 0 with sets := [⟨3, ⟨0, 0⟩, [], 1, 96, 1024, 7, 0xFFFFFFFF, 0, 0, 0, 1, 2, false, none, 0, 0, 0, 0, 0, 0, 0, [],
             base.launch, 0⟩] }] }

theorem test_meets_TaskEnd :
    (issuable (.tend tendF) tendF true false (st base) 7 && issuable (.tend tendF) tendF true false (tasked (st base) none) 7 &&
      issuable (.tend tendF) tendF true false (tasked (st { base with ec := 1 }) none) 7 && issuable (.tend tendF) tendF true false overflowing 7) = true ∧
    (tasked (st base) none).commitRoom base (task none) = true ∧ overflowing.areaOverflows overflowing.g = true ∧ overflowing.g.ec = 0 ∧
    State.commitsBad (task none) = false ∧ (overflowing.g.task.map State.commitsBad) = some false := by decide

def spawned : Spawn := ⟨4, 4, 0x100000002, 3, ⟨0, 7⟩, 0xFFFFFFFF, 0, [], { base.launch with vregs := 4, split := (10, 16, 6) }, 0, 0⟩
/-- A die with one spawned task, on which no group runs yet. -/
def dieWith (u : TaskUnit) : State := { code with g := Group.initial, tasks := [u] }
def contin : Contin := ⟨2, 1, 0, 0, 0, false, ⟨0, 0⟩, 0, false⟩

theorem test_meets_TaskUnitMoves :
    (let s := dieWith { TaskUnit.initial 0 0 with spawned := [spawned] }
     s.chooseCore 0 0 spawned.vals [] = some ⟨0, 0⟩ ∧ s.freeSlot ⟨0, 0⟩ 0 = some 0 ∧ (∀ g ∈ s.groups, g.gid < s.nextId) ∧
      ({ s with g := taskGroup ⟨0, 0⟩ 0 false } : State).targetCheck spawned.entry = none) := by decide

theorem test_meets_Continuations :
    (dieWith { TaskUnit.initial 0 0 with contins := [contin] }).tasks = [{ TaskUnit.initial 0 0 with contins := [contin] }] ∧
    ([contin].find? fun x => x.slot == 2 && !x.ready) = some contin ∧
    (st { base with wait := .suspended }).continHolds 0 0 contin = true ∧ (st { base with wait := .suspended, ec := 1 }).continHolds 0 0 contin = false ∧
    (let s := tasked (st { base with stroke := some ⟨5, [], 1, [], .tend 1 true, []⟩ }) none
     s.stepsOpen s.g = false ∧ State.failedStep s.g = none) := by decide

/-- A stage that holds one record, a set from which two records are out, open or closed, and a group that runs its batch. -/
def stage0 : Stage := ⟨0, 0, 1, 1, 4, 2, 0, true, [⟨5, 9, 0, 0, [], 0⟩]⟩
def set3 (closed : Bool) (next : Word) : SlalomSet :=
  ⟨3, ⟨0, 0⟩, [stage0], 1, 96, 1024, 7, 0xFFFFFFFF, 0, 0, 0, 1, next, closed, none, 1024, 0, 1, 1, 0, 2, 0, [], base.launch, 0⟩
def withSet (s : State) (x : SlalomSet) : State := { s with tasks := [{ TaskUnit.initial 0 0 with sets := [x] }] }
def slF (sub : BitVec 8) : Fields := { plain with d := if sub = 0 then 20 else if sub = 1 then 2 else 0, sub := sub, x := 3 }
def slpF : Fields := { plain with a := .p 1 }

/-- A descriptor of one stage: seed 1, no output counter, rings of 128 entries, windows of 1024, 96 records, an age of 1, a weight of 1. -/
def setBytes : List Byte :=
  [1, 0, 0, 0xFFFFFFFF00000000, 0x40000000700, 0x100000060, 0, 0, 0, 0x10000].flatMap (leBytes 8) ++ List.replicate 240 0
def described : State := (paged (block [0x4000, 0])).putBytes .pool 0x4000 setBytes

set_option exponentiation.threshold 4096 in
theorem test_meets_SetInstallation : issuable (.slinSet (slF 0)) (slF 0) true false described 7 = true ∧ setOf? described 3 = none ∧
    (List.range 5).all (fun i => okAnd (described.checkAccess described.g .virt .load true 64 (0x4000 + BitVec.ofNat 64 (64 * i))) (fun loc =>
      !described.stalls true 64 [loc] && loc.off == 0x4000 + 64 * i)) = true := by decide

set_option exponentiation.threshold 4096 in
theorem test_meets_SetDescriptor : (described.setOf described.g 3 (BitVec.ofNat 2560 (leNat setBytes))).isSome = true ∧
    described.setOf described.g 3 0 = none := by decide

theorem test_meets_SlalomInstructions :
    (issuable (.slinRec (slF 1)) (slF 1) true false (withSet (st base) (set3 false 2)) 7 &&
      issuable (.slinRec (slF 1)) (slF 1) true false (tasked (withSet (st base) (set3 false 2)) none) 7 &&
      issuable (.slinRec (slF 1)) (slF 1) true false (withSet (st base) (set3 true 2)) 7 &&
      issuable (.slinClose (slF 2)) (slF 2) true false (withSet (st base) (set3 false 2)) 7 &&
      issuable (.slinFree (slF 3)) (slF 3) true false (withSet (st base) (set3 true 2)) 7 &&
      issuable (.slinFree (slF 3)) (slF 3) true false (withSet (st base) (set3 true 3)) 7) = true ∧
    (set3 true 2).inFlight = 0 ∧ (set3 true 3).inFlight = 1 ∧ setOf? (withSet (st base) (set3 true 2)) 3 = some (set3 true 2) ∧
    setOf? (st base) 3 = none ∧ (set3 false 2).inFlight + (lanesOf (predicatedLanes base (slF 1))).length ≤ (set3 false 2).maxrec ∧
    (set3 false 96).maxrec < (set3 false 96).inFlight + (lanesOf (predicatedLanes base (slF 1))).length := by decide

def pinF : Fields := { plain with b := .s 20, sub := 1, x := 3 }
def unpinF : Fields := { plain with sub := 2, x := 3 }
def slstF (n : BitVec 6) : Fields := { plain with d := 20, b := .int n, x := 3 }

/-- A group of two live lanes, whose records are 0 and 1; record 1 has been dropped. -/
def staged : State := tasked (st { withS base [(20, 0), (21, 0)] with live := 3, em := 3, p := base.p.set 1 1 }) (some batch)

theorem test_meets_StageInstructions :
    (issuable (.slps slpF) slpF true false staged 3 && issuable (.sldp slpF) slpF true false staged 3 && issuable (.slps plain) plain true false staged 3 &&
      issuable (.slfxRd plain) plain true false staged 3 && issuable (.slfxPin pinF) pinF true false (withSet staged (set3 false 2)) 3 &&
      issuable (.slfxUnpin unpinF) unpinF true false (withSet staged (set3 false 2)) 3 &&
      issuable (.slst (slstF 9)) (slstF 9) true false (withSet staged (set3 false 2)) 3 &&
      issuable (.slst (slstF 16)) (slstF 16) true false (withSet staged (set3 false 2)) 3) = true ∧
    predicatedLanes staged.g slpF = 1 ∧ predicatedLanes staged.g plain = 3 ∧ batch.outcome.getD 0 none = none ∧
    batch.outcome.getD 1 none = some false ∧ State.orderOf 1 (staged.g.intOperand true pinF.b 0) = some [0] ∧ State.orderOf 1 1 = none := by decide

/-- A record that has passed: fresh, with its effects committed, and with its output entry written. -/
def finished (commit late out : Option (List Nat)) : Finished := ⟨record 2, true, false, 0, commit, late, out, none, false⟩
def finishing (f : Finished) : State := withSet (paged base) { set3 false 3 with finishing := [f], outbase := 0x8000 }

theorem test_meets_RecordFinish :
    ([finished none none none, finished (some []) (some []) none, finished (some []) (some []) (some [])].all fun f =>
      (finishing f).slalom? 0 0 3 == some { set3 false 3 with finishing := [f], outbase := 0x8000 }) = true ∧
    (set3 false 3).ordered = false ∧ (finished none none none).rec_.entries = [] ∧ (set3 false 3).ocnt = 0xFFFFFFFF ∧
    okAnd ((finishing (finished (some []) (some []) none)).engineLoc ((finishing (finished (some []) (some []) none)).ctxRegs ⟨0, 0⟩ 0) false .engineWrite 0x8020)
      (fun l => !l.emit) = true := by decide

theorem test_meets_SlalomRouterMoves :
    (let s := withSet { st base with dtime := 1 } (set3 false 2)
     s.slalom? 0 0 3 = some (set3 false 2) ∧ (set3 false 2).stages[0]? = some stage0 ∧ (∃ r ∈ stage0.queue, r.since + 1 ≤ s.dtime) ∧
      (set3 false 2).win ≤ (set3 false 2).f) ∧
    (∀ r ∈ stage0.queue, (0 : Nat) < r.since + (set3 false 2).age) ∧ { set3 false 2 with f := 1023 }.f < (set3 false 2).win := by decide

/-- A stream of context 0 with a window of four records, some of them standing, and the words of a token. -/
def stream0 (recs : List JRec) (ja : Nat) : Stream := ⟨0, 0, 2, 0x10000, 4, recs.length, ja, 0, recs, recs.length, recs.map fun _ => 0, 0, 0, 0, none, none⟩
def token : List Word := [1, 2, 3, 0x10004, 5, 6]
def tokened (ws : List Word) (x : List Stream) : State := { st (block ws) with streams := x }
def tokenOf : JRec := tokenRecord (block token) 20
def jtokF : Fields := { plain with d := 20 }
def jrteF : Fields := { plain with d := 20, sub := 1 }
def jrdF : Fields := { plain with d := 24, a := .s 20 }

theorem test_meets_JournalInstructions :
    (issuable (.jtok jtokF) jtokF true false (tokened token [stream0 [] 0]) 7 && issuable (.jrte jrteF) jrteF true false (tokened token [stream0 [] 0]) 7 &&
      issuable (.jtok jtokF) jtokF true false (tokened [1, 2, 3, 0x20004] [stream0 [] 0]) 7 && issuable (.jtok jtokF) jtokF true false (st base) 7 &&
      issuable (.jrd jrdF) jrdF true false (tokened [1, 2, 4] [stream0 [] 0]) 7) = true ∧
    streamOf (tokened token [stream0 [] 0]) 0 = some (stream0 [] 0) ∧ (tokened token [stream0 [] 0]).g.sget 23 >>> 17 = 0 ∧
    (tokened [1, 2, 3, 0x20004] []).g.sget 23 >>> 17 ≠ 0 ∧ [tokenOf].find? (sameKey · tokenOf) = some tokenOf ∧ [0, 1, 2, 3].all (fun y => !sameKey y tokenOf) = true ∧
    2 ^ 2 ≤ (stream0 [0, 1, 2, 3] 0).ji - (stream0 [0, 1, 2, 3] 0).jt ∧ (stream0 [0, 1, 2] 0).ji - 0 < 2 ^ 2 ∧ streamOf (st base) 0 = none := by decide

def jtF (sub : BitVec 8) : Fields := { plain with d := 20, sub := sub }
/-- A supervisor's JTRN, with these words, on these streams. -/
def journaling (ws : List Word) (x : List Stream) : State :=
  { st { block ws with trapState := { base.trapState with mode := true } } with streams := x }
/-- A checkpoint record. -/
def checkpoint : JRec := JRec.build 4 false 0 0 0xFFFFFFFF 0 0 0 0

theorem test_meets_StreamOperations :
    [(Instr.jtrnPart, 2), (.jtrnCkpt, 3), (.jtrnTrunc, 4), (.jtrnSync, 5), (.jtrnRply, 6), (.jtrnCfg, 0)].all (fun e =>
      issuable (e.1 (jtF e.2)) (jtF e.2) true true (journaling [0, 4, 1, 0] [stream0 [0, checkpoint, 2] 2]) 7) = true ∧
    streamOf (journaling [0, 4] [stream0 [0, checkpoint, 2] 2]) 0 = some (stream0 [0, checkpoint, 2] 2) ∧ (st base).partnerOk 4 = true ∧
    JRec.kind ((stream0 [0, checkpoint, 2] 2).recs.getD 1 0) = 4 ∧ JRec.kind ((stream0 [0, checkpoint, 2] 2).recs.getD 0 0) ≠ 4 ∧
    (stream0 [0, 1, 2] 3).ji ≤ (stream0 [0, 1, 2] 3).ja ∧ (stream0 [0, 1, 2] 2).ja < (stream0 [0, 1, 2] 2).ji ∧ (stream0 [] 0).ji = 0 := by decide

/-- JTRN.sync that has captured JI, JTRN.rply that has installed its window, and JTRN.cfg while a replay is under way. -/
theorem test_meets_StreamWaits :
    (let s (c : Option (DWord × Nat)) (recs : List JRec) : State :=
       let t := journaling [0, 4, 1, 0] [stream0 recs recs.length]
       { t with g := { t.g with captured := c } }
     issuable (.jtrnSync (jtF 5)) (jtF 5) true true (s (some (5, 2)) [0, 1]) 7 && (s (some (5, 2)) []).g.pc == 5 &&
      issuable (.jtrnSync (jtF 5)) (jtF 5) true true (s none [0, 1]) 7) = true ∧
    (let s (asker : Option (Nat × DWord)) (recs : List JRec) : State := journaling [0, 4, 1, 0] [{ stream0 recs recs.length with asker := asker }]
     ([s (some (1, 5)) [0], s none [], s none [0], s (some (1, 6)) []].all fun t => issuable (.jtrnRply (jtF 6)) (jtF 6) true true t 7) = true ∧
      (s none []).partnerOk 4 = true ∧ ((s none []).g.gid, (s none []).g.pc) = (1, 5)) ∧
    issuable (.jtrnCfg (jtF 0)) (jtF 0) true true (journaling [0, 0] [{ stream0 [] 0 with replay := some ⟨4, 0, 0, 0⟩ }]) 7 = true := by decide

/-- JTRN.cfg and JTRN.host at the largest ring sizes, with rings that this package homes. -/
theorem test_meets_RingConfiguration :
    let s (n : Word) : State := { journaling [1, n, 0x10000, 0, 0x100] [] with hash := ⟨[], [], []⟩ }
    issuable (.jtrnCfg (jtF 0)) (jtF 0) true true (s 20) 7 = true ∧ issuable (.jtrnHost (jtF 1)) (jtF 1) true true (s 24) 7 = true ∧
      (s 20).ringBaseOk 0x10000 = true ∧ (s 20).partnerOk 0x100 = true ∧ streamOf (s 20) 1 = none := by decide

/-- A stream whose three records have not been sent, or were sent at time 0 of which the last is not acknowledged. -/
def unsent : Stream := { stream0 [0, 1, 2] 0 with sent := 0, sentAt := [] }
def journaled (x : Stream) (now : Nat) : State := { journaling [] [x] with dtime := now }

theorem test_meets_JournalSends :
    (journaled unsent 0).stream? 0 0 = some unsent ∧ unsent.sent + 3 ≤ unsent.ji ∧ unsent.replay = none ∧
    DueAgain (journaled (stream0 [0, 1, 2] 2) 10000) (stream0 [0, 1, 2] 2) 2 ∧
    (∀ i, ¬DueAgain (journaled (stream0 [0, 1, 2] 2) 9999) (stream0 [0, 1, 2] 2) i) := by
  refine ⟨by decide, by decide, by decide, by unfold DueAgain; decide, fun i h => ?_⟩
  have h2 : i = 2 := by
    have := h.1
    have := h.2.1
    simp [stream0] at *
    omega
  subst h2
  exact absurd h.2.2 (by decide)

def ring0 (hosted : List Hosted) : HostRing := ⟨0, 4, 0x20000, hosted⟩
def hosted0 (recs : List JRec) : Hosted := ⟨0, 4, 0, 0, 1, recs⟩
def holding (hosted : List Hosted) : State := { st base with rings := [ring0 hosted] }
def from4 (dinc : BitVec 16) : Stamp := ⟨4, 0, dinc⟩

theorem test_meets_JournalProtocol :
    (journaled (stream0 [0, 1, 2] 2) 0).stream? 0 0 = some (stream0 [0, 1, 2] 2) ∧ (st base).fresh? (from4 0) = true ∧ (st base).fresh? (from4 1) = false ∧
    (stream0 [] 0).partner = (from4 0).spkg.toNat ∧ (stream0 [] 0).partner ≠ (⟨5, 0, 0⟩ : Stamp).spkg.toNat ∧
    (holding []).ringFor 4 0 0 = some (ring0 []) ∧ (holding [hosted0 [1, 2]]).ringFor 4 0 0 = some (ring0 [hosted0 [1, 2]]) ∧
    (1 : Nat) + (hosted0 [1, 2]).recs.length = 3 ∧ (holding [hosted0 [1, 2]]).rings.find? (·.die == 0) = some (ring0 [hosted0 [1, 2]]) ∧
    (holding [hosted0 [1, 2]]).rings.findSome? (fun r => r.hosted.find? fun h => h.isFor 4 0 0) = some (hosted0 [1, 2]) ∧
    (journaled { stream0 [] 0 with replay := some ⟨4, 0, 0, 0⟩ } 0).stream? 0 0 = some { stream0 [] 0 with replay := some ⟨4, 0, 0, 0⟩ } ∧
    (gated.streams.map (·.ja), gated.stores.map (·.gate)) = ([0], [some (0, 1)]) := by decide

/-- Records that arrive at an empty ring, in order and early; a fetch that starts a stream anew and one that goes on; and a replay that has none of
its window yet, some of it, and all. -/
theorem test_meets_Replays :
    (holding []).ringFor 4 0 0 = some (ring0 []) ∧ (3 : Nat) < 5 ∧ (hosted0 [1, 2]).inc = (from4 0).sinc ∧ (hosted0 [1, 2]).first ≤ 2 ∧
    (holding [hosted0 [1, 2]]).rings.findSome? (fun r => r.hosted.find? fun h => h.isFor 4 0 0 && h.inc == 0) = some (hosted0 [1, 2]) ∧
    (let x := { stream0 [] 0 with replay := some ⟨4, 0, 0, 0⟩ }
     x.recs = [] ∧ x.recs.length + [(0 : JRec), 1, 2].length < 2 ^ x.lcap ∧ [(0 : JRec), 1, 2, 3].length = 2 ^ x.lcap ∧
      ({ st base with streams := [x] } : State).stream? 0 0 = some x) ∧
    (let x := { stream0 [0, 1] 2 with replay := some ⟨4, 0, 0, 0⟩ }
     x.recs ≠ [] ∧ x.ji = 2 ∧ x.recs.length + [(2 : JRec)].length < 2 ^ x.lcap ∧ (from4 0).spkg.toNat = 4 ∧
      ({ st base with streams := [x] } : State).stream? 0 0 = some x) ∧ MemoryCanonical (st base) ∧ (st base).fresh? (from4 0) = true := by
  refine ⟨by decide, by decide, by decide, by decide, by decide, by decide, by decide, st_canonical, by decide⟩

/-! ### System instructions -/

def csrF (n : BitVec 32) : Fields := { plain with d := 20, x := n }
def csrwF (n : BitVec 32) : Fields := { plain with d := 20, a := .s 10, x := n }

theorem test_meets_SystemRegisters :
    ([1, 7, 0, 0x13].all (fun n => issuable (.csrr (csrF n)) (csrF n) true true (st sup) 7) &&
      [1, 2, 3, 4, 5, 6, 7].all (fun n => issuable (.csrw (csrwF n)) (csrwF n) true true (st sup) 7) &&
      [0, 0x11].all (fun n => issuable (.csrw (csrwF n)) (csrwF n) true true (st sup) 7) &&
      issuable (.scopetabWrite (csrwF 0x13)) (csrwF 0x13) true true (st sup) 7) = true ∧
    (csrF 7).csrNum ∈ groupCsrs ∧ (csrF 0x13).csrNum ∉ groupCsrs ∧ (csrwF 0x13).csrNum ∈ coreCsrs ∧ sup.deferred = [] ∧
    ((st sup).coreAt ⟨0, 0⟩).regs.ctx = sup.ctx := by decide

def engrF (x : BitVec 32) : Fields := { plain with d := 20, b := .int 1, x := x }

theorem test_meets_TrapReturnAndLog :
    (issuable (.engr (engrF 0)) (engrF 0) true true (st sup) 7 && issuable (.engr (engrF 0x80000000)) (engrF 0x80000000) true true (st sup) 7) = true ∧
    ((engrF 0).x.getLsbD 31 = false) ∧
    (let s : State := { code with g := { code.g with trapState := { base.trapState with mode := true } } }
     issuable (.kret plain) plain true true s 7 = true ∧ s.g.trapState.saved.depth ≤ State.depth s.g ∧
      (match s.translate s.g.core (s.regsOf s.g) s.g.trapState.pmode .fetch (State.lineVa s.g.trapState.tepc) with
        | .ok _ => true
        | .fail .. => false) = true ∧
      State.depth s.g < ({ s.g.trapState.saved with depth := 9 } : Saved).depth) := by decide

def pageF (n : BitVec 32) : Fields := { plain with a := .s 8, b := .s 10, x := n }
def tlbF (k : BitVec 8) : Fields := { plain with b := if k = 3 then .absent else .s 10, sub := k }
/-- A supervisor with an access that a TLBI has to wait for. -/
def draining : State := { storing with g := sup }
/-- The same, where a TLB entry of the group's core spans the location of the access; and a machine with one other package. -/
def spanning : State := { draining with cores := [{ Core.reset ⟨0, 0⟩ with tlb := [⟨0, some 0, 0, 65536, 0x2037, 0x1000⟩] }] }
def befriended : State := { st sup with fabric := { Fabric.reset with peers := [(1, 0)] } }

theorem test_meets_TranslationAndSwapInstructions :
    [st { sup with s := base.s.set 9 0 }, { draining with g := { sup with s := base.s.set 9 0 } }].all (fun s =>
      issuable (.tlbiPage (pageF 1)) (pageF 1) true true s 7 && issuable (.tlbiCtx (tlbF 1)) (tlbF 1) true true s 7 &&
      issuable (.tlbiPart (tlbF 2)) (tlbF 2) true true s 7 && issuable (.tlbiAll (tlbF 3)) (tlbF 3) true true s 7) = true ∧
    PagesAllowed (st { sup with s := base.s.set 9 0 }) (pageF 1) ∧ ¬PagesAllowed (st { sup with s := base.s.set 9 0x80000000 }) (pageF 1) ∧
    Covers draining (tlbF 1) (fun e => e.ctx == some 0) stored ∧ Covers spanning (tlbF 1) (fun e => e.ctx == some 0) stored ∧
    ¬Covers spanning (tlbF 1) (fun e => e.ctx == some 1) stored ∧ stored ∈ spanning.stores ∧ spanning.vuvPeers = [] ∧
    AsksOthers befriended (tlbF 1) ∧ befriended.vuvPeers = [1] ∧ ¬AsksOthers befriended (tlbF 5) ∧ (tlbF 5).sub.getLsbD 2 = true := by
  refine ⟨by decide, by unfold PagesAllowed; decide, by unfold PagesAllowed; decide, ?_, ?_, ?_, List.mem_singleton.mpr rfl, by decide, ?_, by decide, ?_,
    by decide⟩
  · unfold Covers Spans; decide
  · unfold Covers Spans; decide
  · unfold Covers Spans; decide
  · unfold AsksOthers; decide
  · unfold AsksOthers; decide

/-- A TLBI whose answers have come back, after it has waited at its PC; and one that has not waited. -/
theorem test_meets_TlbiWaits :
    (let s := st { sup with captured := some (5, 3) }
     issuable (.tlbiCtx (tlbF 1)) (tlbF 1) true true s 7 = true ∧ s.g.captured = some (s.g.pc, 3)) ∧
    sup.captured.map (·.1) ≠ some sup.pc ∧ issuable (.tlbiCtx (tlbF 1)) (tlbF 1) true true befriended 7 = true := by decide

/-- SWCX on die 0, where each core's shadow bank is idle, loading, or armed. -/
def swapping (load : SwapState) (armed : Option Nat) : State :=
  { st sup with cores := (List.range 48).map fun k => let c := Core.reset ⟨0, k⟩; { c with swap := { c.swap with load := load, armed := armed } } }
def swF (k : BitVec 8) : Fields := { plain with d := if k = 2 then 0 else 20, sub := k }

theorem test_meets_Swaps :
    (issuable (.swcxLoad (swF 0)) (swF 0) true true (swapping .idle none) 7 && issuable (.swcxArm (swF 1)) (swF 1) true true (swapping .loading none) 7 &&
      issuable (.swcxCancel (swF 2)) (swF 2) true true (swapping .loading (some 5)) 7) = true ∧
    ((swapping .idle none).swcxCores (swF 0)).length = 48 ∧
    ((swapping .idle none).swcxCores (swF 0)).all (fun c => ((swapping .idle none).coreAt c).swap.armed == none) = true ∧
    ((swapping .loading (some 5)).swcxCores (swF 2)).all (fun c => ((swapping .loading (some 5)).coreAt c).swap.armed == some 5) = true := by decide

theorem test_meets_SwapTimes (c : CoreId) : (swapping .loading none).localTime c < 5 := by
  simp only [State.localTime, swapping, st, State.reset]
  omega

def fltrF : Fields := { plain with d := 20 }
def replying (w n : Word) : State := st { block [0, w, n] with trapState := sup.trapState }

theorem test_meets_SignalsAndReplies :
    [replying 0 96, replying 0x07100000 1, replying 0x200000 1, replying 0 97].all (fun s => issuable (.fltr fltrF) fltrF true true s 7) = true ∧
    param (replying 0x07100000 1) fltrF 1 / 2 ^ 20 % 16 = 1 ∧ param (replying 0x07100000 1) fltrF 1 / 2 ^ 24 = 7 ∧
    (issuable (.hlt { plain with d := 20 }) { plain with d := 20 } true true (st { sup with signal := some 4 }) 7 &&
      issuable (.hlt { plain with d := 20 }) { plain with d := 20 } true true (st sup) 7) = true ∧
    [replying 0x200000 0, replying 0x400000 0].all (fun s =>
      issuable (.sigt fltrF) fltrF true true { s with g := { s.g with s := (s.g.s.set 20 (s.g.sget 21)).set 21 0 } } 7) = true ∧
    (let s := st { block [0x200000, 0, 5] with trapState := sup.trapState }
     targetOf s fltrF = (⟨0, 0⟩, 1) ∧ (s.groups.find? fun g => g.core == ⟨0, 0⟩ && g.slot == 1 && g.ctx == 0 && State.occupies g) = some s.g) ∧
    (let s := st { block [0x200001, 0, 5] with trapState := sup.trapState }
     param s fltrF 0 % 4096 = 1 ∧ 1 < s.podPackages) := by decide

/-- SIGT to an empty slot of this package, to another package, and to a core that no die has. -/
theorem test_meets_SignalTargets :
    let s (w : Word) : State := st { block [w, 9, 5] with trapState := sup.trapState }
    ([0x400000, 0x200001, 0x180000].all fun w => issuable (.sigt fltrF) fltrF true true (s w) 7) = true ∧
      ((s 0x400000).groups.all fun g => g.ctx != 9) = true ∧ param (s 0x200001) fltrF 0 % 4096 ≠ (s 0).pkg ∧ (targetOf (s 0x180000) fltrF).1.core = 48 := by
  decide

def policy (ws : List Word) : State := st { block ws with trapState := sup.trapState }
def scF (k : BitVec 8) : Fields := { plain with d := 20, sub := k }

theorem test_meets_PolicyWrites :
    [(Instr.scpwVault, 0), (.scpwL2way, 1), (.scpwPinq, 2), (.scpwSlot, 3), (.scpwTask, 4), (.scpwFq, 5), (.scpwFqack, 6), (.scpwStrict, 7), (.scpwPeer, 8),
      (.scpwSpare, 9)].all (fun e => issuable (e.1 (scF e.2)) (scF e.2) true true (policy [255, 1, 9, 0, 4]) 7) = true ∧
    param (policy [255, 4095]) (scF 0) 0 < 256 ∧ param (policy [256, 0]) (scF 0) 0 = 256 ∧ param (policy [0, 14336]) (scF 2) 1 ≤ 14336 ∧
    param (policy [65535]) (scF 3) 0 < 65536 ∧ ((policy [0, 0, 512, 0, 4]).g.sval true 22).toNat % 512 = 0 ∧
    ((policy [4096, 0, 16]).g.sval true 20).toNat % 4096 = 0 ∧ param (policy [2303, 5]) (scF 8) 0 < (policy []).podPackages ∧
    ((policy [47]).coreAt ⟨0, 47⟩).status = .live ∧ ((policy []).dieAt 0).spares = 2 ∧
    (policy [65535, 0xFFFFFFFF]).g.sget 21 = 0xFFFFFFFF ∧ (policy []).fq.waiting = [] ∧ (policy [0]).g.sget 20 = BitVec.ofNat 32 ((policy [0]).fq.cons + 0) := by
  decide

/-- A fenced core that no group runs on, with a spare left. -/
theorem test_meets_SpareTaken :
    let s : State := { policy [5] with cores := [{ Core.reset ⟨0, 5⟩ with status := .fenced }] }
    issuable (.scpwSpare (scF 9)) (scF 9) true true s 7 = true ∧ (s.coreAt ⟨0, 5⟩).status = .fenced ∧ (s.dieAt 0).spares ≠ 0 ∧
      (s.groups.all fun g => g.core != ⟨0, 5⟩) = true := by decide

/-- Each SCPW operation with a parameter that lies outside its range. -/
theorem test_meets_PolicyRefusals :
    256 ≤ param (policy [256]) (scF 0) 0 ∧ 65536 ≤ param (policy [0, 65536]) (scF 1) 1 ∧ 14336 < param (policy [0, 14337]) (scF 2) 1 ∧
    (policy [0, 0, 8]).g.sget (20 + 2) &&& 0xFFFF80F8 ≠ 0 ∧ ((policy [0, 0, 256]).g.sval true 22).toNat % 512 ≠ 0 ∧
    16 < param (policy [0, 0, 17]) (scF 5) 2 ∧ 2 ≤ param (policy [2]) (scF 7) 0 ∧ (policy [2304]).podPackages ≤ param (policy [2304]) (scF 8) 0 ∧
    48 ≤ param (policy [48]) (scF 9) 0 := by decide

/-! ### Contexts -/

def parked : Group := { base with gid := 2, slot := 2, wait := .parked, park := some ⟨7, 1, 0, 5, false, 7, 0x4000, false, [0], [0x4000], none⟩,
                                  trapState := { base.trapState with tip := true } }
def tag7 : FaultTag := ⟨7, 0, 0, .group 2, 1, 0, 0x4000, 0, false⟩
def answered (tags : List FaultTag) : State := { st base with
  grps := [parked], replies := [⟨0, 0, 7, 0, 0, 1⟩], dies := [{ Die.reset 0 with tags := tags }] }

/-- A core whose swap is armed for DTIME 5, with its shadow bank in some state; its contexts 0 and 1 have frames. -/
def armed (load : SwapState) (now : Nat) : State := { st { base with core := ⟨0, 1⟩ } with
  dtime := now
  cores := [{ Core.reset ⟨0, 0⟩ with swap := { (Core.reset ⟨0, 0⟩).swap with
    load := load, armed := some 5, incoming := some ⟨1, 0, 0, 0, 0, []⟩, frame := 0x10000000 } }]
  dies := [{ Die.reset 0 with frames := [(0, 0x20000000), (1, 0x10000000)] }]
  mem := [(0x10000000, 1)] }

theorem test_meets_ContextsMove :
    (answered [tag7]).replies = [⟨0, 0, 7, 0, 0, 1⟩] ∧
    ((answered [tag7]).dieAt 0).tags.find? (fun x => x.tag == 7 && x.ctx == 0) = some tag7 ∧ ((answered [tag7]).group? 2) = some parked ∧
    parked.trapState.tip = true ∧ parked.async = [] ∧ parked.rec_ = none ∧ parked.badSave = false ∧ tag7.answered = false ∧ tag7.npg ≤ tag7.replies + 1 ∧
    ((answered [tag7]).groups.all fun x => x.rec_ != some 2) = true ∧
    ((answered [tag7]).coreAt ⟨0, tag7.core⟩).regs.ctx = tag7.ctx ∧ ((answered []).dieAt 0).tags = [] ∧
    ((armed .loading 9).coreAt ⟨0, 0⟩).swap.armed = some 5 ∧ ((armed .loading 9).coreAt ⟨0, 0⟩).swap.load = .loading ∧
    ((armed .loaded 9).coreAt ⟨0, 0⟩).swap.incoming = some ⟨1, 0, 0, 0, 0, []⟩ ∧ ((armed .loaded 9).dieAt 0).strict = false ∧
    (armed .loading 9).wordAt .pool 0x10000000 4 = 1 ∧ (armed .loading 9).frameState 0x10000000 = 0 ∧
    ((armed .loading 9).coreAt ⟨0, 0⟩).status = .live ∧ ((armed .loading 9).coreAt ⟨0, 0⟩).swap.late = false ∧
    ((armed .loaded 9).groups.all fun g => g.core != ⟨0, 0⟩) = true ∧
    ({ armed .loading 9 with mem := [(0x10000000, 1), (0x10000020, 0x0A), (0x10000021, 0x0D)] } : State).frameSplit 0x10000000 = ⟨10, 16, 6⟩ := by
  decide

theorem test_meets_SwapMoves (c : CoreId) : (armed .loaded 0).localTime c < 5 ∧ 5 ≤ (armed .loaded 9).localTime c := by
  constructor <;> simp only [State.localTime, armed, st, State.reset] <;> omega

/-- The vault cleared, the core fenced, the context spilled and the granule exchanged. -/
def exchanging : State := { armed .idle 9 with
  clears := [.vault 0 3]
  cores := [{ Core.reset ⟨0, 0⟩ with
    split := ⟨10, 16, 6⟩
    swap := { (Core.reset ⟨0, 0⟩).swap with spilling := some 1, exchange := [(false, 63)], outgoing := 1 } }] }

theorem test_meets_ContextsSpill :
    ClearUnit.vault 0 3 ∈ exchanging.clears ∧ (exchanging.coreAt ⟨0, 0⟩).status = .live ∧ (∀ g ∈ exchanging.groups, g.core ≠ ⟨0, 0⟩) ∧
    exchanging.frameOf ⟨0, 0⟩ 1 = some 0x10000000 ∧ (exchanging.errLog ⟨0, 0⟩ 1).entries = [] ∧ (exchanging.queueOf ⟨0, 0⟩ 1 7).subs = [] ∧
    exchanging.stores = [] ∧ exchanging.frameOf (State.burinHome ⟨0, 0⟩) 1 = some 0x10000000 ∧ exchanging.frameSplit 0x10000000 = ⟨0, 0, 0⟩ ∧
    (exchanging.frameSplit 0x20000000).regs ≤ 22 ∧
    (exchanging.coreAt ⟨0, 0⟩).swap.exchange[0]? = some (false, 63) ∧ exchanging.frameOf ⟨0, 0⟩ 0 = some 0x20000000 ∧
    (exchanging.coreAt ⟨0, 0⟩).regs.ctx = 0 ∧ (armed .loading 9).clears = [] ∧ (exchanging.coreAt ⟨0, 0⟩).swap.exchange[1]? = none := by decide

/-! ### The sequencer and its engine -/

set_option exponentiation.threshold 4096

/-- A record of some rows and columns of an element format, in the scratchpad's or the virtual space. -/
def tsr (rows cols elem space base : Nat) : Tsr := BitVec.ofNat 1024
  (base + cols * 2 ^ 128 + rows * 2 ^ 160 + 4096 * 2 ^ 256 + cols * 2 ^ 640 + rows * 2 ^ 656 + elem * 2 ^ 672 + 2 ^ 676 + space * 2 ^ 678)

/-- CPYT with two records of one box at offset 0 of the scratchpad. -/
def copyT : State := (st (block [0, 0xFFFFFFFF])).putBytes (.scr ⟨0, 0⟩) 0 (leBytes 128 (tsr 1 32 0 0 0).toNat ++ leBytes 128 (tsr 1 32 0 0 0).toNat)

theorem test_meets_TensorCopy : issuable (.cpyt fabricF) fabricF true false copyT 7 = true ∧ Tsr.valid (tsr 1 32 0 0 0) = true ∧
    Tsr.is4bit (tsr 1 32 0 0 0) = false ∧ copyT.getScratch ⟨0, 0⟩ 0 0 128 = leBytes 128 (tsr 1 32 0 0 0).toNat ∧
    copyT.getScratch ⟨0, 0⟩ 0 128 128 = leBytes 128 (tsr 1 32 0 0 0).toNat := by decide

/-- Descriptors: a pass of 1 by 128 with 32 and with 2048 inner elements, 129 rows, f32, a window of 128 by 128. -/
def seq0 : Sequencer := ⟨0, 0, List.replicate 16 1, [tsr 1 32 0 0 0, tsr 128 32 0 0 0x8000, tsr 1 2048 0 0 0, tsr 128 2048 0 0 0x8000, tsr 129 32 0 0 0,
  tsr 1 32 4 0 0, tsr 128 128 4 0 0, tsr 1 31 0 0 0], 0, .none, List.replicate 16 none, false, true⟩
def seqState (q : Sequencer) (es : List EngEntry) : State := { paged base with
  w := { Workgroup.initial with cores := [⟨0, 0⟩], members := [1], seq := some q }
  cores := [{ Core.reset ⟨0, 0⟩ with regs := (paged base).regsOf base }]
  engines := [⟨⟨0, 0⟩, es, 8, [], [], [], []⟩] }
def passF (a b : BitVec 3) : PassFields := { zt := 63, zc := 0, da := a, db := b, mode := .bb, pri := 1 }

theorem test_meets_PassExtents : PassExtents (passF 0 1) (dOf seq0 0) (dOf seq0 1) ∧ PassExtents (passF 2 3) (dOf seq0 2) (dOf seq0 3) ∧
    ¬PassExtents (passF 4 1) (dOf seq0 4) (dOf seq0 1) ∧ ¬PassExtents (passF 7 1) (dOf seq0 7) (dOf seq0 1) := by unfold PassExtents; decide
theorem test_meets_PassFormats : PassFormats (passF 0 1) (dOf seq0 0) (dOf seq0 1) ∧ ¬PassFormats (passF 5 1) (dOf seq0 5) (dOf seq0 1) ∧
    PassExtents (passF 5 1) (dOf seq0 5) (dOf seq0 1) := by unfold PassFormats PassExtents; decide

/-- An operation of the sequencer. -/
def entry (age op : Nat) (state : EngState) (done : Bool) : EngEntry :=
  { (st base).newEntry seq0 op 63 0 with age := age, m := 1, n := 1, k := 32, state := state, opsDone := done, tsrA := tsr 1 32 0 0 0, tsrB := tsr 1 32 0 0 0x8000 }

theorem test_meets_MatrixInstructionsPost :
    (seqState seq0 []).w.seq = some seq0 ∧ (seqState seq0 []).w.zcCore 0 = some ⟨0, 0⟩ ∧ (seqState seq0 []).w.zcCore 1 = none ∧ TableRoom (seqState seq0 []) ∧
    ¬TableRoom (seqState seq0 ((List.range 8).map fun k => entry k 0 .running false)) ∧ TileExtents (dOf seq0 6) ∧ ¬TileExtents (dOf seq0 4) ∧
    ¬TileExtents (dOf seq0 2) := by
  refine ⟨rfl, rfl, rfl, by unfold TableRoom; decide, by unfold TableRoom; decide, ?_, ?_, ?_⟩ <;> (unfold TileExtents; decide)

def tsrwF (sp : Bool) (x : BitVec 32) : TsrwFields := ⟨0, 0, sp, 0, x⟩

theorem test_meets_Descriptors :
    let q := { seq0 with y := List.replicate 16 0x4000 }
    let s := seqState q []
    InCore s ⟨0, 0⟩ 0 ∧ addressOf q 0 0 + 128 ≤ (s.coreAt ⟨0, 0⟩).split.scr * 262144 ∧ addressOf q 0 0 % 128 = 0 ∧ addressOf q 0 4 % 128 ≠ 0 ∧
      addressOf q 0 4 % 8 ≠ 0 ∧
      (match s.engineTranslate (s.ctxRegs ⟨0, 0⟩ 0) false .engineRead (addressOf q 0 0) with
        | .ok l => l.apt == 0 && !s.engineBad ⟨l.space, l.phys 0x4000, some l⟩ (l.phys 0x4000) 128
        | .fail .. => false) = true ∧
      (match s.engineTranslate (s.ctxRegs ⟨0, 0⟩ 0) false .engineRead (2 ^ 63) with
        | .ok _ => false
        | .fail c _ => c != 0x08) = true := by
  unfold InCore; decide

/-- A descriptor past the scratchpad, one on a byte in error, and a tile that no core has; a phase whose writes are outstanding. -/
theorem test_meets_DescriptorStops :
    let q := { seq0 with y := List.replicate 16 0x3FFF80 }
    let s : State := { seqState q [] with poison := [(Space.scr ⟨0, 0⟩).key 0x3FFF80] }
    InCore s ⟨0, 0⟩ 0 ∧ addressOf q 0 0x80 % 128 = 0 ∧ (s.coreAt ⟨0, 0⟩).split.scr * 262144 < addressOf q 0 0x80 + 128 ∧
      s.poisoned (.scr ⟨0, 0⟩) (addressOf q 0 0) = true ∧ s.w.zcCore 1 = none ∧
      ¬Performed { storing with w := s.w } (releaseOf ⟨0, 0, none, 1, [], [(0, [3])], []⟩ 0) := by
  refine ⟨by unfold InCore; decide, by decide, by decide, by decide, rfl, fun h => ?_⟩
  exact absurd (h 3 (by decide) stored (List.mem_singleton.mpr rfl) rfl) (by decide)

/-- Barriers: none here, two of three here, a phase that has passed, and one that has not. -/
theorem test_meets_SequencerInstructions :
    seqBar (seqState seq0 []) 3 = noBar ∧ (0 : Nat) < (⟨2, 3, none, 0, [], [], []⟩ : NumBar).count ∧
    (let q := { seq0 with arrivals := seq0.arrivals.set 3 (some 0) }
     let s := seqState q []
     q.arrivals.getD 3 none = some 0 ∧ (seqBar s 3).phase ≤ 0 ∧
      (seqBar { s with w := { s.w with nbars := s.w.nbars.set 3 ⟨0, 0, none, 1, [], [], []⟩ } } 3).phase = 1) ∧
    (∃ e ∈ (seqState seq0 [entry 0 0 .running false]).entriesOf (seqState seq0 [entry 0 0 .running false]).w, e.op ≠ 3 ∧ e.opsDone = false ∧ e.finished = false) ∧
    (seqState seq0 [entry 0 0 .done true]).entriesOf Workgroup.initial = [entry 0 0 .done true] ∧ (entry 0 0 .done true).finished = true := by
  refine ⟨rfl, by decide, by decide, ⟨entry 0 0 .running false, by decide, by decide, by decide, by decide⟩, by decide, by decide⟩

/-- A sequencer whose target is the first slot of the line at 0. -/
theorem test_meets_SequencerBranches :
    let s := { seqState seq0 [] with cores := code.cores, mem := code.mem, l2 := [] }
    (match s.translate ⟨0, 0⟩ (s.ctxRegs ⟨0, 0⟩ 0) false .fetch (State.lineVa (ybrTarget seq0 4)) with
      | .ok l =>
        let line := (s.useLeaf ⟨0, 0⟩ (s.ctxRegs ⟨0, 0⟩ 0) l false).fetchLine ⟨0, 0⟩ l (State.lineVa (ybrTarget seq0 4))
        line.parityOk && line.tgt ((ybrTarget seq0 4).toNat % 5)
      | .fail .. => false) = true ∧ yOf seq0 0 = 1 ∧ yOf { seq0 with y := [0] } 0 = 0 ∧ (yOf { seq0 with y := [-1] } 0).getLsbD 63 = true := by decide

/-- Two eligible operations, a running one, and one that has all of its operands. -/
def engined (es : List EngEntry) : State := seqState seq0 es
def first : EngEntry := { entry 3 0 .eligible false with pri := 1 }
def second : EngEntry := entry 2 0 .eligible false

theorem test_meets_EngineMoves :
    (∀ x ∈ (engined [first, second]).runningEntries ⟨0, 0⟩, x.op = 3) ∧ MayRun (engined [first, second]) first ∧ Before first second ∧
    ((engined [first, second]).engineAt ⟨0, 0⟩).entries = [first, second] ∧ Reading (engined [entry 2 0 .running false]) ⟨0, 0⟩ (entry 2 0 .running false) ∧
    (engined [entry 2 0 .running true]).runningEntries ⟨0, 0⟩ = [entry 2 0 .running true] ∧
    (engined [entry 2 0 .running true]).entryCore (entry 2 0 .running true) = ⟨0, 0⟩ := by
  refine ⟨by decide, ⟨by decide, by decide⟩, ?_, by decide, ?_, by decide, by decide⟩
  · unfold Before; decide
  · unfold Reading; decide

/-- The fetch unit's TLB holds the first gigabyte; it holds nothing; and nothing is mapped. -/
def knowing (es : List EngEntry) : State := { engined es with engines := [⟨⟨0, 0⟩, es, 8, [], [], [], [⟨0, none, 0, 2 ^ 30, 0x2037, 0x1000⟩]⟩] }

theorem test_meets_EngineFetches :
    let x := entry 2 0 .running false
    AheadHas (knowing [x]) ⟨0, 0⟩ x 0 ⟨0x2037, 0x1000, 0, 2 ^ 30⟩ ∧ WayFree (knowing [x]) ⟨0x2037, 0x1000, 0, 2 ^ 30⟩ 0 ∧
      (∀ va, va / 65536 = 0 / 65536 → (engined [x]).aheadHit ⟨0, 0⟩ (entryRegs (engined [x]) x) va = none) ∧ x.isPass = true ∧
      (match ({ engined [x] with l2 := [] } : State).engineTranslate (entryRegs { engined [x] with l2 := [] } x) false .engineRead 0 with
        | .ok _ => false
        | .fail c _ => c == 0x08) = true := by
  refine ⟨by unfold AheadHas; decide, by unfold WayFree; decide, fun _ _ => rfl, by decide, by decide⟩

/-- The first operand byte of a pass, whose page is mapped; an operation that has read all; and a ZOUT of one element. -/
theorem test_meets_EngineReads :
    (entry 2 0 .running false).needs.find? (fun k => !(entry 2 0 .running false).has k) = some 0 ∧
    (match (engined []).engineTranslate ((engined []).ctxRegs ⟨0, 0⟩ 0) false .engineRead 0 with
      | .ok l => l.apt == 0
      | .fail .. => false) = true ∧ (engined [{ entry 2 2 .running false with m := 0 }]).runningEntries ⟨0, 0⟩ = [{ entry 2 2 .running false with m := 0 }] ∧
    ({ entry 2 2 .running false with m := 0 } : EngEntry).needs = [] := by decide

theorem test_meets_EngineWrites :
    let x := { entry 2 3 .running false with tsrA := tsr 1 1 4 0 0x4000, n := 1 }
    Tsr.inb x.tsrA (Tsr.pos x.tsrA 0 0) = true ∧ Tsr.space x.tsrA = 0 ∧
      Tsr.addrAt x.tsrA (Tsr.pos x.tsrA 0 0).1 (Tsr.pos x.tsrA 0 0).2 (Tsr.org x.tsrA 2) (Tsr.org x.tsrA 3) = 0x4000 ∧
      (match (engined []).engineTranslate ((engined []).ctxRegs ⟨0, 0⟩ 0) false .engineWrite 0x4000 with
        | .ok l => l.apt == 0
        | .fail .. => false) = true := by decide

/-! ### Queues, launches, firmware and the platform -/

/-- A packet with the queue's tag, for packet 0. -/
def packetOf (type extra : Nat) : Packet := BitVec.ofNat 512 (type + 5 * 2 ^ 16 + extra)
/-- A mapped queue on slot 0, with a packet that came through its launch window. -/
def hostQueue (p : Option Packet) (kq : Bool) : HostQueue :=
  ⟨0x20000, 0x5000, 0x6000, 0, 5, 4, kq, 0, 0, 0, .mapped, 0, 0, some 0, 1, 1000, 0, p, [], [], [], (0, 0)⟩
def hosting (p : Option Packet) (kq : Bool) : State := { seqState seq0 [] with
  host := { HostState.reset with boot := .running, queues := [hostQueue p kq] } }
/-- The error of a packet at the head, or none. -/
def headError (type extra : Nat) (kq : Bool) : Option Nat :=
  (hosting (some (packetOf type extra)) kq).packetError (hostQueue (some (packetOf type extra)) kq) (packetOf type extra)

theorem hosting_head (p : Packet) (kq : Bool) : Head (hosting (some p) kq) 0 (hostQueue (some p) kq) p (hosting (some p) kq) :=
  ⟨rfl, rfl, Nat.zero_lt_one, .inl ⟨rfl, rfl⟩⟩

/-- A no-operation, a launch of one workgroup, a wait, a signal, a control packet, and a reserved bit. -/
theorem test_meets_QueueEnginesAct :
    [headError 0 0 false, headError 1 (0x4000 * 2 ^ 64 + 2 ^ 192 + 2 ^ 224 + 2 ^ 240) false, headError 2 (0x5000 * 2 ^ 320) false, headError 3 0 false,
      headError 0x10 (0x200001 * 2 ^ 64) true, headError 0 (2 ^ 9) false, headError 1 0 false]
      = [none, none, none, none, none, some 0x01, some 0x04] ∧
    Packet.qtag (packetOf 0 0) = 5 ∧ Packet.idx (packetOf 0 0) = 0 ∧ Alone (hostQueue none false) (packetOf 0 0) ∧
    ((hosting none false).tableRead 0 0x5000 8).map (fun x => leNat x.1) = some 0 ∧ (hosting none false).dtime < 1 ∧
    ((0 : DWord) - 0).getLsbD 63 = false ∧ ((0 : DWord) - 1).getLsbD 63 = true := by
  unfold Alone; decide

/-- The kernel's lease has been taken over by host die 0, once. -/
def overtaken : State := { hosting none true with
  host := { (hosting none true).host with leases := [⟨.package, 0, 0, 0⟩, ⟨.vuvosum, 0, 0, 0⟩, ⟨.kernel, 0, 1, 0⟩] } }

theorem test_meets_WindowStores : Former overtaken (some 1) ∧ ¬Former overtaken (some 0) ∧ ¬Former overtaken none ∧
    overtaken.queueAt 0x20000 = some (hostQueue none true) ∧ (hostQueue none true).kq = true ∧ MemoryCanonical overtaken ∧
    (match overtaken.ctxTables 0 with
      | none => false
      | some r => match overtaken.engineTranslate r false .store 0x5000 with
        | .fail .. => false
        | .ok l => l.apt == 0 && l.phys 0x5000 == 0x5000) = true := by
  refine ⟨⟨1, ⟨.kernel, 0, 1, 0⟩, rfl, by decide, by decide, by decide⟩, ?_, ?_, by decide, rfl, by unfold MemoryCanonical; decide, by decide⟩
  · rintro ⟨h, l, hf, hl, he, hn⟩
    obtain rfl : (0 : Nat) = h := Option.some.inj hf
    obtain rfl : (⟨.kernel, 0, 1, 0⟩ : Lease) = l := Option.some.inj hl
    exact hn rfl
  · rintro ⟨h, l, hf, -⟩
    cases hf

def descBytes : List Byte := [2, 0, 2] ++ List.replicate 253 0
def descriptor : Desc := BitVec.ofNat 2048 (2 + 2 ^ 17)

/-- A packet that has been dispatched and owes its signal, to a page that the journal gates or not. -/
def owing (emit : Bool) : State :=
  let q : HostQueue := { hostQueue none false with ri := 1, flights := [⟨0, 1, 0x40007000, 9, none, false, none⟩] }
  { (hosting none false).putBytes .pool 0x1008 (leBytes 8 (if emit then 0x40002137 else 0x40002037)) with
    host := { (hosting none false).host with queues := [q] } }
/-- The same where the page is an I/O page. -/
def owingIo : State :=
  { (hosting none false).putBytes .pool 0x1008 (leBytes 8 0x40002837) with host := (owing false).host }

theorem test_meets_SignalOwed : MemoryCanonical (owing false) ∧ ([false, true].all fun e => match (owing e).ctxTables 0 with
    | none => false
    | some r => match (owing e).engineTranslate r false .store 0x40007000 with
      | .fail .. => false
      | .ok l => l.space == .pool && l.apt == 0 && l.emit == e && l.phys 0x40007000 == 0x40007000 && l.at_ == 0x1008) = true ∧
    (owing true).queueOnSlot 0 = (owing true).queueAt 0x20000 := by
  refine ⟨by unfold MemoryCanonical; decide, by decide, by decide⟩

/-- A signal to the host, and one to an address that no entry maps. -/
theorem test_meets_SignalElsewhere :
    (match owingIo.ctxTables 0 with
      | none => false
      | some r => match owingIo.engineTranslate r false .store 0x40007000 with
        | .fail .. => false
        | .ok l => l.apt == 2 && !owingIo.hostGone (l.phys 0x40007000)) = true ∧
    (match (hosting none false).ctxTables 0 with
      | none => false
      | some r => match (hosting none false).engineTranslate r false .store 0x40007000 with
        | .fail .. => true
        | .ok _ => false) = true ∧ (owing false).queueOnSlot 0 = owingIo.queueOnSlot 0 := by decide

/-- A launch of a linked set of two, alone in the pod and beside one that another package has told of. -/
def linkedPacket : Packet := packetOf 1 (0x4000 * 2 ^ 64 + 2 ^ 192 + 2 ^ 224 + 2 ^ 240 + 2 * 2 ^ 448 + 9 * 2 ^ 496)
def coresDesc : Desc := BitVec.ofNat 2048 (2 + 2 ^ 15 + 2 ^ 17)
def linkedWith (theirs : List (Nat × Nat)) : State := { (hosting (some linkedPacket) false).putBytes .pool 0x4000 (leBytes 256 coresDesc.toNat) with
  host := { (hosting (some linkedPacket) false).host with linked := [⟨9, 0, theirs, 0⟩] } }

theorem test_meets_LinkedPacket : linkedPacket.lset = 9 ∧ linkedPacket.lsetn = 2 ∧ linkedPacket.type = 1 ∧
    ((linkedWith []).packetError (hostQueue (some linkedPacket) false) linkedPacket) = none := by decide
theorem test_meets_LinkedDescriptor :
    (linkedWith []).descError (hostQueue (some linkedPacket) false) linkedPacket coresDesc = none := by decide
theorem test_meets_LinkedTable :
    ((linkedWith []).tableRead 0 0x4000 256).map (fun x => BitVec.ofNat 2048 (leNat x.1)) = some coresDesc := by decide
theorem test_meets_LinkedAlone : linkedGo (linkedWith []) linkedPacket = 0 := by decide
theorem test_meets_LinkedTogether : linkedGo (linkedWith [(1, 1)]) linkedPacket = 1 := by decide

theorem test_meets_LaunchPackets : (hosting none false).descError (hostQueue none false) (packetOf 1 0) descriptor = none ∧
    (hosting none false).descError (hostQueue none false) (packetOf 1 0) 0 = some 0x03 ∧
    ((hosting none false).tableRead 0 0x5000 64).isSome = true := by decide

def launch (w : List PendWg) (nb : Nat) : Launch :=
  ⟨7, 0x20000, 0, 0, 0, packetOf 1 (2 ^ 192 + 2 ^ 224 + 2 ^ 240 + nb * 2 ^ 256 + 63 * 2 ^ 480), descriptor, (List.range 8).map fun d => (d, if d = 2 then w else []), false,
    none, 1, 0, [], false, [], false⟩
/-- A launch whose die 2 holds some pending workgroups, on cores that run its context; code lies at address 0. -/
def launching (w : List PendWg) (nb : Nat) : State := { code with
  g := Group.initial
  cores := (List.range 2).map fun k => { Core.reset ⟨2, k⟩ with tlb := [⟨0, none, 0, 65536, 0x217, 2 ^ 51⟩] }
  host := { HostState.reset with boot := .running, stepped := true, launches := [launch w nb] } }

theorem test_meets_LaunchesRun :
    (launching [] 0).host.stepped = true ∧ HostState.reset.stepped = false ∧ (launch [] 0).placed = false ∧ (launch [] 0).desc.cores = false ∧
    State.pendingOn (launch [⟨0, none, none⟩] 0) 2 = [⟨0, none, none⟩] ∧ (launch [⟨0, none, none⟩] 0).packet.notBefore = 0 ∧
    (launch [⟨0, none, none⟩] 0).desc.groups = 1 ∧ (launching [⟨0, none, none⟩] 0).findPlace (launch [⟨0, none, none⟩] 0) 2 [] ⟨0, none, none⟩ = some [⟨2, 0⟩] ∧
    ((launching [] 0).coreAt ⟨2, 0⟩).split = descriptor.split ∧ (launching [] 0).freeSlot ⟨2, 0⟩ 0 = some 0 ∧
    (∀ g ∈ (launching [] 0).groups, g.gid < 10) ∧ (∀ w ∈ (launching [] 0).workgroups, w.wid < 10) ∧
    ({ launching [] 0 with g := taskGroup ⟨2, 0⟩ 0 false } : State).targetCheck 0 = none ∧ (launching [] 1).dtime < (launch [] 1).packet.notBefore ∧
    State.pendingOn (launch [⟨0, none, none⟩] 0) 3 = [] ∧ State.fullest (launch [⟨0, none, none⟩] 0) = some 2 ∧
    3 ∈ (launching [] 0).allowedDies (launch [] 0).packet ∧ ((launching [⟨0, none, none⟩] 0).findPlace (launch [⟨0, none, none⟩] 0) 3 [] ⟨0, none, none⟩).isSome = true := by
  decide

/-- A share of another package's launch arrives; a launch whose workgroups another package has taken. -/
def taken2 (n : Nat) : State := { launching [] 0 with host := { (launching [] 0).host with launches := [{ launch [] 0 with away := n }] } }
def share0 : Share := ⟨0, 7, 0, 0, 0, packetOf 1 0, descriptor, 2, 0, none, none⟩

theorem test_meets_LaunchShares : (launch [] 0).origin.getD ((launching [] 0).pkg, (launch [] 0).lid) = (share0.pkg, share0.lid) ∧
    (launch [] 0).pending.map (·.1) = List.range 8 ∧ (taken2 2).host.launches = [{ launch [] 0 with away := 2 }] ∧ (1 : Nat) < 2 ∧
    ({ launch [] 0 with origin := some (3, 9) } : Launch).origin = some (3, 9) ∧
    (launching [] 0).launchDone { launch [] 0 with origin := some (3, 9) } = true ∧ share0.die ∈ (launching [] 0).allowedDies share0.packet ∧
    coresDesc.cores = true ∧ (launch [] 0).go = false := by decide

/-- The launch's packages take in package 1, which the peer table names, and not package 2; a link has its key. -/
theorem test_meets_PackageSteals :
    let l : Launch := { launch [⟨0, none, none⟩] 0 with packet := packetOf 1 (2 ^ 192 + 2 ^ 224 + 2 ^ 240 + 63 * 2 ^ 478) }
    let s : State := { launching [] 0 with
      fabric := { Fabric.reset with peers := [(1, 0)], links := [⟨2, [some 5, none], false, 0, 0, [], [], none, 0, 0, false⟩] }
      host := { (launching [] 0).host with launches := [l] } }
    1 / 64 = s.vuv ∧ 1 % 64 ∈ s.othersAllowed l.packet ∧ 2 % 64 ∉ s.othersAllowed l.packet ∧ l.origin = none ∧ State.fullest l = some 2 ∧
      l.desc.aff ≠ 2 ∧ ∃ k ∈ s.fabric.links, State.keyed k = true := by
  refine ⟨by decide, by decide, by decide, rfl, by decide, by decide, _, List.mem_singleton.mpr rfl, by decide⟩

theorem test_meets_LaunchEnds : (launching [] 0).launchDone (launch [] 0) = true ∧ (launching [⟨0, none, none⟩] 0).launchDone (launch [⟨0, none, none⟩] 0) = false ∧
    (launching [] 0).host.launches.find? (·.lid == 7) = some (launch [] 0) := by decide

/-- Control packets of operations 1 to 4 on the record at 0x30000 or on the queue beside it. -/
def other (state : RecState) : HostQueue := { hostQueue none false with rec_ := 0x30000, qtag := 6, state := state, slot := none, inline_ := none }
def controlling (op x : Nat) (beside : List HostQueue) : State :=
  let p := packetOf 0x10 ((op + x * 2 ^ 8) * 2 ^ 64)
  { hosting (some p) true with host := { (hosting (some p) true).host with queues := hostQueue (some p) true :: beside } }

theorem controls (op x : Nat) (beside : List HostQueue)
    (h : let p := packetOf 0x10 ((op + x * 2 ^ 8) * 2 ^ 64)
      (controlling op x beside).packetError (hostQueue (some p) true) p = none ∧ p.bar = false ∧ p.sigop = 0 ∧ p.type = 0x10 ∧ p.nat 64 8 = op ∧ p.nat 72 56 = x) :
    Control (controlling op x beside) 0 op x (hostQueue (some (packetOf 0x10 ((op + x * 2 ^ 8) * 2 ^ 64))) true) (packetOf 0x10 ((op + x * 2 ^ 8) * 2 ^ 64))
      (controlling op x beside) :=
  ⟨⟨⟨rfl, rfl, Nat.zero_lt_one, .inl ⟨rfl, rfl⟩⟩, h.1, fun hb => absurd (h.2.1.symm.trans hb) Bool.false_ne_true⟩, ⟨rfl, h.2.2.1⟩, h.2.2.2.1, h.2.2.2.2.1, h.2.2.2.2.2⟩

theorem test_meets_FirmwareActs :
    (∃ q p s1, Control (controlling 1 0xC00 []) 0 1 0xC00 q p s1) ∧ (∃ q p s1, Control (controlling 2 0xC00 [other .registered]) 0 2 0xC00 q p s1) ∧
    (∃ q p s1, Control (controlling 3 0xC00 [other .error]) 0 3 0xC00 q p s1) ∧ (∃ q p s1, Control (controlling 4 0xC0003 [other .mapped]) 0 4 0xC0003 q p s1) ∧
    (controlling 2 0xC00 [other .registered]).queueAt 0x30000 = some (other .registered) ∧ 64 * (0xC0003 / 256) = 0x30000 := by
  refine ⟨⟨_, _, _, controls 1 0xC00 [] (by decide)⟩, ⟨_, _, _, controls 2 0xC00 [other .registered] (by decide)⟩,
    ⟨_, _, _, controls 3 0xC00 [other .error] (by decide)⟩, ⟨_, _, _, controls 4 0xC0003 [other .mapped] (by decide)⟩, by decide, by decide⟩

/-- A queue record in memory: tag 6, 16 packets, its write index and its ring. -/
def recorded : State := { controlling 1 0xC00 [] with mem := [(0x30013, 0x20), (0x3001A, 6)] }

theorem test_meets_Registration : recorded.recordOk 0x30000 (recorded.recordQueue 0x30000) = true ∧ (recorded.recordQueue 0x30000).kq = false ∧
    (controlling 1 0xC00 []).recordOk 0x30000 ((controlling 1 0xC00 []).recordQueue 0x30000) = false := by decide

theorem test_meets_Leases :
    (st base).host.leases.map (·.kind) = [.package, .vuvosum, .kernel] ∧ ((st base).leaseOf .package).expiry = 0 ∧
    ({ st base with dtime := 1001 } : State).host.leases.length = 3 ∧ 0 + 1000 < ({ st base with dtime := 1001 } : State).dtime ∧
    ¬(0 + 1000 < ({ st base with dtime := 1000 } : State).dtime) ∧ ((st base).host.maxEpoch ≤ 0) ∧
    ({ st base with host := { HostState.reset with queues := [other .registered] } } : State).queueAt 0x30000 = some (other .registered) ∧
    ({ st base with host := { HostState.reset with queues := [other .registered] } } : State).freeEngineSlot = some 0 ∧
    (hosting none false).queueOnSlot 0 = some (hostQueue none false) ∧
    ((hosting none false).queueAt 0x20000 = some (hostQueue none false) ∧ ((hosting none false).tableRead 0 0x5000 8).isSome = true) ∧
    (st base).mayTake .package 3 = true ∧ (st base).mayTake .package 9 = false ∧
    (let s : State := { st base with host := { HostState.reset with remap := [0x30000], queues := [other .registered] } }
     s.host.remap = [0x30000] ∧ s.queueAt 0x30000 = some (other .registered) ∧ (other .registered).slot = none ∧ s.freeEngineSlot = some 0 ∧
      s.dtime ≤ (s.leaseOf .package).expiry ∧ s.host.maxEpoch ≤ (s.leaseOf .package).epoch) ∧
    ((st base).liveCores 0).all (fun c => ((st base).coreAt c).swap.armed == none && ((st base).coreAt c).swap.spilling == none) = true := by decide

theorem test_meets_PlatformEvents :
    (let s := { st base with host := { HostState.reset with aperture := (0, 0), stepped := true } }
     s.host.aperture = (0, 0) ∧ s.host.pcieDown = false ∧ s.host.stepped = true ∧ s.grps = [] ∧ s.stores = [] ∧ s.dfrac < 50000 ∧ s.host.lead = 0 ∧
      (List.range 8).all (fun i => !s.isStale 0 i && !s.poisoned .pool i) = true) ∧ (st base).host.stepped = false ∧
    (0 : Nat) + 100000 ≤ ({ st base with dtime := 100000 } : State).dtime ∧ ({ st base with dtime := 99999 } : State).dtime < 0 + 100000 ∧
    (2 : Nat) ^ 36 % 2 ^ 36 = 0 ∧ ((2 : Nat) ^ 36 + 1) % 2 ^ 36 ≠ 0 ∧ HostState.reset.fuses.getD 6 0 ≤ 0 ∧ HostState.reset.fuses.getD 6 0 + 1 > 0 ∧
    (∃ p ∈ storing.stores, p.space = .pool ∧ p.off < 0x104 ∧ 0xC0 < p.off + p.size) ∧
    ({ HostState.reset with master := true, pcieDown := true } : HostState).master = true := by
  refine ⟨by decide, by decide, by decide, by decide, by decide, by decide, by decide, by decide, ⟨_, List.mem_singleton.mpr rfl, by decide⟩, rfl⟩

/-- A descriptor that asks for nothing, and one for a tag. -/
theorem test_meets_Frames :
    let d : Config.TxDescriptor := { buf := 0, len := 14, vlan := none, checksums := false, stamp := false }
    d.checksums = false ∧ d.vlan = none ∧ ({ d with vlan := some 5 } : Config.TxDescriptor).vlan = some 5 ∧ 12 ≤ (List.replicate 14 (0 : Byte)).length := by
  decide

/-- The images of a boot, and of one that lacks the kernel's. -/
theorem test_meets_Boot :
    let is : List BootImage := [0, 1, 2, 3, 4, 6].map fun k => ⟨k, 5, true, 0⟩
    is.map (·.slot) = [0, 1, 2, 3, 4, 6] ∧ (is.all fun i => i.signed && decide (HostState.reset.fuses.getD i.slot 0 ≤ i.version)) = true ∧
      ((is.take 5).all fun i => i.slot != 6) = true ∧ is.take 5 ≠ [] := by decide

/-- An image that boots, one that does not, the identity key of a booted package, and a wrapped key, which it opens or not. -/
theorem test_meets_RootOfTrust :
    (let i : BootImage := ⟨6, 5, true, 0⟩
     i.slot < 7 ∧ i.signed = true ∧ HostState.reset.fuses.getD i.slot 0 ≤ i.version ∧ ({ i with signed := false } : BootImage).signed = false) ∧
    ({ HostState.reset with identity := some 3 } : HostState).identity = some 3 ∧ HostState.reset.identity = none := by decide

theorem test_meets_KeyInstall (key : BitVec 512) (w : BitVec 512) :
    (∃ k, Config.unwrapKey key w = some k) ∨ Config.unwrapKey key w = none := by
  cases Config.unwrapKey key w with
  | some k => exact .inl ⟨k, rfl⟩
  | none => exact .inr rfl

/-! ### Decoding, steps and exceptions -/

theorem test_meets_EncodeDecode :
    (Instr.wf (.vadd { plain with gpr := 3, d := 5, a := .v 2, b := .int 7, ty := .i32, x := 0x3FF }) = true ∧
      encode (.vadd { plain with gpr := 3, d := 5, a := .v 2, b := .int 7, ty := .i32, x := 0x3FF }) = some 0x000003FF0000471C02050300) ∧
    (Instr.wf (.mma ⟨5, 3, 1, 2, .bi, 2⟩) = true ∧ encodeBurin (.mma ⟨5, 3, 1, 2, .bi, 2⟩) = some 0x2D1C50000) := by decide

/-- A running machine, with its schedule, whose group stands at the start of a line of NOPs. -/
def running (t : Turn) : State := { code with
  g := { code.g with stroke := none, stack := [] }
  cores := code.cores.map fun c => { c with issuers := [⟨some 1, 1⟩, ⟨none, 0⟩] }
  host := { HostState.reset with boot := .running }
  sched := [t] }
def nopWord : Slot := 0x00000000000FFFFF000F67
/-- The same machine inside a stroke of one NOP, or with S2 busy under a move from it. -/
def inside (slot : Slot) (busy : List Deferred) : State :=
  { running (.issue 1) with g := { (running (.issue 1)).g with stroke := some ⟨5, [slot], 0, [], .none, []⟩, deferred := busy } }
def load2 : Deferred := ⟨4, .load, [258], [], 0, [], none, 0, []⟩
def move2 : Fields := { plain with d := 4, b := .s 2, ty := .n32, x := 0x3FF }

theorem test_meets_StepRunsDecoded :
    Moves (inside nopWord []) (.issue 1) [] ∧ (inside nopWord []).group? 1 = some (inside nopWord []).g ∧
    (inside nopWord []).held (inside nopWord []).g = true ∧ (inside nopWord []).isReady (inside nopWord []).g = true ∧
    (inside nopWord []).strictStops (inside nopWord []).g.core = false ∧
    decode nopWord = .ok (.nop plain) ∧ State.scoreboardHolds (inside nopWord []).g (.nop plain) = false ∧
    (∃ t, exec (.nop plain) ((moving (inside nopWord []) []).focus 1) = .next t) ∧ State.scoreboardHolds (inside nopWord [load2]).g (.smov move2) = true :=
  ⟨⟨rfl, rfl, rfl⟩, by decide, by decide, by decide, by decide, by rfl, by decide, ⟨_, rfl⟩, by decide⟩

/-- A line of a NOP and a trailer that names no register. -/
def stroked : State :=
  let ws : List Slot := [nopWord, 0xFFFFFFFFFFFFFFFFFF000F66, nopWord, nopWord, nopWord]
  { running (.issue 1) with
    mem := ((({ slots := ws, word := lineWord ws 1 0 } : Line).toBytes.zipIdx.filter (·.1 != 0)).map fun x => (x.2, x.1)) ++ [(2 ^ 51, 0x17)] }

/-- At a stroke start: the line is there, its 24 slots can be gathered, and no fault is in them. -/
theorem test_meets_StrokeStart :
    let s := stroked
    s.group? 1 = some s.g ∧ s.held s.g = true ∧ s.isReady s.g = true ∧ s.strictStops s.g.core = false ∧ s.g.stroke = none ∧ s.g.async = [] ∧ s.g.signal = none ∧ s.g.due = .nothing ∧
      okAnd (s.fetchAt s.g s.g.trapState.mode s.g.pc) (fun x => match decode (x.2.slots.getD (s.g.pc.toNat % 5) 0) with
        | .ok i => i == .nop plain
        | .error _ => false) = true ∧
      okAnd (s.gather s.g 24 s.g.pc none) (fun x => (State.strokeFault s.g.launch.vregs x.1).isNone) = true := by decide

theorem test_meets_SequencerStep :
    let s := { running (.sequence 0) with w := { Workgroup.initial with cores := [⟨0, 0⟩], members := [1], seq := some { seq0 with entered := true } } }
    Moves s (.sequence 0) [] ∧ (moving s []).seqRuns s.w = true := ⟨⟨rfl, rfl, rfl⟩, by decide⟩

theorem test_meets_EventStep :
    (running (.event .thermalShutdown)).host.powered = true ∧ (encode .thermalShutdown).isNone = true ∧ (encodeBurin .thermalShutdown).isNone = true ∧
    (running (.event (.packageReset []))).sched = [.event (.packageReset [])] := by decide

/-- A guard with no lane, a reserved guard, a reserved field, and a SY instruction in user mode. -/
theorem test_meets_IssueRules :
    GuardDefined { plain with gpr := 2 } ∧ (st base).g.em &&& (st base).g.guardMask { plain with gpr := 2 } = 0 ∧ ¬GuardDefined { plain with gpr := 12 } ∧
    ¬GuardDefined { plain with gpr := 14 } ∧ GuardDefined { plain with gpr := 11 } ∧ (Instr.vadd { vv with x := 0x400 }).legal = false ∧
    (Instr.kret plain).legal = true ∧ (st base).g.trapState.mode = false ∧ refusedAs (decode 0x0FEF) .reservedOpcode = true ∧
    GuardDefined (Fields.ofSlot 0x0FEF) := by unfold GuardDefined; decide

theorem test_meets_SystemRangeIsPrivileged : Instr.kret ∈ systemForms ∧ GuardDefined plain ∧ (st base).g.em &&& (st base).g.guardMask plain ≠ 0 ∧
    (Instr.kret plain).legalUnder (st base).g.launch.vregs (st base).g.fmt = true ∧ encode (.kret plain) = some 0x0000000000000FFFFF000FE0 := by
  refine ⟨by unfold systemForms; exact List.mem_cons_self, ?_⟩; unfold GuardDefined; decide

/-- A group whose vectors stand on supervisor pages: every line of the page at 0x10000 is there, and TVB is 0x10000. -/
def vectorsFor (cause : Nat) : State :=
  let l : Line := ⟨List.replicate 5 0x0F67, lineWord (List.replicate 5 0x0F67) 0b11111 0⟩
  let c := Core.reset ⟨0, 0⟩
  { st { base with stroke := some ⟨5, [], 1, [], .trap 9, []⟩ } with
    cores := [{ c with regs := { c.regs with tvb := 0x10000 }, tlb := [⟨0, none, 0x10000, 65536, 0x21F, 2 ^ 51⟩] }]
    mem := ((l.toBytes.zipIdx.filter (·.1 != 0)).map fun x => (64 * cause + x.2, x.1)) ++ [(2 ^ 51, 0x1F)] }
def vectors : State := vectorsFor 13

/-- A sequencer whose workgroup has one member, which waits in its core and whose vector for cause 0x10 is there. -/
theorem test_meets_SequencerStops :
    let v := vectorsFor 16
    let s : State := { v with g := { v.g with wait := .hlt, stroke := none }, w := { Workgroup.initial with cores := [⟨0, 0⟩], members := [1], seq := some seq0 } }
    s.w.seq = some seq0 ∧ s.w.members = [s.g.gid] ∧ State.atWait s.g = true ∧ s.inCore s.g = true ∧ s.g.async = [] ∧ s.g.trapState.tip = false ∧
      okAnd (s.fetchAt s.g true (State.vectorPc (s.regsOf s.g).tvb 0x10)) (fun x =>
        x.2.tgt ((State.vectorPc (s.regsOf s.g).tvb 0x10).toNat % 5)) = true ∧ s.g.deferred = [] ∧ State.atWait base = false := by decide

theorem test_meets_TrapInstruction : Issues (.trap { plain with x := 9 }) { plain with x := 9 } true false (st base) 7 ∧
    vectors.g.stroke = some ⟨5, [], 1, [], .trap 9, []⟩ ∧ vectors.stepsOpen vectors.g = false ∧ State.failedStep vectors.g = none ∧ vectors.g.em ≠ 0 ∧
    vectors.g.trapState.tip = false ∧ vectors.g.deferred = [] ∧
    okAnd (vectors.fetchAt vectors.g true (State.vectorPc (vectors.regsOf vectors.g).tvb 0x0D)) (fun x =>
      x.2.tgt ((State.vectorPc (vectors.regsOf vectors.g).tvb 0x0D).toNat % 5)) = true :=
  ⟨issues_of (by decide), rfl, by decide, by decide, by decide, rfl, rfl, by decide⟩

/-- Trap entry where the vector's page is not present, and where nothing at all is mapped; a second trap; and the return. -/
theorem test_meets_TrapAndReturn : RegistersPresent vectors.g ∧ LanesLive vectors.g ∧ vectors.g.s.length = 60 ∧
    (match (st base).fetchAt base true (State.vectorPc ((st base).regsOf base).tvb 0x0D) with
      | .ok _ => false
      | .error x => x.1 == 0x08) = true ∧
    (let s : State := { vectors with cores := vectors.cores.map fun c => { c with tlb := c.tlb.map fun e => { e with leaf := 0x203 } } }
     (match s.fetchAt s.g true (State.vectorPc (s.regsOf s.g).tvb 0x0D) with
      | .ok _ => false
      | .error x => x.1 != 0x08) = true) ∧
    ({ base with trapState := { base.trapState with tip := true } } : Group).trapState.tip = true ∧
    (let s := vectors.trap 0x0D 6 (some 9) (some 7)
     let r : State := { s with g := { s.g with stroke := some ⟨0, [], 1, [], .kret, []⟩ } }
     r.stepsOpen r.g = false ∧ State.failedStep r.g = none ∧ r.g.trapState.saved.em &&& r.g.live ≠ 0 ∧ r.g.trapState.saved.depth ≤ State.depth r.g ∧
      r.g.trapState.saved.s56.length = 4) := by
  refine ⟨by unfold RegistersPresent; decide, by unfold LanesLive; decide, ?_⟩; decide

/-- The invariants hold after reset. -/
theorem test_meets_StepKeepsMemory : MemoryCanonical State.reset := by unfold MemoryCanonical; decide
theorem test_meets_StepKeepsGroups : GroupsSound State.reset := by unfold GroupsSound RegistersPresent LanesLive; decide

end Sys2Proof.Tests
end

section
/-! SUPPORT. What trap entry and the end of a stroke leave of the issuing group, of memory and of the registers of a context (R38, R83, R373),
and the TRAP instruction built on it (R100). -/

namespace Sys2Proof.Machine.State

/-! ## Context registers behind the issuers -/

/-- The CSRs of every core read after as they read before. -/
def RegsSame (s t : State) : Prop := ∀ c, (t.coreAt c).regs = (s.coreAt c).regs

theorem RegsSame.refl (s : State) : RegsSame s s := fun _ => rfl

theorem RegsSame.trans {s t u : State} (h : RegsSame s t) (k : RegsSame t u) : RegsSame s u := fun c => (k c).trans (h c)

theorem RegsSame.of_cores {s t : State} (h : t.cores = s.cores) : RegsSame s t := fun c => by
  unfold coreAt
  rw [h]

/-- After a core record is replaced, its number finds the new record. -/
theorem coreAt_setCore_same (s : State) (k : Core) : (s.setCore k).coreAt k.id = k := by
  unfold setCore
  by_cases h : s.cores.any (·.id == k.id) = true
  · have old : ∃ x, s.cores.find? (·.id == k.id) = some x := by
      rw [← Option.isSome_iff_exists, List.find?_isSome]
      simpa using h
    obtain ⟨x, hx⟩ := old
    have key : ((fun y : Core => y.id == k.id) ∘ fun y => if y.id == k.id then k else y) = fun y => y.id == k.id := by
      funext y
      by_cases e : y.id = k.id <;> simp [e]
    have hid : x.id = k.id := by simpa using List.find?_some (p := fun y : Core => y.id == k.id) hx
    unfold coreAt
    simp only [h, if_true]
    rw [List.find?_map, key, hx]
    simp [hid]
  · have none : s.cores.find? (·.id == k.id) = none := by simpa using h
    simp [h, coreAt, none]

/-- Every other number finds what it found. -/
theorem coreAt_setCore_other (s : State) (k : Core) {c : CoreId} (hc : c ≠ k.id) : (s.setCore k).coreAt c = s.coreAt c := by
  have hk : (k.id == c) = false := by simpa using fun e => hc e.symm
  unfold setCore
  split
  · have key : ((fun y : Core => y.id == c) ∘ fun y => if y.id == k.id then k else y) = fun y => y.id == c := by
      funext y
      by_cases e : y.id = k.id <;> simp [e]
    have keep : ∀ x, s.cores.find? (·.id == c) = some x → (if x.id == k.id then k else x) = x := by
      intro x hx
      have : x.id = c := by simpa using List.find?_some (p := fun y : Core => y.id == c) hx
      simp [this, hc]
    unfold coreAt
    rw [List.find?_map, key]
    cases e : s.cores.find? (·.id == c) with
    | none => rfl
    | some x => exact keep x e
  · simp [coreAt, hk]

/-- A change of a core record that keeps its CSRs. -/
theorem regsSame_modCore (s : State) (id : CoreId) (f : Core → Core) (hf : ∀ c, (f c).regs = c.regs) : RegsSame s (s.modCore id f) := by
  intro c
  unfold modCore
  by_cases h : c = id
  · subst h
    rw [coreAt_setCore_same s { f (s.coreAt c) with id := c }]
    exact hf _
  · rw [coreAt_setCore_other _ _ h]

theorem regsSame_release (s : State) (g : Group) : RegsSame s (s.release g) := regsSame_modCore _ _ _ fun _ => rfl

theorem regsSame_modGroups (s : State) (p : Group → Bool) (f : Group → Group) : RegsSame s (s.modGroups p f) := .of_cores rfl

theorem regsSame_modGroup (s : State) (gid : Nat) (f : Group → Group) : RegsSame s (s.modGroup gid f) := .of_cores (by
  unfold modGroup
  split <;> rfl)

theorem regsSame_issuerFill (c : CoreId) (s : State) (i : Nat) : RegsSame s (issuerFill c s i) := by
  unfold issuerFill
  split
  · exact .refl s
  · split
    · exact .refl s
    · dsimp only
      split
      · refine ((regsSame_modCore _ _ _ ?_).trans (regsSame_modGroups _ _ _)).trans (regsSame_modGroup _ _ _)
        exact fun _ => rfl
      · exact .refl s

theorem regsSame_issuerSelect (s : State) (c : CoreId) : RegsSame s (s.issuerSelect c) :=
  ((regsSame_modGroups s _ _).trans (regsSame_issuerFill _ _ _)).trans (regsSame_issuerFill _ _ _)

/-- The CSRs of a context depend on the core records, the frame bases and memory alone (R377, R383). -/
theorem ctxRegs_same {s t : State} (hr : RegsSame s t) (hd : t.dies = s.dies) (hm : MemorySame s t) (core : CoreId) (ctx : BitVec 32) :
    t.ctxRegs core ctx = s.ctxRegs core ctx := by
  have frame : t.frameOf core ctx = s.frameOf core ctx := by
    unfold frameOf dieAt
    rw [hd]
  have word : ∀ o n, t.wordAt .pool o n = s.wordAt .pool o n := fun o n => by
    unfold wordAt bytesAt
    simp only [hm .pool]
  unfold ctxRegs
  rw [hr core, frame]
  simp only [word]

/-! ## Trap entry -/

theorem memorySame_of_lists {s t : State} (hm : t.mem = s.mem) (hl : t.l2 = s.l2) : MemorySame s t := fun sp o => by
  unfold byteAt
  rw [hm, hl]

/-- With no divide in flight a trap has none to complete (R373). -/
theorem completeDivides_idle {g : Group} (h : ∀ d ∈ g.deferred, d.kind ≠ .divide) : completeDivides g = g := by
  have none : g.deferred.filter (·.kind == .divide) = [] := by simpa using h
  have all : g.deferred.filter (·.kind != .divide) = g.deferred := by simpa using h
  unfold completeDivides
  simp only [none, all, List.foldl_nil]

theorem postMcheck_g (s : State) (code : Nat) (core : CoreId) (slot : Nat) (ctx : BitVec 32) (pc : DWord) (cause : Nat) :
    (s.postMcheck code core slot ctx pc cause).g = s.g := by
  unfold postMcheck
  simp

theorem postMcheck_memory (s : State) (code : Nat) (core : CoreId) (slot : Nat) (ctx : BitVec 32) (pc : DWord) (cause : Nat) :
    MemorySame s (s.postMcheck code core slot ctx pc cause) := by
  unfold postMcheck
  exact memorySame_of_lists (by simp) (by simp)

/-- What the fetch of a trap's vector may still change of the group that has entered the trap: whether it is ready or halted, whether its entry
stays to be checked, and its turns (R374). -/
structure AtVector (s t : State) : Prop where
  group : ∃ w d b n, t.g = { s.g with wait := w, due := d, behind := b, passed := n }
  memory : MemorySame s t

/-- A double trap halts the group, and the rest of its record stays as it was (R374). -/
theorem atVector_doubleTrap (s : State) (code cause : Nat) (pc : DWord) : AtVector s (s.doubleTrap code cause pc) := by
  have sel := reselected_issuerSelect
    (((s.modG fun g => { g with wait := .halted }).release s.g).postMcheck code s.g.core s.g.slot s.g.ctx pc cause) s.g.core
  have rel := reselected_release (s.modG fun g => { g with wait := .halted }) s.g
  refine ⟨?_, fun sp o => ?_⟩
  · have group := sel.group
    rw [postMcheck_g, rel.group] at group
    exact ⟨.halted, _, _, _, group⟩
  · exact (sel.memory sp o).trans ((postMcheck_memory _ _ _ _ _ _ _ sp o).trans (rel.memory sp o))

/-- With TIP clear a trap condition enters the trap, whatever the fetch of the vector gives (R373, R374). -/
theorem trap_entered {s : State} (cause : Nat) (tepc : DWord) (tval : Option DWord) (tl : Option Mask) (h : s.g.trapState.tip = false) :
    AtVector (s.enterTrap cause tepc tval tl) (s.trap cause tepc tval tl) := by
  have halts : ∀ c pc, AtVector (s.enterTrap cause tepc tval tl)
      (((s.enterTrap cause tepc tval tl).modG fun g => { g with wait := .ready }).doubleTrap 0x01 c pc) := by
    intro c pc
    have u := atVector_doubleTrap ((s.enterTrap cause tepc tval tl).modG fun g => { g with wait := .ready }) 0x01 c pc
    exact ⟨u.group, u.memory⟩
  unfold trap
  simp only [h, Bool.false_eq_true, if_false]
  split
  · exact ⟨⟨.ready, .entry, _, _, rfl⟩, fun _ _ => rfl⟩
  · exact halts _ _
  · split
    · exact ⟨⟨.ready, _, _, _, rfl⟩, fun _ _ => rfl⟩
    · exact halts _ _

/-! ## The end of a stroke -/

/-- The stroke ends: PC is at next, and the group is not ready yet (R38, R83). -/
def endStroke (s : State) : State := s.modG fun g => { g with pc := g.pc + 1, stroke := none, wait := .step }

/-- The machine in which the tail of a stroke takes effect: the stroke has ended, and the issuer of its group has gone on (R38, R83). -/
def afterTrailer (s : State) : State :=
  ((s.endStroke.release s.g).issuerSelect s.g.core).modG fun g => { g with wait := .ready }

theorem reselected_endStroke (s : State) : Reselected s.endStroke ((s.endStroke.release s.g).issuerSelect s.g.core) :=
  (reselected_release _ _).trans (reselected_issuerSelect _ _)

theorem afterTrailer_group (s : State) : ∃ b n,
    s.afterTrailer.g = { s.g with pc := s.g.pc + 1, stroke := none, wait := .ready, behind := b, passed := n } := by
  unfold afterTrailer
  rw [modG_g, s.reselected_endStroke.group]
  exact ⟨_, _, rfl⟩

theorem afterTrailer_memory (s : State) : MemorySame s s.afterTrailer := fun sp o => s.reselected_endStroke.memory sp o

theorem afterTrailer_dies (s : State) : s.afterTrailer.dies = s.dies := by
  unfold afterTrailer
  rw [modG_dies, s.reselected_endStroke.rest]
  rfl

theorem regsSame_afterTrailer (s : State) : RegsSame s s.afterTrailer :=
  (regsSame_release s.endStroke s.g).trans (regsSame_issuerSelect (s.endStroke.release s.g) s.g.core)

theorem afterTrailer_ctxRegs (s : State) (core : CoreId) (ctx : BitVec 32) : s.afterTrailer.ctxRegs core ctx = s.ctxRegs core ctx :=
  ctxRegs_same s.regsSame_afterTrailer s.afterTrailer_dies s.afterTrailer_memory core ctx

/-- The trailer retires the stroke that it ends: its tail takes effect (R38). -/
theorem retireTrailer_eq {s : State} {st : Stroke} (h : s.g.stroke = some st) :
    s.retireTrailer = ((s.afterTrailer.applyTail st.tail).joinOrEnd).issuerSelect s.g.core := by
  unfold retireTrailer
  rw [h]
  rfl

/-- A trailer that waits for no step, in a stroke with no failed step, retires (R36, R179). -/
theorem exec_trl_retires (tr : Trailer) {s : State} (ho : s.stepsOpen s.g = false) (hf : failedStep s.g = none) :
    exec (.trl tr) s = .next s.retireTrailer := by
  show execTrl tr s = _
  unfold execTrl
  simp only [ho, hf, Bool.false_eq_true, if_false]

/-- A stroke that leaves a lane enabled joins nothing (R89). -/
theorem joinOrEnd_enabled {s : State} (h : s.g.em ≠ 0) : s.joinOrEnd = s := by
  have enabled : (s.g.em != 0) = true := by simpa using h
  unfold joinOrEnd
  simp only [enabled, Bool.or_true, if_true]

end Sys2Proof.Machine.State

namespace Sys2Proof.Claims

open Sys2Proof.Machine State

/-- A TRAP that issues leaves its code to the trailer (R100). -/
theorem exec_trap_awaits {f : Fields} {s : State} {q : Mask} (h : Issues (.trap f) f true false s q) :
    exec (.trap f) s = .next (awaiting s (.trap f.x)) := by
  show execTrap f s = _
  unfold execTrap
  rw [issue_normal h, retireTail_eq]
  rfl

/-- The trap of a TRAP: taken when the stroke has ended, so outside a stroke and at next (R100, R373). -/
def trapOfStroke (s : State) (code : Word) : State := s.afterTrailer.trap 0x0D s.afterTrailer.g.pc (some (code.setWidth 64)) none

theorem trapOfStroke_memory {s : State} (code : Word) (h : s.g.trapState.tip = false) : MemorySame s (trapOfStroke s code) := by
  obtain ⟨b, n, hg⟩ := s.afterTrailer_group
  have tip : s.afterTrailer.g.trapState.tip = false := by rw [hg]; exact h
  exact fun sp o => ((trap_entered _ _ _ _ tip).memory sp o).trans (s.afterTrailer_memory sp o)

/-- The group as a TRAP leaves it, but for what the fetch of the vector decides. -/
structure TrapTaken (s : State) (code : Word) (h : Group) : Prop where
  pc : h.pc = vectorPc (s.regsOf s.g).tvb 0x0D
  tcause : h.trapState.tcause = 0x0D
  tval : h.trapState.tval = code.setWidth 64
  tepc : h.trapState.tepc = s.g.pc + 1
  mode : h.trapState.mode = true
  tip : h.trapState.tip = true
  em : h.em = s.g.em
  stroke : h.stroke = none

/-- The issuers' turns are no part of what a TRAP leaves. -/
theorem TrapTaken.reselected {s t u : State} {code : Word} (h : TrapTaken s code t.g) (k : Reselected t u) : TrapTaken s code u.g := by
  rw [k.group]
  exact ⟨h.pc, h.tcause, h.tval, h.tepc, h.mode, h.tip, h.em, h.stroke⟩

theorem trapOfStroke_taken {s : State} (code : Word) (h : s.g.trapState.tip = false) (hd : ∀ d ∈ s.g.deferred, d.kind ≠ .divide) :
    TrapTaken s code (trapOfStroke s code).g := by
  obtain ⟨b, n, hg⟩ := s.afterTrailer_group
  have tip : s.afterTrailer.g.trapState.tip = false := by rw [hg]; exact h
  have divides : completeDivides s.afterTrailer.g = s.afterTrailer.g := completeDivides_idle (by rw [hg]; exact hd)
  have regs : s.afterTrailer.regsOf s.afterTrailer.g = s.regsOf s.g := by
    unfold regsOf
    rw [afterTrailer_ctxRegs, hg]
  have pc : s.afterTrailer.g.pc = s.g.pc + 1 := by rw [hg]
  have em : s.afterTrailer.g.em = s.g.em := by rw [hg]
  have stroke : s.afterTrailer.g.stroke = none := by rw [hg]
  obtain ⟨w, d, b', n', e⟩ := (trap_entered 0x0D s.afterTrailer.g.pc (some (code.setWidth 64)) none tip).group
  unfold trapOfStroke
  rw [e]
  constructor <;> simp [enterTrap, divides, regs, pc, em, stroke]

/-- KRET from a trap that was taken outside a stroke goes on at TEPC, where a stroke begins (R375). -/
theorem TrapTaken.kretReturn_resumes {s t : State} {code : Word} (h : TrapTaken s code t.g) :
    t.kretReturn.g.pc = s.g.pc + 1 ∧ t.kretReturn.g.stroke = none := by
  refine ⟨h.tepc, ?_⟩
  unfold kretReturn
  simp [h.tcause]

end Sys2Proof.Claims

namespace Sys2Proof

open Machine State Claims

/-- Settles O54. The trap is taken in `afterTrailer`, where the stroke has ended: TCAUSE has no INSTROKE bit and TEPC is at next. The vector
need not be shown to be enterable: the fetch comes after `enterTrap` has drawn its free values, and by `trap_entered` none of its outcomes
changes what is claimed. -/
theorem trapInstruction : Obligations.TrapInstruction := by
  refine ⟨fun f s q h => exec_trap_awaits h, ?_⟩
  intro tr s st code hst htail hopen hfail hem htip _ hdiv
  have taken := trapOfStroke_taken code htip hdiv
  have tail : s.afterTrailer.applyTail st.tail = trapOfStroke s code := by
    rw [htail]
    rfl
  have enabled : (trapOfStroke s code).g.em ≠ 0 := by
    rw [taken.em]
    exact hem
  have sel := reselected_issuerSelect (trapOfStroke s code) s.g.core
  have last := taken.reselected sel
  refine ⟨(trapOfStroke s code).issuerSelect s.g.core, ?_, last.pc, last.tcause, last.tval, last.tepc, last.mode, last.tip, last.em,
    last.stroke, fun sp o => (sel.memory sp o).trans (trapOfStroke_memory code htip sp o), last.kretReturn_resumes⟩
  rw [exec_trl_retires tr hopen hfail, retireTrailer_eq hst, tail, joinOrEnd_enabled enabled]

end Sys2Proof
end

section
/-! SUPPORT. What an instruction that only writes a V register, or a pair, of the qualifying lanes leaves (R66, R118), and the words that VBFX, VBFI
and VPRM compute, bit by bit and byte by byte (R125, R132). -/

namespace Sys2Proof.Machine

/-! ## Writing a lane result -/

/-- The D run of an instruction that may run under a launch lies inside the launch's V registers (R50). -/
theorem dVEnd_le_of_legalUnder {i : Instr} {vr : Nat} {fmt : BitVec 16} {m : BitVec 8 × Fields} (hv : i.mainView = some m)
    (h : i.legalUnder vr fmt = true) : i.dVEnd fmt ≤ vr := by
  unfold Instr.legalUnder at h
  simp only [hv, Bool.and_eq_true, decide_eq_true_eq] at h
  obtain ⟨⟨⟨⟨hd, -⟩, -⟩, -⟩, -⟩ := h
  exact hd

/-- Raising no flag changes nothing. -/
@[simp] theorem raise_zero (s : State) : s.raise 0 = s := by simp [State.raise, State.modG]

/-- The next state of a form that writes its D register, or pair, in the qualifying lanes (R118). -/
theorem issueLanes_wrote {i : Instr} {f : Fields} {wide : Bool} {s : State} {q : Mask} {m : BitVec 8 × Fields} (val : Group → Nat → DWord)
    (hv : i.mainView = some m) (hd : ∀ fmt, i.dVEnd fmt = f.dEnd wide) (present : RegistersPresent s.g) (h : Issues i f false false s q) :
    WroteLanes s (s.issueLanes i f wide val) (Claims.destRun wide f.d.toNat) q (fun k l => Claims.wordOf (val s.g l) k) 0 := by
  have inside : f.d.toNat + (if wide then 2 else 1) ≤ s.g.v.length := by
    have := dVEnd_le_of_legalUnder hv h.fits
    rw [hd] at this
    exact Nat.le_trans this present.1
  have wrote := wroteLanes_vput s i wide f.d.toNat q (val s.g) 0 inside
  rw [raise_zero] at wrote
  unfold State.issueLanes
  rw [State.issue_normal h]
  exact wrote

/-- The same for a form whose result is one word: each qualifying lane holds it. -/
theorem issueLanes_wrote_word {i : Instr} {f : Fields} {s : State} {q : Mask} {m : BitVec 8 × Fields} (val : Group → Nat → Word)
    (hv : i.mainView = some m) (hd : ∀ fmt, i.dVEnd fmt = f.dEnd false) (present : RegistersPresent s.g) (h : Issues i f false false s q) :
    WroteLanes s (s.issueLanes i f false fun g l => (val g l).setWidth 64) [f.d.toNat] q (fun _ l => val s.g l) 0 := by
  have wrote := issueLanes_wrote (wide := false) (fun g l => (val g l).setWidth 64) hv hd present h
  refine { wrote with written := fun k r hk l hl hq => ?_ }
  have k0 : k = 0 := by
    obtain ⟨hlt, -⟩ := List.getElem?_eq_some_iff.1 hk
    simpa using hlt
  rw [wrote.written k r hk l hl hq, k0, Claims.wordOf, BitVec.extractLsb'_setWidth_of_le (by decide), BitVec.extractLsb'_eq_self]

/-- What a one-register result holds may be read from the next state itself. -/
theorem wroteLanes_read_back {s t : State} {d : Nat} {q : Mask} {val : Nat → Nat → Word} {fl : FlagSet} (h : WroteLanes s t [d] q val fl) :
    WroteLanes s t [d] q (fun _ l => t.g.vget d l) fl := by
  refine { h with written := fun k r hk l _ _ => ?_ }
  have : r ∈ [d] := List.mem_of_getElem? hk
  rw [List.mem_singleton.1 this]

/-- A form that writes one word: what its next state leaves, and what each qualifying lane reads there. -/
theorem issueLanes_reads {i : Instr} {f : Fields} {s : State} {q : Mask} {m : BitVec 8 × Fields} (val : Group → Nat → Word)
    (hv : i.mainView = some m) (hd : ∀ fmt, i.dVEnd fmt = f.dEnd false) (present : RegistersPresent s.g) (h : Issues i f false false s q) :
    let t := s.issueLanes i f false fun g l => (val g l).setWidth 64
    WroteLanes s t [f.d.toNat] q (fun _ l => t.g.vget f.d.toNat l) 0 ∧
      ∀ l, l < 96 → q.getLsbD l = true → t.g.vget f.d.toNat l = val s.g l := by
  have wrote := issueLanes_wrote_word val hv hd present h
  exact ⟨wroteLanes_read_back wrote, fun l hl hq => wrote.written 0 f.d.toNat rfl l hl hq⟩

/-! ## Bit fields -/

/-- The position that a control word gives (R125). -/
def fieldPos (c : Word) : Nat := (c.extractLsb' 0 8).toNat

/-- The length that a control word gives (R125). -/
def fieldLength (c : Word) : Nat := (c.extractLsb' 8 8).toNat

/-- How many bits of the field lie inside the word (R125). -/
def fieldWidth (c : Word) : Nat := min (fieldPos c + fieldLength c) 32 - fieldPos c

/-- The highest bit of the word that the field reaches (R125). -/
def fieldTop (c : Word) : Nat := min (fieldPos c + fieldLength c) 32 - 1

/-- A control word that names no bit: the field is empty or begins past the word (R125). -/
def FieldEmpty (c : Word) : Prop := fieldLength c = 0 ∨ 32 ≤ fieldPos c

theorem fieldPos_eq (c : Word) : c.toNat % 256 = fieldPos c := by simp [fieldPos]

theorem fieldLength_eq (c : Word) : c.toNat / 256 % 256 = fieldLength c := by simp [fieldLength, Nat.shiftRight_eq_div_pow]

theorem fieldEmpty_iff (c : Word) : (decide (fieldLength c = 0) || decide (32 ≤ fieldPos c)) = true ↔ FieldEmpty c := by
  simp [FieldEmpty]

theorem fieldWidth_pos {c : Word} (h : ¬FieldEmpty c) : 0 < fieldWidth c := by
  unfold FieldEmpty at h
  unfold fieldWidth
  omega

theorem le_fieldTop_iff {c : Word} (h : ¬FieldEmpty c) (j : Nat) : j ≤ fieldTop c ↔ j < fieldPos c + fieldWidth c := by
  have := fieldWidth_pos h
  unfold fieldWidth at this ⊢
  unfold fieldTop
  omega

theorem fieldPos_add_last {c : Word} (h : ¬FieldEmpty c) : fieldPos c + (fieldWidth c - 1) = fieldTop c := by
  have := fieldWidth_pos h
  unfold fieldWidth at this ⊢
  unfold fieldTop
  omega

theorem fieldWidth_le (c : Word) : fieldWidth c ≤ 32 := by
  unfold fieldWidth
  omega

/-- Narrowing to a word takes an integer modulo 2^32. -/
theorem ofNat_wrapInt (z : Int) : BitVec.ofNat 32 (wrapInt 32 z).toNat = BitVec.ofInt 32 z := by
  have : (z % (2 ^ 32 : Nat)).toNat < 2 ^ 32 := by omega
  apply BitVec.eq_of_toNat_eq
  simp only [wrapInt, BitVec.toNat_ofNat, BitVec.toNat_ofInt]
  omega

/-- A pattern of at most 64 bits, read as R116 says. -/
theorem extInt_ofNat {w : Nat} (signed : Bool) (x : BitVec w) (h0 : 0 < w) (h : w ≤ 64) :
    extInt signed w (BitVec.ofNat 64 x.toNat) = if signed then x.toInt else x.toNat := by
  have fits : x.toNat < 2 ^ 64 := Nat.lt_of_lt_of_le x.isLt (Nat.pow_le_pow_right (by decide) h)
  have double : 2 ^ w = 2 * 2 ^ (w - 1) := by rw [← Nat.pow_succ', Nat.succ_eq_add_one, Nat.sub_add_cancel h0]
  have value : (BitVec.ofNat 64 x.toNat).toNat % 2 ^ w = x.toNat := by
    rw [BitVec.toNat_ofNat, Nat.mod_eq_of_lt fits, Nat.mod_eq_of_lt x.isLt]
  unfold extInt
  rw [value]
  cases signed with
  | false => simp
  | true =>
    rw [BitVec.toInt_eq_toNat_cond]
    by_cases top : 2 ^ (w - 1) ≤ x.toNat
    · simp [top, show ¬ 2 * x.toNat < 2 ^ w by omega]
    · simp [top, show 2 * x.toNat < 2 ^ w by omega]

/-- The types of VBFX are the signed i32 and the unsigned n32 (R125). -/
theorem signed_of_okVbfx {f : Fields} (h : f.okVbfx = true) : f.ty.signed = (f.ty == .i32) := by
  simp only [Fields.okVbfx, Bool.and_eq_true, Bool.or_eq_true, beq_iff_eq] at h
  obtain ⟨⟨⟨⟨⟨⟨⟨-, i32 | n32⟩, -⟩, -⟩, -⟩, -⟩, -⟩, -⟩ := h
  · rw [i32]
    rfl
  · rw [n32]
    rfl

/-- An empty field extracts as zero. -/
theorem bitField_empty (signed : Bool) (a : Word) {b : Word} (h : FieldEmpty b) : bitField signed a b = 0 := by
  simp only [bitField, fieldPos_eq, fieldLength_eq, (fieldEmpty_iff b).2 h, if_true]

/-- A field is the run of A that the control word names, extended to a word. -/
theorem bitField_eq (signed : Bool) (a : Word) {b : Word} (h : ¬FieldEmpty b) :
    bitField signed a b = if signed then (a.extractLsb' (fieldPos b) (fieldWidth b)).signExtend 32
      else (a.extractLsb' (fieldPos b) (fieldWidth b)).setWidth 32 := by
  have run : a.toNat / 2 ^ fieldPos b % 2 ^ fieldWidth b = (a.extractLsb' (fieldPos b) (fieldWidth b)).toNat := by
    rw [BitVec.extractLsb'_toNat, Nat.shiftRight_eq_div_pow]
  have width : min (fieldPos b + fieldLength b) 32 - fieldPos b = fieldWidth b := rfl
  simp only [bitField, fieldPos_eq, fieldLength_eq, fieldEmpty_iff, h, if_false, width, run, ofNat_wrapInt]
  rw [extInt_ofNat signed _ (fieldWidth_pos h) (Nat.le_trans (fieldWidth_le b) (by decide))]
  cases signed with
  | false => exact (BitVec.ofInt_natCast 32 _).trans (BitVec.ofNat_toNat 32 _)
  | true => rfl

/-- Bit by bit, a field holds the named bits of A, and above them zero or its top bit (R125). -/
theorem bitField_getLsbD (signed : Bool) (a : Word) {b : Word} (h : ¬FieldEmpty b) {j : Nat} (hj : j < 32) :
    (bitField signed a b).getLsbD j =
      if fieldPos b + j ≤ fieldTop b then a.getLsbD (fieldPos b + j) else signed && a.getLsbD (fieldTop b) := by
  have last : fieldWidth b - 1 < fieldWidth b := Nat.sub_lt (fieldWidth_pos h) Nat.one_pos
  simp only [bitField_eq signed a h, le_fieldTop_iff h, Nat.add_lt_add_iff_left]
  cases signed with
  | false => simp [hj]
  | true =>
    simp only [if_true, BitVec.getLsbD_signExtend, BitVec.msb_eq_getLsbD_last, BitVec.getLsbD_extractLsb', hj, last,
      fieldPos_add_last h]
    by_cases inside : j < fieldWidth b <;> simp [inside]

/-- The mask of VBFI has the bits that the control word names. -/
theorem fieldMask_getLsbD (p n j : Nat) (hj : j < 32) :
    (BitVec.ofNat 32 ((2 ^ n - 1) * 2 ^ p)).getLsbD j = decide (p ≤ j ∧ j < p + n) := by
  rw [BitVec.getLsbD_ofNat, Nat.testBit_mul_two_pow, Nat.testBit_two_pow_sub_one]
  simp only [hj, decide_true, Bool.true_and, ← Bool.decide_and, decide_eq_decide]
  omega

/-- An empty field leaves B as it is. -/
theorem bitInsert_empty (a b : Word) {c : Word} (h : FieldEmpty c) : bitInsert a b c = b := by
  simp only [bitInsert, fieldPos_eq, fieldLength_eq, (fieldEmpty_iff c).2 h, if_true]

/-- Bit by bit, an insertion holds the low bits of A in the named bits, and B elsewhere (R125). -/
theorem bitInsert_getLsbD (a b : Word) {c : Word} (h : ¬FieldEmpty c) {j : Nat} (hj : j < 32) :
    (bitInsert a b c).getLsbD j =
      if fieldPos c ≤ j ∧ j ≤ fieldTop c then a.getLsbD (j - fieldPos c) else b.getLsbD j := by
  have width : min (fieldPos c + fieldLength c) 32 - fieldPos c = fieldWidth c := rfl
  simp only [bitInsert, fieldPos_eq, fieldLength_eq, fieldEmpty_iff, h, if_false, width, le_fieldTop_iff h, BitVec.getLsbD_or,
    BitVec.getLsbD_and, BitVec.getLsbD_not, BitVec.getLsbD_shiftLeft, fieldMask_getLsbD _ _ _ hj]
  by_cases inside : fieldPos c ≤ j ∧ j < fieldPos c + fieldWidth c
  · simp [inside, hj, Nat.not_lt.2 inside.1]
  · simp [inside, hj]

/-! ## Byte permutation -/

/-- The byte of the pair B:A that three bits of C select (R132). -/
def selectedByte (a b : Word) (n : Nat) : Byte := if n < 4 then a.extractLsb' (8 * n) 8 else b.extractLsb' (8 * (n - 4)) 8

/-- A byte of VPRM: the selected byte of the pair, or its sign spread over the byte (R132). -/
def permutedByte (a b c : Word) (j : Nat) : Byte :=
  if (c.extractLsb' (4 * j) 4).getLsbD 3 then
    if ((b ++ a).extractLsb' (8 * ((c.extractLsb' (4 * j) 4).toNat % 8)) 8).getLsbD 7 then 0xFF else 0x00
  else (b ++ a).extractLsb' (8 * ((c.extractLsb' (4 * j) 4).toNat % 8)) 8

/-- VPRM puts its four bytes side by side. -/
theorem permute_eq (a b c : Word) :
    permute a b c = permutedByte a b c 3 ++ permutedByte a b c 2 ++ permutedByte a b c 1 ++ permutedByte a b c 0 := rfl

/-- A byte of a word of four bytes. -/
theorem extractLsb'_fourBytes (x : Nat → Byte) {j : Nat} (hj : j < 4) : (x 3 ++ x 2 ++ x 1 ++ x 0).extractLsb' (8 * j) 8 = x j := by
  match j, hj with
  | 0, _ => exact (BitVec.extractLsb'_append_eq_of_add_le (by decide)).trans BitVec.extractLsb'_eq_self
  | 1, _ =>
    rw [BitVec.extractLsb'_append_eq_of_le (by decide)]
    exact (BitVec.extractLsb'_append_eq_of_add_le (by decide)).trans BitVec.extractLsb'_eq_self
  | 2, _ =>
    rw [BitVec.extractLsb'_append_eq_of_le (by decide), BitVec.extractLsb'_append_eq_of_le (by decide)]
    exact (BitVec.extractLsb'_append_eq_of_add_le (by decide)).trans BitVec.extractLsb'_eq_self
  | 3, _ =>
    rw [BitVec.extractLsb'_append_eq_of_le (by decide), BitVec.extractLsb'_append_eq_of_le (by decide),
      BitVec.extractLsb'_append_eq_of_le (by decide)]
    exact BitVec.extractLsb'_eq_self

/-- A byte of the pair B:A is a byte of A or of B. -/
theorem extractLsb'_pair (a b : Word) (n : Nat) : (b ++ a).extractLsb' (8 * n) 8 = selectedByte a b n := by
  unfold selectedByte
  by_cases low : n < 4
  · rw [if_pos low, BitVec.extractLsb'_append_eq_of_add_le (by omega)]
  · rw [if_neg low, BitVec.extractLsb'_append_eq_of_le (by omega), Nat.mul_sub]

/-- The three low bits of a selector. -/
theorem selector_mod (c : Word) (j : Nat) : (c.extractLsb' (4 * j) 4).toNat % 8 = (c.extractLsb' (4 * j) 3).toNat := by
  simp only [BitVec.extractLsb'_toNat]
  omega

/-- Byte by byte, VPRM copies the selected byte or spreads its sign (R132). -/
theorem permute_extractLsb' (a b c : Word) {j : Nat} (hj : j < 4) :
    (permute a b c).extractLsb' (8 * j) 8 =
      if c.getLsbD (4 * j + 3) = false then selectedByte a b (c.extractLsb' (4 * j) 3).toNat
      else if (selectedByte a b (c.extractLsb' (4 * j) 3).toNat).getLsbD 7 then 0xFF else 0x00 := by
  have spread : (c.extractLsb' (4 * j) 4).getLsbD 3 = c.getLsbD (4 * j + 3) := by simp
  rw [permute_eq, extractLsb'_fourBytes _ hj, permutedByte, spread, selector_mod, extractLsb'_pair]
  cases c.getLsbD (4 * j + 3) <;> rfl

end Sys2Proof.Machine

namespace Sys2Proof

open Machine

/-- Settles O53. VSEL is a lane form whose register run follows its type, so `issueLanes_wrote` is its whole effect. -/
theorem selectByLane : Obligations.SelectByLane := fun f _ _ present h =>
  ⟨_, rfl, issueLanes_wrote (fun g l => if g.word f.c l ≠ 0 then g.intA f l else g.intB f l) rfl (fun _ => rfl) present h⟩

/-- Settles O59. Each lane reads what `bitField` or `bitInsert` gives, and `bitField_getLsbD` and `bitInsert_getLsbD` say that bit by bit. -/
theorem bitFields : Obligations.BitFields := by
  constructor
  · intro f s q present h
    obtain ⟨wrote, reads⟩ := issueLanes_reads (fun g l => bitField f.ty.signed (g.word f.a l) (g.word f.b l)) rfl (fun _ => rfl) present h
    refine ⟨_, rfl, wrote, fun l hl hq => ⟨fun empty => ?_, fun len pos j hj => ?_⟩⟩
    · exact (reads l hl hq).trans (bitField_empty _ _ empty)
    · rw [← signed_of_okVbfx h.legal]
      exact (congrArg (·.getLsbD j) (reads l hl hq)).trans (bitField_getLsbD _ _ (not_or.2 ⟨len, Nat.not_le.2 pos⟩) hj)
  · intro f s q present h
    obtain ⟨wrote, reads⟩ := issueLanes_reads (fun g l => bitInsert (g.word f.a l) (g.word f.b l) (g.word f.c l)) rfl (fun _ => rfl) present h
    refine ⟨_, rfl, wrote, fun l hl hq => ⟨fun empty => ?_, fun len pos j hj => ?_⟩⟩
    · exact (reads l hl hq).trans (bitInsert_empty _ _ empty)
    · exact (congrArg (·.getLsbD j) (reads l hl hq)).trans (bitInsert_getLsbD _ _ (not_or.2 ⟨len, Nat.not_le.2 pos⟩) hj)

/-- Settles O60. Each lane reads what `permute` gives, and `permute_extractLsb'` says that byte by byte. -/
theorem bytePermutation : Obligations.BytePermutation := by
  intro f s q present h
  obtain ⟨wrote, reads⟩ := issueLanes_reads (fun g l => permute (g.word f.a l) (g.word f.b l) (g.word f.c l)) rfl (fun _ => rfl) present h
  refine ⟨_, rfl, wrote, fun l hl hq j hj => ?_⟩
  exact (congrArg (·.extractLsb' (8 * j) 8) (reads l hl hq)).trans (permute_extractLsb' _ _ _ hj)

end Sys2Proof
end
